-- ==== Sys2Proof/Word.lean ====
section
/-! DEFINITION. The word types of the XK4 (R14, R15) and their plainest arithmetic. -/

namespace Sys2Proof

/-- A byte (R14). -/
abbrev Byte := BitVec 8
/-- A half, 16 bits (R14). -/
abbrev W16 := BitVec 16
/-- A word, 32 bits (R14): one instruction of S, V, M or C (R27). -/
abbrev W32 := BitVec 32
/-- A dword, 64 bits (R14): a scalar register (R300). -/
abbrev W64 := BitVec 64
/-- A capability, 128 bits (R11). -/
abbrev Cap := BitVec 128
/-- A lane-mask register, 256 bits (R267). -/
abbrev Mask := BitVec 256

end Sys2Proof
end

