-- ==== Sys2Proof/Machine/Table.lean ====
section
/-! DEFINITION. Sparse maps in one canonical form: keys strictly rising, no entry equal to the default.
Memories (Host.Cell lists) and register files are such maps. -/

namespace Sys2Proof.Machine

/-- A sparse map: pairs of key and value. -/
abbrev Table (α : Type) := List (Nat × α)

/-- The value at key `k`, or `d` where the map lists none. -/
def tget {α : Type} (d : α) : Table α → Nat → α
  | [], _ => d
  | (j, x) :: t, k => if j = k then x else tget d t k

/-- Insert without regard to the default; keys stay rising. -/
def tins {α : Type} : Table α → Nat → α → Table α
  | [], k, v => [(k, v)]
  | (j, x) :: t, k, v =>
    if k < j then (k, v) :: (j, x) :: t
    else if j = k then (k, v) :: t
    else (j, x) :: tins t k v

/-- Remove the entry of key `k`. -/
def tdel {α : Type} : Table α → Nat → Table α
  | [], _ => []
  | (j, x) :: t, k => if j = k then tdel t k else (j, x) :: tdel t k

/-- Write `v` at `k`; a value equal to the default leaves no entry. -/
def tset {α : Type} [DecidableEq α] (d : α) (t : Table α) (k : Nat) (v : α) : Table α :=
  if v = d then tdel t k else tins t k v

/-- The canonical form of a sparse map: keys strictly rising, no entry equal to the default. -/
def twf {α : Type} [DecidableEq α] (d : α) : Table α → Bool
  | [] => true
  | [(_, x)] => decide (x ≠ d)
  | (j, x) :: (k, y) :: t => decide (x ≠ d) && decide (j < k) && twf d ((k, y) :: t)

/-- Memory in canonical form (Host.Cell lists): an unlisted byte reads as 0. -/
def Memory.wf (m : List Host.Cell) : Bool := twf (0 : Byte) m

/-- Read one byte. -/
def mread (m : List Host.Cell) (a : Nat) : Byte := tget (0 : Byte) m a

/-- Write one byte, keeping the canonical form. -/
def mwrite (m : List Host.Cell) (a : Nat) (b : Byte) : List Host.Cell := tset (0 : Byte) m a b

/-- Read `n` bytes from `a` up. -/
def mreadN (m : List Host.Cell) (a : Nat) : Nat → List Byte
  | 0 => []
  | n + 1 => mread m a :: mreadN m (a + 1) n

/-- Write the bytes of a list from `a` up. -/
def mwriteN (m : List Host.Cell) (a : Nat) : List Byte → List Host.Cell
  | [] => m
  | b :: bs => mwriteN (mwrite m a b) (a + 1) bs

/-- The number that a little-endian byte string holds (R15). -/
def leNat : List Byte → Nat
  | [] => 0
  | b :: bs => b.toNat + 256 * leNat bs

/-- The `n` bytes of a number, little-endian (R15). -/
def leBytes : Nat → Nat → List Byte
  | 0, _ => []
  | n + 1, x => BitVec.ofNat 8 (x % 256) :: leBytes n (x / 256)

/-- Bits `lo` to `lo + n - 1` of a number. -/
def bitsOf (x lo n : Nat) : Nat := x / 2 ^ lo % 2 ^ n

/-- Element `i` of a list, with a default. -/
def nthD {α : Type} (d : α) : List α → Nat → α
  | [], _ => d
  | x :: _, 0 => x
  | _ :: t, n + 1 => nthD d t n

/-- Replace element `i` of a list. -/
def setNth {α : Type} : List α → Nat → α → List α
  | [], _, _ => []
  | _ :: t, 0, v => v :: t
  | x :: t, n + 1, v => x :: setNth t n v

/-- Drop element `i` of a list. -/
def delNth {α : Type} : List α → Nat → List α
  | [], _ => []
  | _ :: t, 0 => t
  | x :: t, n + 1 => x :: delNth t n

/-- Remove repetitions. -/
def uniq : List Nat → List Nat
  | [] => []
  | x :: t => if t.contains x then uniq t else x :: uniq t
/-- Put a number into a list kept in rising order. -/
def putUp (n : Nat) : List Nat → List Nat
  | [] => [n]
  | x :: t => if n ≤ x then n :: x :: t else x :: putUp n t

/-- Pad a byte list with zeros, or cut it, to `n` bytes. -/
def fitBytes (n : Nat) (l : List Byte) : List Byte := (l ++ List.replicate n 0).take n

/-- A signed reading of the low `n` bits of a number. -/
def sgn (x n : Nat) : Int :=
  let r := x % 2 ^ n
  if r < 2 ^ (n - 1) then (r : Int) else (r : Int) - (2 ^ n : Nat)

/-- The low `n` bits of an integer, as a number. -/
def lowBits (x : Int) (n : Nat) : Nat := (x % ((2 ^ n : Nat) : Int)).toNat

end Sys2Proof.Machine
end

