-- ==== Sys2Proof/Machine/Keccak.lean ====
section
/-! DEFINITION. SHAKE256 and KMAC256, which R12 names by their standards alone: Keccak-f[1600] and its sponge as FIPS 202 and
SP 800-185 have them (PRESUMED, log entry 105). -/

namespace Sys2Proof.Machine

/-- Lane (x, y) of the 25 lanes, which stand in order of x + 5 y. -/
def lane (a : List W64) (x y : Nat) : W64 := nthD 0 a (x % 5 + 5 * (y % 5))
/-- Each lane anew, from its coordinates. -/
def eachLane (f : Nat → Nat → W64) : List W64 := (List.range 25).map (fun i => f (i % 5) (i / 5))
/-- How far each lane turns. -/
def laneTurns : List Nat :=
  [0, 1, 62, 28, 27, 36, 44, 6, 55, 20, 3, 10, 43, 25, 39, 41, 45, 15, 21, 8, 18, 2, 61, 56, 14]
/-- The constants of the 24 rounds. -/
def roundConsts : List W64 :=
  [0x0000000000000001#64, 0x0000000000008082#64, 0x800000000000808A#64, 0x8000000080008000#64,
   0x000000000000808B#64, 0x0000000080000001#64, 0x8000000080008081#64, 0x8000000000008009#64,
   0x000000000000008A#64, 0x0000000000000088#64, 0x0000000080008009#64, 0x000000008000000A#64] ++
  [0x000000008000808B#64, 0x800000000000008B#64, 0x8000000000008089#64, 0x8000000000008003#64,
   0x8000000000008002#64, 0x8000000000000080#64, 0x000000000000800A#64, 0x800000008000000A#64,
   0x8000000080008081#64, 0x8000000000008080#64, 0x0000000080000001#64, 0x8000000080008008#64]
/-- One round. -/
def keccakRound (a : List W64) (rc : W64) : List W64 :=
  let c := (List.range 5).map (fun x => lane a x 0 ^^^ lane a x 1 ^^^ lane a x 2 ^^^ lane a x 3 ^^^ lane a x 4)
  let d := (List.range 5).map (fun x => nthD 0 c ((x + 4) % 5) ^^^ (nthD 0 c ((x + 1) % 5)).rotateLeft 1)
  let t := eachLane (fun x y => lane a x y ^^^ nthD 0 d x)
  let b := eachLane (fun x y => (lane t (x + 3 * y) x).rotateLeft (nthD 0 laneTurns ((x + 3 * y) % 5 + 5 * x)))
  let e := eachLane (fun x y => lane b x y ^^^ (~~~(lane b (x + 1) y) &&& lane b (x + 2) y))
  setNth e 0 (nthD 0 e 0 ^^^ rc)
/-- The permutation. -/
def keccakF (a : List W64) : List W64 := roundConsts.foldl keccakRound a
/-- The bytes of a sponge block: 136. -/
def spongeRate : Nat := 136
/-- A message padded to whole blocks, behind the suffix byte of its function. -/
def spongePad (suffix : Byte) (m : List Byte) : List Byte :=
  let n := m.length % 136
  if n = 135 then m ++ [suffix ||| 0x80#8] else m ++ [suffix] ++ List.replicate (134 - n) 0 ++ [0x80#8]
/-- A block goes into the sponge. -/
def absorb (a : List W64) (b : List Byte) : List W64 :=
  keccakF (((List.range 25).zip a).map (fun x => if x.1 < 17 then x.2 ^^^ BitVec.ofNat 64 (leNat ((b.drop (8 * x.1)).take 8)) else x.2))
/-- n blocks go into the sponge. -/
def absorbAll : Nat → List Byte → List W64 → List W64
  | 0, _, a => a
  | n + 1, m, a => absorbAll n (m.drop 136) (absorb a (m.take 136))
/-- The first n bytes of the sponge, at most a block. -/
def sponge (suffix : Byte) (m : List Byte) (n : Nat) : List Byte :=
  let p := spongePad suffix m
  ((absorbAll (p.length / 136) p (List.replicate 25 0)).flatMap (fun w => leBytes 8 w.toNat)).take n
/-- SHAKE256 of a byte string, for an answer of up to 136 bytes (R12, R426, R427). -/
def shake256 (m : List Byte) (n : Nat) : List Byte := sponge 0x1F m n
/-- The bytes of a number below 2^16, the highest first. -/
def beShort (n : Nat) : List Byte := if n < 256 then [BitVec.ofNat 8 n] else [BitVec.ofNat 8 (n / 256), BitVec.ofNat 8 n]
/-- A string behind its length in bits. -/
def spongeString (b : List Byte) : List Byte :=
  let n := beShort (8 * b.length)
  [BitVec.ofNat 8 n.length] ++ n ++ b
/-- Strings padded to whole blocks, behind the block size. -/
def blockPad (b : List Byte) : List Byte :=
  let x := [1#8, 136#8] ++ b
  x ++ List.replicate ((136 - x.length % 136) % 136) 0
/-- KMAC256 of a key, a message and a customisation string, n bytes (R12, R422). -/
def kmacOf (k m s : List Byte) (n : Nat) : List Byte :=
  let l := beShort (8 * n)
  sponge 0x04 (blockPad (spongeString [0x4B#8, 0x4D#8, 0x41#8, 0x43#8] ++ spongeString s) ++ blockPad (spongeString k) ++ m ++ l ++
    [BitVec.ofNat 8 l.length]) n
/-- The tag of a ring: the customisation string is "XK4 RING", the answer 16 bytes (R422). -/
def kmac256 (k m : List Byte) : List Byte :=
  kmacOf k m [0x58#8, 0x4B#8, 0x34#8, 0x20#8, 0x52#8, 0x49#8, 0x4E#8, 0x47#8] 16

end Sys2Proof.Machine
end

