-- ==== Sys2Proof/Machine/Numerics.lean ====
section
/-! DEFINITION. Number formats, rounding, conversions, tapered formats, scale blocks and numerics profiles
(R216 to R242). Exact values are dyadic: a natural number times a power of two. -/

namespace Sys2Proof.Machine

/-- Events of R220, in the bit order of VSTICKY (R270): Invalid, DivZero, Overflow, Underflow, Inexact, Saturate. -/
abbrev Ev := BitVec 6
/-- Invalid (R220). -/
def evInvalid : Ev := 1#6
/-- DivZero (R220). -/
def evDivZero : Ev := 2#6
/-- Overflow (R220). -/
def evOverflow : Ev := 4#6
/-- Underflow (R220). -/
def evUnderflow : Ev := 8#6
/-- Inexact (R220). -/
def evInexact : Ev := 16#6
/-- Saturate (R220). -/
def evSaturate : Ev := 32#6

/-- A decoded value: NaN (and whether it signals), infinity, signed zero, a finite non-zero m × 2^e, or void (R222). -/
inductive FV where
  | nan (signalling : Bool)
  | inf (neg : Bool)
  | zero (neg : Bool)
  | fin (neg : Bool) (m : Nat) (e : Int)
  | void
  deriving DecidableEq, Repr

/-- An IEEE format: exponent bits and fraction bits (R217). -/
structure Fmt where
  eb : Nat
  fb : Nat
  deriving DecidableEq, Repr

/-- binary64 (R217). -/
def fmtF64 : Fmt := ⟨11, 52⟩
/-- binary32 (R217). -/
def fmtF32 : Fmt := ⟨8, 23⟩
/-- bfloat16 (R217). -/
def fmtBf16 : Fmt := ⟨8, 7⟩
/-- binary16 (R217). -/
def fmtF16 : Fmt := ⟨5, 10⟩

/-- Bias of a format (R217). -/
def Fmt.bias (f : Fmt) : Nat := 2 ^ (f.eb - 1) - 1
/-- Width of a format in bits (R217). -/
def Fmt.width (f : Fmt) : Nat := 1 + f.eb + f.fb
/-- The encoding of +infinity, which is also the first encoding past the finite ones (R217). -/
def Fmt.infBits (f : Fmt) : Nat := (2 ^ f.eb - 1) * 2 ^ f.fb
/-- The canonical NaN (R218). -/
def Fmt.canonNan (f : Fmt) : Nat := f.infBits + 2 ^ (f.fb - 1)
/-- The sign bit's weight. -/
def Fmt.signBit (f : Fmt) : Nat := 2 ^ (f.eb + f.fb)
/-- An encoding with its sign put in. -/
def Fmt.withSign (f : Fmt) (neg : Bool) (bits : Nat) : Nat := if neg then f.signBit + bits else bits

/-- The value of an encoding (R217). -/
def Fmt.decode (f : Fmt) (bits : Nat) : FV :=
  let neg := bitsOf bits (f.eb + f.fb) 1 = 1
  let x := bitsOf bits f.fb f.eb
  let fr := bitsOf bits 0 f.fb
  if x = 2 ^ f.eb - 1 then
    if fr = 0 then .inf neg else .nan (bitsOf fr (f.fb - 1) 1 = 0)
  else if x = 0 then
    if fr = 0 then .zero neg else .fin neg fr (1 - (f.bias : Int) - f.fb)
  else .fin neg (2 ^ f.fb + fr) ((x : Int) - f.bias - f.fb)

/-- Whether the discarded part rounds the magnitude up (R220): `q` the kept part, `r` the remainder out of `2 * half`,
`st` more bits below. -/
def roundsUp (rm : Nat) (neg : Bool) (q r half : Nat) (st : Bool) : Bool :=
  let inexact := r ≠ 0 || st
  if rm = 0 then r > half || (r = half && (st || q % 2 = 1))
  else if rm = 1 then false
  else if rm = 2 then neg && inexact
  else !neg && inexact

/-- Split m × 2^e at weight 2^q: the kept multiple, and the remainder with its half. -/
def splitAt2 (m : Nat) (e q : Int) : Nat × Nat × Nat :=
  if q ≤ e then (m * 2 ^ (e - q).toNat, 0, 1)
  else
    let d := (q - e).toNat
    (m / 2 ^ d, (m % 2 ^ d) * 2, 2 ^ d)

/-- floor(log2) of a finite non-zero value (R226). -/
def expOf (m : Nat) (e : Int) : Int := (Nat.log2 m : Int) + e

/-- Round m × 2^e, with further bits below when `st`, once into a format (R219, R220). -/
def Fmt.round (f : Fmt) (rm : Nat) (neg : Bool) (m : Nat) (e : Int) (st : Bool) : Nat × Ev :=
  let emin : Int := 1 - (f.bias : Int)
  let ex := expOf m e
  let q : Int := if ex < emin then emin - f.fb else ex - f.fb
  let (k, r, half) := splitAt2 m e q
  let up := roundsUp rm neg k r half st
  let k' := if up then k + 1 else k
  let inexact := r ≠ 0 || st
  let bits := (q + f.fb + f.bias - 1).toNat * 2 ^ f.fb + k'
  if bits ≥ f.infBits then
    let toInf := rm = 0 || (rm = 2 && neg) || (rm = 3 && !neg)
    (f.withSign neg (if toInf then f.infBits else f.infBits - 1), evOverflow ||| evInexact)
  else
    let (ku, ru, hu) := splitAt2 m e (ex - f.fb)
    let tiny := ex < emin &&
      !(ex + 1 = emin && roundsUp rm neg ku ru hu st && ku + 1 = 2 ^ (f.fb + 1))
    let ev := (if inexact then evInexact else 0) ||| (if inexact && tiny then evUnderflow else 0)
    (f.withSign neg bits, ev)

/-- Put a value into a format, rounding (R219). Void gives the canonical NaN (R230). -/
def Fmt.encode (f : Fmt) (rm : Nat) : FV → Nat × Ev
  | .nan sg => (f.canonNan, if sg then evInvalid else 0)
  | .void => (f.canonNan, evInvalid)
  | .inf n => (f.withSign n f.infBits, 0)
  | .zero n => (f.withSign n 0, 0)
  | .fin n m e => f.round rm n m e false

/-- Is the value a NaN or void? -/
def FV.isNan : FV → Bool
  | .nan _ => true
  | .void => true
  | _ => false
/-- Is it a signalling NaN? -/
def FV.isSnan : FV → Bool
  | .nan s => s
  | _ => false
/-- The value with its sign inverted. -/
def FV.neg : FV → FV
  | .inf n => .inf !n
  | .zero n => .zero !n
  | .fin n m e => .fin (!n) m e
  | x => x
/-- The sign bit of a value. -/
def FV.sign : FV → Bool
  | .inf n => n
  | .zero n => n
  | .fin n _ _ => n
  | _ => false

/-- An exact dyadic number: n × 2^e. -/
structure Dy where
  n : Int
  e : Int
  deriving DecidableEq, Repr

/-- Exact sum. -/
def Dy.add (a b : Dy) : Dy :=
  if a.e ≤ b.e then ⟨a.n + b.n * (2 : Int) ^ (b.e - a.e).toNat, a.e⟩
  else ⟨a.n * (2 : Int) ^ (a.e - b.e).toNat + b.n, b.e⟩

/-- The exact number of a finite value; 0 for the others. -/
def FV.toDy : FV → Dy
  | .fin n m e => ⟨if n then -(m : Int) else m, e⟩
  | _ => ⟨0, 0⟩

/-- A dyadic number as a value; `negZero` is the sign of a zero. -/
def Dy.toFV (d : Dy) (negZero : Bool) : FV :=
  if d.n = 0 then .zero negZero else .fin (d.n < 0) d.n.natAbs d.e

/-- Exact product of two values; NaN where either is NaN or void, or for infinity times zero (R237, R238). -/
def FV.mul (a b : FV) : FV :=
  if a.isNan || b.isNan then .nan (a.isSnan || b.isSnan)
  else
    let s := a.sign != b.sign
    match a, b with
    | .inf _, .zero _ => .nan true
    | .zero _, .inf _ => .nan true
    | .inf _, _ => .inf s
    | _, .inf _ => .inf s
    | .fin _ m e, .fin _ k g => .fin s (m * k) (e + g)
    | _, _ => .zero s

/-- Sum of two values, unrounded; an exact zero sum of unlike signs is −0 only when rounding toward −∞ (R219). -/
def FV.add (rm : Nat) (a b : FV) : FV :=
  if a.isNan || b.isNan then .nan (a.isSnan || b.isSnan)
  else match a, b with
    | .inf s, .inf t => if s = t then .inf s else .nan true
    | .inf s, _ => .inf s
    | _, .inf t => .inf t
    | .zero s, .zero t => .zero (if s = t then s else rm = 2)
    | x, .zero _ => x
    | .zero _, y => y
    | x, y => (x.toDy.add y.toDy).toFV (rm = 2)

/-- a + b in a format (R272). -/
def Fmt.fadd (f : Fmt) (rm a b : Nat) : Nat × Ev := f.encode rm ((f.decode a).add rm (f.decode b))
/-- a − b in a format (R272). -/
def Fmt.fsub (f : Fmt) (rm a b : Nat) : Nat × Ev := f.encode rm ((f.decode a).add rm (f.decode b).neg)
/-- a × b in a format (R272). -/
def Fmt.fmul (f : Fmt) (rm a b : Nat) : Nat × Ev := f.encode rm ((f.decode a).mul (f.decode b))
/-- ±(a × b) ± c with one rounding (R272). An infinity times zero is Invalid whatever c holds. -/
def Fmt.ffma (f : Fmt) (rm : Nat) (np nc : Bool) (a b c : Nat) : Nat × Ev :=
  let p := (f.decode a).mul (f.decode b)
  let c' := if nc then (f.decode c).neg else f.decode c
  f.encode rm ((if np then p.neg else p).add rm c')
/-- |a − b| with one rounding (R272). -/
def Fmt.fabd (f : Fmt) (rm a b : Nat) : Nat × Ev :=
  match (f.decode a).add rm (f.decode b).neg with
  | .inf _ => f.encode rm (.inf false)
  | .zero _ => f.encode rm (.zero false)
  | .fin _ m e => f.encode rm (.fin false m e)
  | x => f.encode rm x

/-- a / b, rounded once (R272). -/
def Fmt.fdiv (f : Fmt) (rm a b : Nat) : Nat × Ev :=
  let x := f.decode a
  let y := f.decode b
  if x.isNan || y.isNan then f.encode rm (.nan (x.isSnan || y.isSnan))
  else
    let s := x.sign != y.sign
    match x, y with
    | .inf _, .inf _ => f.encode rm (.nan true)
    | .zero _, .zero _ => f.encode rm (.nan true)
    | .inf _, _ => f.encode rm (.inf s)
    | _, .inf _ => f.encode rm (.zero s)
    | .zero _, _ => f.encode rm (.zero s)
    | _, .zero _ => (f.withSign s f.infBits, evDivZero)
    | .fin _ m e, .fin _ k g =>
      let sh := Nat.log2 k + f.fb + 4
      let n := m * 2 ^ sh
      f.round rm s (n / k) (e - g - sh) (n % k ≠ 0)
    | _, _ => f.encode rm (.nan true)

/-- Newton's steps toward the integer square root, from above. -/
def isqrtGo (n : Nat) : Nat → Nat → Nat
  | 0, x => x
  | k + 1, x =>
    let y := (x + n / x) / 2
    if y < x then isqrtGo n k y else x

/-- floor of the square root. -/
def isqrt (n : Nat) : Nat := if n = 0 then 0 else isqrtGo n (Nat.log2 n + 2) (2 ^ (Nat.log2 n / 2 + 1))

/-- Square root, rounded once (R272). -/
def Fmt.fsqrt (f : Fmt) (rm a : Nat) : Nat × Ev :=
  match f.decode a with
  | .nan sg => f.encode rm (.nan sg)
  | .void => f.encode rm .void
  | .zero n => f.encode rm (.zero n)
  | .inf true => f.encode rm (.nan true)
  | .inf false => f.encode rm (.inf false)
  | .fin true _ _ => f.encode rm (.nan true)
  | .fin false m e =>
    let sh := 2 * (f.fb + 4) + (if e % 2 = 0 then 0 else 1)
    let n := m * 2 ^ sh
    let r := isqrt n
    f.round rm false r ((e - sh) / 2) (r * r ≠ n)

/-- Round to nearest even to 12 significant bits, exponent unbounded (R275). -/
def round12 (m : Nat) (e : Int) (st : Bool) : Nat × Int :=
  let q := expOf m e - 11
  let (k, r, half) := splitAt2 m e q
  (if roundsUp 0 false k r half st then k + 1 else k, q)

/-- Put a 12-bit estimate into the format: only Overflow and Underflow are kept (R275). -/
def Fmt.estOut (f : Fmt) (neg : Bool) (y : Nat × Int) : Nat × Ev :=
  let r := f.round 0 neg y.1 y.2 false
  (r.1, r.2 &&& (evOverflow ||| evUnderflow))

/-- VRCPE (R275). -/
def Fmt.frcpe (f : Fmt) (a : Nat) : Nat × Ev :=
  match f.decode a with
  | .nan sg => f.encode 0 (.nan sg)
  | .void => f.encode 0 .void
  | .zero n => (f.withSign n f.infBits, evDivZero)
  | .inf n => f.encode 0 (.zero n)
  | .fin n m e =>
    let sh := Nat.log2 m + 16
    f.estOut n (round12 (2 ^ sh / m) (-e - sh) (2 ^ sh % m ≠ 0))

/-- VRSQE (R275). -/
def Fmt.frsqe (f : Fmt) (a : Nat) : Nat × Ev :=
  match f.decode a with
  | .nan sg => f.encode 0 (.nan sg)
  | .void => f.encode 0 .void
  | .zero n => (f.withSign n f.infBits, evDivZero)
  | .inf true => f.encode 0 (.nan true)
  | .inf false => f.encode 0 (.zero false)
  | .fin true _ _ => f.encode 0 (.nan true)
  | .fin false m e =>
    let e' := if e % 2 = 0 then e else e - 1
    let m' := if e % 2 = 0 then m else 2 * m
    let sh := Nat.log2 m' + 40
    let sh2 := sh + sh % 2
    let n := 2 ^ sh2
    let r := isqrt (n / m')
    f.estOut false (round12 r (-(e' / 2) - (sh2 / 2 : Nat)) (r * r * m' ≠ n))

/-- ln 2 scaled by 2^320, rounded down. -/
def ln2Fix : Nat :=
  1480553391661173448385607439722553250922680800745876974795605978609098082859138712941075737848984

/-- exp(y) for y scaled by 2^320 and below 1, by its series; `t` is the current term. -/
def expSeries (y : Nat) : Nat → Nat → Nat → Nat → Nat
  | 0, _, _, acc => acc
  | k + 1, i, t, acc =>
    let t' := t * y / 2 ^ 320 / i
    expSeries y k (i + 1) t' (acc + t')

/-- atanh(z) for z scaled by 2^320 and at most 1/3, by its series. -/
def atanhSeries (z2 : Nat) : Nat → Nat → Nat → Nat → Nat
  | 0, _, _, acc => acc
  | k + 1, i, t, acc => atanhSeries z2 k (i + 2) (t * z2 / 2 ^ 320) (acc + t / i)

/-- VEXP2 in f32 (R276): exact where 2^a is; otherwise rounded from 320 fraction bits and a sticky bit. -/
def vexp2 (rm a : Nat) : Nat × Ev :=
  match fmtF32.decode a with
  | .nan sg => fmtF32.encode rm (.nan sg)
  | .void => fmtF32.encode rm .void
  | .zero _ => fmtF32.encode rm (.fin false 1 0)
  | .inf true => fmtF32.encode rm (.zero false)
  | .inf false => fmtF32.encode rm (.inf false)
  | .fin n m e =>
    let ex := expOf m e
    if ex > 9 then
      if n then fmtF32.round rm false 1 (-1024) true else fmtF32.round rm false 1 1024 true
    else if 0 ≤ e then
      let k : Int := (m * 2 ^ e.toNat : Nat)
      fmtF32.round rm false 1 (if n then -k else k) false
    else
      let d := (-e).toNat
      let v : Int := if n then -(m : Int) else m
      let k : Int := v / ((2 ^ d : Nat) : Int)
      let f : Nat := (v % ((2 ^ d : Nat) : Int)).toNat
      if f = 0 then fmtF32.round rm false 1 k false
      else
        let y := f * ln2Fix / 2 ^ d
        fmtF32.round rm false (expSeries y 80 1 (2 ^ 320) (2 ^ 320)) (k - 320) true

/-- VLOG2 in f32 (R276): exact for powers of two; otherwise rounded from a lower bound of the magnitude and a sticky
bit. -/
def vlog2 (rm a : Nat) : Nat × Ev :=
  match fmtF32.decode a with
  | .nan sg => fmtF32.encode rm (.nan sg)
  | .void => fmtF32.encode rm .void
  | .zero _ => (fmtF32.withSign true fmtF32.infBits, evDivZero)
  | .inf true => fmtF32.encode rm (.nan true)
  | .inf false => fmtF32.encode rm (.inf false)
  | .fin true _ _ => fmtF32.encode rm (.nan true)
  | .fin false m e =>
    let ex := expOf m e
    let one := 2 ^ Nat.log2 m
    if m = one then
      if ex = 0 then fmtF32.encode rm (.zero false)
      else fmtF32.round rm (ex < 0) ex.natAbs 0 false
    else
      let z := (m - one) * 2 ^ 320 / (m + one)
      let ln := 2 * atanhSeries (z * z / 2 ^ 320) 110 1 z 0
      let fr := ln * 2 ^ 280 / ln2Fix
      if ex < 0 then fmtF32.round rm true ((-ex).toNat * 2 ^ 280 - fr - 2 ^ 16) (-280) true
      else fmtF32.round rm false (ex.toNat * 2 ^ 280 + fr) (-280) true

/-- Length of the run of bits equal to `r`, from bit `i - 1` of `b` down. -/
def runLen (b r : Nat) : Nat → Nat
  | 0 => 0
  | i + 1 => if bitsOf b i 1 = r then 1 + runLen b r i else 0

/-- DecodeKt (R223): n body bits, q exponent bits. -/
def decodeKt (n q code : Nat) : FV :=
  let s := bitsOf code n 1
  let b := bitsOf code 0 n
  if b = 0 then (if s = 0 then .zero false else .void)
  else
    let r := bitsOf b (n - 1) 1
    let m := runLen b r n
    let k : Int := if r = 1 then (m : Int) - 1 else -(m : Int)
    let w := n - m - 1
    let rest := bitsOf b 0 w
    let e := if q = 0 then 0 else if w ≥ 1 then bitsOf rest (w - 1) 1 else 0
    let fw := if w ≥ q then w - q else 0
    let fr := bitsOf rest 0 fw
    .fin (s = 1) (2 ^ fw + fr) ((q + 1 : Nat) * k + e - fw)

/-- EncodeKt (R227, R228, R229). -/
def encodeKt (n q : Nat) (x : FV) : Nat × Ev :=
  let mx : Int := if q = 1 then 12 else 4
  let top := 2 ^ n - 1
  match x with
  | .nan _ => (2 ^ n, evInvalid)
  | .void => (2 ^ n, evInvalid)
  | .zero _ => (0, 0)
  | .inf s => ((if s then 2 ^ n else 0) + top, evSaturate)
  | .fin s m e =>
    let sb := if s then 2 ^ n else 0
    let ex := expOf m e
    let lg := Nat.log2 m
    if ex > mx || (ex = mx && m ≠ 2 ^ lg) then (sb + top, evSaturate)
    else if ex < -mx then (sb + 1, evSaturate)
    else
      let k : Int := ex / ((q + 1 : Nat) : Int)
      let ee := (ex - ((q + 1 : Nat) : Int) * k).toNat
      let kn := k.toNat
      let pl := if 0 ≤ k then kn + 2 else (-k).toNat + 1
      let pre := if 0 ≤ k then 2 ^ (kn + 2) - 2 else 1
      let b := (pre * 2 ^ q + ee) * 2 ^ lg + (m - 2 ^ lg)
      let t := pl + q + lg
      if t ≤ n then (sb + b * 2 ^ (n - t), 0)
      else
        let d := t - n
        let c := b / 2 ^ d
        let r := b % 2 ^ d
        let up := 2 * r > 2 ^ d || (2 * r = 2 ^ d && c % 2 = 1)
        (sb + (if up then c + 1 else c), if r ≠ 0 then evInexact else 0)

/-- Element size in bytes of a type code of R35. -/
def tySize (t : Nat) : Nat :=
  if t < 8 then 2 ^ (t % 4)
  else if t = 8 then 8 else if t = 9 then 4 else if t = 10 || t = 11 then 2 else 1

/-- Lanes of a type in a 256-byte vector (R263). -/
def tyLanes (t : Nat) : Nat := 256 / tySize t

/-- An integer type code? (R35) -/
def tyInt (t : Nat) : Bool := t < 8
/-- A signed integer type code? (R35) -/
def tySigned (t : Nat) : Bool := t < 4
/-- An IEEE type code? (R35) -/
def tyFloat (t : Nat) : Bool := 8 ≤ t && t ≤ 11
/-- A tapered type code? (R35) -/
def tyKt (t : Nat) : Bool := t = 12 || t = 13

/-- The IEEE format of a type code. -/
def tyFmt (t : Nat) : Fmt :=
  if t = 8 then fmtF64 else if t = 9 then fmtF32 else if t = 10 then fmtBf16 else fmtF16

/-- Width in bits of an integer type code. -/
def tyBits (t : Nat) : Nat := 8 * tySize t

/-- The integer that a raw element of an integer type holds (R216). -/
def intVal (t raw : Nat) : Int := if tySigned t then sgn raw (tyBits t) else ((raw % 2 ^ tyBits t : Nat) : Int)
/-- Smallest integer of a type (R216). -/
def intMin (t : Nat) : Int := if tySigned t then -((2 ^ (tyBits t - 1) : Nat) : Int) else 0
/-- Largest integer of a type (R216). -/
def intMax (t : Nat) : Int :=
  if tySigned t then ((2 ^ (tyBits t - 1) : Nat) : Int) - 1 else ((2 ^ tyBits t : Nat) : Int) - 1
/-- The raw element of an integer, modulo the width. -/
def intRaw (t : Nat) (x : Int) : Nat := lowBits x (tyBits t)
/-- An integer clamped to a type (R216), with Saturate where it clamps. -/
def intClamp (t : Nat) (x : Int) : Nat × Ev :=
  if x < intMin t then (intRaw t (intMin t), evSaturate)
  else if intMax t < x then (intRaw t (intMax t), evSaturate)
  else (intRaw t x, 0)

/-- The value of a raw element of any type (R216, R217, R223). -/
def decodeTy (t raw : Nat) : FV :=
  if t < 8 then
    let x := intVal t raw
    if x = 0 then .zero false else .fin (x < 0) x.natAbs 0
  else if t = 12 then decodeKt 7 1 (raw % 256)
  else if t = 13 then decodeKt 5 0 (raw % 64)
  else (tyFmt t).decode raw

/-- Round a finite value to an integer in a mode (R221). The second part says that it was inexact. -/
def roundInt (rm : Nat) (s : Bool) (m : Nat) (e : Int) : Int × Bool :=
  let (k, r, half) := splitAt2 m e 0
  let k' := if roundsUp rm s k r half false then k + 1 else k
  (if s then -(k' : Int) else k', r ≠ 0)

/-- Put a value into any type (R221, R227 to R230). -/
def encodeTy (t rm : Nat) (x : FV) : Nat × Ev :=
  if t < 8 then
    match x with
    | .nan _ => (0, evInvalid)
    | .void => (0, evInvalid)
    | .zero _ => (0, 0)
    | .inf s => (intRaw t (if s then intMin t else intMax t), evInvalid ||| evSaturate)
    | .fin s m e =>
      let (v, ix) := roundInt rm s m e
      let c := intClamp t v
      if c.2 = 0 then (c.1, if ix then evInexact else 0)
      else (c.1, evInvalid ||| evSaturate)
  else if t = 12 then encodeKt 7 1 x
  else if t = 13 then encodeKt 5 0 x
  else (tyFmt t).encode rm x

/-- Convert one element from type `ts` to type `t` (R221, R227 to R230, R281). An integer that leaves the range of an
integer target raises Saturate only. -/
def convertTy (ts t rm raw : Nat) : Nat × Ev :=
  if tyInt ts && tyInt t then intClamp t (intVal ts raw)
  else encodeTy t rm (decodeTy ts raw)

/-- A published numerics profile (R240). -/
structure Prof where
  /-- Result type code. -/
  res : Nat
  /-- Group size; 0 stands for n. -/
  g : Nat
  /-- Window; 0 stands for EXACT. -/
  w : Nat
  /-- Leaf rounding into the result format. -/
  leaf : Bool
  /-- 0 CHAIN, 1 PAIR, 2 ONE. -/
  tree : Nat
  types : List Nat
  deriving DecidableEq, Repr

/-- The published profiles (R240). -/
def profOf (id : Nat) : Option Prof :=
  if id = 0x0101 then some ⟨8, 1, 0, false, 0, [8, 9]⟩
  else if id = 0x0102 then some ⟨8, 4, 0, true, 1, [8, 9]⟩
  else if id = 0x0201 then some ⟨9, 16, 32, true, 0, [9, 10, 11]⟩
  else if id = 0x0202 then some ⟨9, 0, 48, false, 2, [9, 10, 11]⟩
  else if id = 0x0301 then some ⟨2, 0, 0, false, 2, [0]⟩
  else if id = 0x0401 then some ⟨9, 32, 27, true, 0, [12, 13]⟩
  else none

/-- Exp of a term, for the window of R239. -/
def FV.exp : FV → Option Int
  | .fin _ m e => some (expOf m e)
  | _ => none

/-- The largest Exp of the non-zero terms. -/
def maxExp : List FV → Option Int
  | [] => none
  | v :: t =>
    match v.exp, maxExp t with
    | some a, some b => some (if a < b then b else a)
    | some a, none => some a
    | none, r => r

/-- A term truncated toward zero to a multiple of 2^u (R239). -/
def truncTo (u : Int) : FV → Dy
  | .fin s m e =>
    let k := (splitAt2 m e u).1
    if u ≤ e then ⟨if s then -(m : Int) else m, e⟩ else ⟨if s then -(k : Int) else k, u⟩
  | _ => ⟨0, 0⟩

/-- AlignSum (R239). Window 0 is EXACT. -/
def alignSum (w : Nat) (vs : List FV) : FV :=
  let negZero := vs.all (fun v => match v with | .zero true => true | _ => false)
  let sum : Dy :=
    if w = 0 then vs.foldl (fun (a : Dy) v => a.add v.toDy) ⟨0, 0⟩
    else match maxExp vs with
      | none => ⟨0, 0⟩
      | some ex => vs.foldl (fun (a : Dy) v => a.add (truncTo (ex - w + 1) v)) ⟨0, 0⟩
  sum.toFV negZero

/-- Split a list into groups of g; the last may be shorter (R239). -/
def groupsOf {α : Type} (g : Nat) : Nat → List α → List (List α)
  | 0, _ => []
  | k + 1, l => if l.isEmpty then [] else l.take g :: groupsOf g k (l.drop g)

/-- One rounding of an unrounded value into a format, as a value again, with its events. -/
def rnd (f : Fmt) (x : FV) : FV × Ev :=
  let r := f.encode 0 x
  (f.decode r.1, r.2)

/-- The CHAIN tree of R239. -/
def chainTree (f : Fmt) : FV → List FV → FV × Ev
  | x, [] => (x, 0)
  | x, l :: t =>
    let a := rnd f (x.add 0 l)
    let r := chainTree f a.1 t
    (r.1, a.2 ||| r.2)

/-- One level of the PAIR tree (R239). -/
def pairLevel (f : Fmt) : List FV → List FV × Ev
  | a :: b :: t =>
    let x := rnd f (a.add 0 b)
    let r := pairLevel f t
    (x.1 :: r.1, x.2 ||| r.2)
  | l => (l, 0)

/-- The PAIR tree of R239, level by level. -/
def pairTree (f : Fmt) : Nat → List FV → FV × Ev
  | 0, l => (l.headD (.zero false), 0)
  | k + 1, l =>
    match l with
    | [] => (.zero false, 0)
    | [x] => (x, 0)
    | l =>
      let a := pairLevel f l
      let r := pairTree f k a.1
      (r.1, a.2 ||| r.2)

/-- The result of a profile over exact terms and a raw accumulator input (R237 to R241). -/
def Prof.apply (p : Prof) (terms : List FV) (acc : Nat) : Nat × Ev :=
  if p.res = 2 then
    let sum : Dy := terms.foldl (fun (a : Dy) v => a.add v.toDy) ⟨intVal 2 acc, 0⟩
    intClamp 2 (if sum.e ≥ 0 then sum.n * (2 : Int) ^ sum.e.toNat else sum.n / (2 : Int) ^ (-sum.e).toNat)
  else
    let f := tyFmt p.res
    let av := f.decode acc
    let all := av :: terms
    let posInf := all.any (fun v => v = .inf false)
    let negInf := all.any (fun v => v = .inf true)
    if all.any FV.isNan || (posInf && negInf) then (f.canonNan, evInvalid)
    else if posInf then (f.infBits, 0)
    else if negInf then (f.withSign true f.infBits, 0)
    else if terms.isEmpty then (acc, 0)
    else if p.tree = 2 then f.encode 0 (alignSum p.w (terms ++ [av]))
    else
      let gs := groupsOf (if p.g = 0 then terms.length else p.g) terms.length terms
      let ls := gs.map (fun l => let s := alignSum p.w l; if p.leaf then rnd f s else (s, 0))
      let evl := ls.foldl (fun a x => a ||| x.2) (0 : Ev)
      if p.tree = 0 then
        let r := chainTree f av (ls.map Prod.fst)
        ((f.encode 0 r.1).1, evl ||| r.2)
      else
        let r := pairTree f terms.length (ls.map Prod.fst)
        let o := f.encode 0 (av.add 0 r.1)
        (o.1, evl ||| r.2 ||| o.2)

/-- The block number of each of `n` elements under a bitmap, bit 0 read as 1 (R233). -/
def blockNumbers (bitmap : Nat) : Nat → Nat → Nat → List Nat
  | 0, _, _ => []
  | n + 1, i, blk =>
    let b := if i ≠ 0 && bitsOf bitmap i 1 = 1 then blk + 1 else blk
    b :: blockNumbers bitmap n (i + 1) b

/-- Where QBLK's walk stands (R235). -/
structure QState where
  blk : Nat
  len : Nat
  has : Bool
  mx : Int
  deriving DecidableEq, Repr

/-- The walk of R235 over the elements after the first; no block starts beyond number `last` (R285). The answer gives, for
every element, its block and whether it starts one, and for every finished block its exponent. -/
def qWalk (thr last : Nat) : QState → List FV → List (Nat × Bool) × List (Bool × Int)
  | q, [] => ([], [(q.has, q.mx)])
  | q, x :: t =>
    let g := x.exp.isSome
    let ei := x.exp.getD 0
    if q.blk < last && (q.len = 32 || (g && q.has && (ei - q.mx).natAbs > thr)) then
      let r := qWalk thr last ⟨q.blk + 1, 1, g, ei⟩ t
      ((q.blk + 1, true) :: r.1, (q.has, q.mx) :: r.2)
    else
      let q' : QState := ⟨q.blk, q.len + 1, q.has || g, if g && (!q.has || q.mx < ei) then ei else q.mx⟩
      let r := qWalk thr last q' t
      ((q.blk, false) :: r.1, r.2)

/-- E8 of a block (R235). -/
def blockE8 (b : Bool × Int) : Nat :=
  let s : Int := if b.1 then b.2 else 0
  if s + 127 < 0 then 0 else if 254 < s + 127 then 254 else (s + 127).toNat

/-- The bits of a list of truth values, first as bit 0, as a number. -/
def boolsNat : List Bool → Nat
  | [] => 0
  | b :: t => (if b then 1 else 0) + 2 * boolsNat t

/-- QBLK's 256 bytes from 128 values (R235, R285), with the events of R227. -/
def qblkRow (t thr : Nat) (xs : List FV) : List Byte × Ev :=
  match xs with
  | [] => ([], 0)
  | x :: rest =>
    let q0 : QState := ⟨0, 1, x.exp.isSome, x.exp.getD 0⟩
    let r := qWalk thr 111 q0 rest
    let places := (0, true) :: r.1
    let e8s := r.2.map blockE8
    let codes := (xs.zip places).map (fun (v, (b, _)) =>
      let e8 := nthD 127 e8s b
      let sc := match v with
        | .fin s m e => FV.fin s m (e - e8 + 127)
        | y => y
      if t = 12 then encodeKt 7 1 sc else encodeKt 5 0 sc)
    let bitmap := boolsNat (places.map Prod.snd)
    (codes.map (fun c => BitVec.ofNat 8 c.1) ++ leBytes 16 bitmap
      ++ (e8s.map (BitVec.ofNat 8) ++ List.replicate 112 255).take 112,
     codes.foldl (fun a c => a ||| c.2) (0 : Ev))

end Sys2Proof.Machine
end

