-- ==== Sys2Proof/Machine/Types.lean ====
section
/-! DEFINITION. Plain data that events carry and that State holds: engines, object-table entries, shuttles,
register names, fabric pieces. Nothing here has a meaning of its own. -/

namespace Sys2Proof

/-- The four engines of a core (R5), in the order S, V, M, C that R55, R200 and R398 use. -/
inductive Engine where
  | s | v | m | c
  deriving DecidableEq, Repr

/-- A segment entry of the object table (R72). -/
structure Seg where
  unit : Nat
  pageSize : Nat
  tier : Nat
  held : Bool
  valid : Bool
  base : Nat
  busy : Nat
  deriving DecidableEq, Repr

/-- An object-table entry (R71), with its segment list (R72). -/
structure ObjEntry where
  kind : Nat
  state : Nat
  ownerVI : Nat
  pin : Bool
  maxRights : BitVec 8
  leaseCount : Nat
  keySlot : Nat
  worldID : Nat
  size : Nat
  boltPage : Nat
  boltTier : Nat
  segs : List Seg
  /-- SegList: the physical address of the segment list; SegCount is the length of `segs`. -/
  segList : Nat
  deriving DecidableEq, Repr

/-- A shuttle packet (R166, R167): header fields, code words, stack (entry 0 first) and payload bytes. -/
structure Shuttle where
  origin : BitVec 16
  tenant : BitVec 6
  budget : Nat
  pc : Nat
  flits : Nat
  dir : Nat
  hops : Nat
  status : Nat
  dlvWin : Nat
  dlvCtr : Nat
  dlvOff : W64
  tag : W64
  g : List W64
  code : List W16
  stack : List W64
  payload : List Byte
  deriving DecidableEq, Repr

/-- Registers of the package that REGISTER_WRITE may name: those without a step of their own (R17, R19). -/
inductive RegName where
  | mpRetry (port : Nat)
  | mpOtBase
  | clDebug (cluster : Nat)
  | sliceLimit (cluster slice tenant : Nat)
  | shPerm (vi : BitVec 6)
  | shWinCapLo (vi : BitVec 6) (w : BitVec 2)
  | shWinCapHi (vi : BitVec 6) (w : BitVec 2)
  | shWinCtl (vi : BitVec 6) (w : BitVec 2)
  | dcPart (vi : BitVec 6)
  | leaseMask (vi : BitVec 6)
  | ringBase (vi : BitVec 6) (ring : Nat)
  | ringSize (vi : BitVec 6) (ring : Nat)
  | holdCtl
  | victlFlags (vi : BitVec 6)
  | grant (vi : BitVec 6) (resource slot : Nat)
  | linkWeight (vi : BitVec 6)
  | boltIds (vi : BitVec 6)
  | boltSlots (vi : BitVec 6)
  | boltPages (vi : BitVec 6) (tier size : Nat)
  deriving DecidableEq, Repr

/-- What a remote fabric form asks of this package, as its request header carries it (R141). -/
structure FabReq where
  /-- 0 PUT, 1 PUTRED, 2 GET. -/
  form : Nat
  vi : Nat
  world : Nat
  group : Nat
  call : Nat
  target : Nat
  sender : Nat
  cap : Cap
  lo : Nat
  len : Nat
  counter : Nat
  /-- Its launch, by the number that it has at this package. -/
  launch : Nat
  deriving DecidableEq, Repr

/-- The data of an untimed fabric form as it arrives at its target (R141 steps 4, 5): the bytes of each element
with its offset, and for PUTRED the operation and wire type of R124. -/
structure FabData where
  form : Nat
  group : Nat
  call : Nat
  counter : Nat
  cap : Cap
  op : Nat
  wire : Nat
  elems : List (Nat × List Byte)
  target : Nat
  sender : Nat
  /-- GET: the remote capability, and the source offset of each element. -/
  from_ : Cap
  srcs : List Nat
  /-- The store epoch of the sender at the issue (R353). -/
  epoch : Nat
  /-- Interface, world and launch of the form, the launch by the number that it has at this package. -/
  vi : Nat
  world : Nat
  launch : Nat
  deriving DecidableEq, Repr

/-- A timed piece due at this package (R151, R152, R162). -/
structure Piece where
  nominal : Nat
  ease : Nat
  link : Nat
  lane : Nat
  /-- A PUTRED piece (R162); otherwise a PUT or GET piece. -/
  red : Bool
  op : Nat
  wire : Nat
  cluster : Nat
  addr : Nat
  /-- Set once the piece's bytes have arrived. -/
  data : Option (List Byte)
  /-- The deadline of this piece has passed (R158). -/
  missed : Bool
  /-- Logical cores: the one it is for, and the one whose form sent it (R163). -/
  core : Nat
  issuer : Nat
  /-- Launch number at this package, and group of the run (R158). -/
  no : Nat
  group : Nat
  /-- A GET's request (R151): package, logical core and cluster address to which its bytes go back, with the nominal arrival
  there and the links of the way back; `data` then only says how many bytes it wants. -/
  get : Option (Nat × Nat × Nat × Nat × List Nat)
  /-- Further parts of a piece that is split (R130, R131): address, for a GET's request the address to which the part goes back,
  bytes. -/
  more : List (Nat × Nat × List Byte)
  /-- The links still to be crossed (R151, R157), and how many of the first of them are links of a bypass. -/
  path : List Nat
  around : Nat
  deriving DecidableEq, Repr

/-- What a flit that leaves by a link carries. -/
inductive Load where
  /-- A sync flit: its departure stamp, and the arrival stamp of the last one received from the far end (R362). -/
  | sync (dep arr : Int)
  /-- The header-only request of an untimed fabric form (R141 step 2). -/
  | req (r : FabReq)
  /-- The grant of a request, or its refusal with a code, on its way back (R141 step 2). -/
  | answer (r : FabReq) (code : Option Nat)
  /-- Flit i of the data of an untimed fabric form (R141 step 4). -/
  | data (d : FabData) (i : Nat)
  /-- A timed piece for a logical core of a package; `cut` is the cycle of its slot on this link (R151). -/
  | piece (pkg core cut : Nat) (p : Piece)
  /-- Flit i of a shuttle (R166). -/
  | shuttle (sh : Shuttle) (i : Nat)
  deriving DecidableEq, Repr

/-- A flit on its way out (R153, R157): what it carries; the link for which it was meant; links that its detour adds; for a
resent one, the number that it had there. -/
structure Flit where
  load : Load
  link : Nat
  added : Nat
  seq : Option (BitVec 12)
  deriving DecidableEq, Repr

/-- An unacknowledged flit (R153, R155, R417): its number, the epoch of its key, its place among the flits sent under that key. -/
structure SentFlit where
  seq : BitVec 12
  epoch : W32
  no : Nat
  flit : Flit
  deriving DecidableEq, Repr

/-- How a flit is received (R153, R155, R417): whether it is intact; the low bit of the key epoch that the framing of its block
carries; the key under which the far end encrypted it; whether it carries the far end's request for a replay. -/
structure Receipt where
  intact : Bool
  epoch : Bool
  key : Nat
  request : Bool
  deriving DecidableEq, Repr

/-- An abort condition as a member of a group detects it (R369): the group, the code, the detecting member's logical number. -/
structure Detected where
  group : Nat
  code : Nat
  core : Nat
  deriving DecidableEq, Repr

/-- What an event carries where the state says what it is about: nothing but its name. -/
abbrev Told : Prop := True

end Sys2Proof
end

