-- ==== Sys2Proof/Syntax.lean ====
section
/-! DEFINITION. The instructions and events of the XK4: one constructor per row of spec/opcode_table.json.
An instruction's arguments are its encoding fields, as wide as the encoding makes them (R31, R34, R38, R40, R42, R45).
The order is: words with operand fields, events that the model itself raises, rows without arguments, other events (with
LINK_KEY_SWITCH, which the model raises too and which carries nothing).
An event has no encoding; its arguments are what the event brings from outside the step (which engine, which entry,
a register's number and value, a packet), as plain data. -/

namespace Sys2Proof

/-- One constructor per row of the table of operations and events. -/
inductive Instr where
  /-- R304. S integer add modulo 2^64. -/
  | add (d : BitVec 5) (a : BitVec 5) (b : BitVec 5)
  /-- R304. S integer subtract modulo 2^64. -/
  | sub (d : BitVec 5) (a : BitVec 5) (b : BitVec 5)
  /-- R304. S bitwise and. -/
  | and (d : BitVec 5) (a : BitVec 5) (b : BitVec 5)
  /-- R304. S bitwise or. -/
  | or (d : BitVec 5) (a : BitVec 5) (b : BitVec 5)
  /-- R304. S bitwise exclusive or. -/
  | xor (d : BitVec 5) (a : BitVec 5) (b : BitVec 5)
  /-- R304. S and with the complement of sb. -/
  | andn (d : BitVec 5) (a : BitVec 5) (b : BitVec 5)
  /-- R304. S shift left with zeros in. -/
  | shl (d : BitVec 5) (a : BitVec 5) (b : BitVec 5)
  /-- R304. S logical shift right. -/
  | shr (d : BitVec 5) (a : BitVec 5) (b : BitVec 5)
  /-- R304. S arithmetic shift right. -/
  | sra (d : BitVec 5) (a : BitVec 5) (b : BitVec 5)
  /-- R304. S rotate right by sb mod 64. -/
  | ror (d : BitVec 5) (a : BitVec 5) (b : BitVec 5)
  /-- R304. S signed set-less-than. -/
  | slt (d : BitVec 5) (a : BitVec 5) (b : BitVec 5)
  /-- R304. S unsigned set-less-than. -/
  | sltu (d : BitVec 5) (a : BitVec 5) (b : BitVec 5)
  /-- R304. S signed minimum. -/
  | min (d : BitVec 5) (a : BitVec 5) (b : BitVec 5)
  /-- R304. S signed maximum. -/
  | max (d : BitVec 5) (a : BitVec 5) (b : BitVec 5)
  /-- R304. S unsigned minimum. -/
  | minu (d : BitVec 5) (a : BitVec 5) (b : BitVec 5)
  /-- R304. S unsigned maximum. -/
  | maxu (d : BitVec 5) (a : BitVec 5) (b : BitVec 5)
  /-- R304. S saturating signed add. -/
  | adds (d : BitVec 5) (a : BitVec 5) (b : BitVec 5)
  /-- R304. S saturating signed subtract. -/
  | subs (d : BitVec 5) (a : BitVec 5) (b : BitVec 5)
  /-- R304. S count leading zeros. -/
  | clz (d : BitVec 5) (a : BitVec 5)
  /-- R304. S population count. -/
  | popc (d : BitVec 5) (a : BitVec 5)
  /-- R304. S sign-extend byte. -/
  | sextb (d : BitVec 5) (a : BitVec 5)
  /-- R304. S sign-extend half. -/
  | sexth (d : BitVec 5) (a : BitVec 5)
  /-- R304. S sign-extend word. -/
  | sextw (d : BitVec 5) (a : BitVec 5)
  /-- R305. S add of a sign-extended immediate. -/
  | addi (d : BitVec 5) (a : BitVec 5) (i : BitVec 16)
  /-- R305. S and with a zero-extended immediate. -/
  | andi (d : BitVec 5) (a : BitVec 5) (i : BitVec 16)
  /-- R305. S or with a zero-extended immediate. -/
  | ori (d : BitVec 5) (a : BitVec 5) (i : BitVec 16)
  /-- R305. S xor with a zero-extended immediate. -/
  | xori (d : BitVec 5) (a : BitVec 5) (i : BitVec 16)
  /-- R305. S shift or rotate by an immediate count. -/
  | shi (d : BitVec 5) (a : BitVec 5) (k : BitVec 2) (n : BitVec 6)
  /-- R305. S replace one 16-bit quarter of sd with an immediate. -/
  | lui (d : BitVec 5) (q : BitVec 2) (i : BitVec 16)
  /-- R305. S signed compare with an immediate. -/
  | slti (d : BitVec 5) (a : BitVec 5) (i : BitVec 16)
  /-- R306. S low 64 bits of a product. -/
  | mul (d : BitVec 5) (a : BitVec 5) (b : BitVec 5)
  /-- R306. S high 64 bits of a signed product. -/
  | mulh (d : BitVec 5) (a : BitVec 5) (b : BitVec 5)
  /-- R306. S high 64 bits of an unsigned product. -/
  | mulhu (d : BitVec 5) (a : BitVec 5) (b : BitVec 5)
  /-- R306. S signed divide; divide by zero sets DivZero. -/
  | div (d : BitVec 5) (a : BitVec 5) (b : BitVec 5)
  /-- R306. S unsigned divide. -/
  | divu (d : BitVec 5) (a : BitVec 5) (b : BitVec 5)
  /-- R306. S signed remainder. -/
  | rem (d : BitVec 5) (a : BitVec 5) (b : BitVec 5)
  /-- R306. S unsigned remainder. -/
  | remu (d : BitVec 5) (a : BitVec 5) (b : BitVec 5)
  /-- R307. S select sa or sb by a condition on sc. -/
  | sel (d : BitVec 5) (a : BitVec 5) (b : BitVec 5) (k : BitVec 2) (c : BitVec 5)
  /-- R308. Copy a branch-target register into a scalar. -/
  | movb (d : BitVec 5) (a : BitVec 2)
  /-- R308. Write a branch-target register from a scalar. -/
  | setb (d : BitVec 2) (a : BitVec 5)
  /-- R309. Read one 64-bit quarter of a mask register. -/
  | mget (d : BitVec 5) (a : BitVec 3) (q : BitVec 2)
  /-- R309. Write one 64-bit quarter of a mask register. -/
  | mput (d : BitVec 3) (a : BitVec 5) (q : BitVec 2)
  /-- R310. Load a sign-extended byte through a capability. -/
  | ldb (d : BitVec 5) (c : BitVec 4) (s : BitVec 4) (o : BitVec 13)
  /-- R310. Load a sign-extended half. -/
  | ldh (d : BitVec 5) (c : BitVec 4) (s : BitVec 4) (o : BitVec 13)
  /-- R310. Load a sign-extended word. -/
  | ldw (d : BitVec 5) (c : BitVec 4) (s : BitVec 4) (o : BitVec 13)
  /-- R310. Load a dword. -/
  | ldd (d : BitVec 5) (c : BitVec 4) (s : BitVec 4) (o : BitVec 13)
  /-- R310. Store a byte. -/
  | stb (d : BitVec 5) (c : BitVec 4) (s : BitVec 4) (o : BitVec 13)
  /-- R310. Store a half. -/
  | sth (d : BitVec 5) (c : BitVec 4) (s : BitVec 4) (o : BitVec 13)
  /-- R310. Store a word. -/
  | stw (d : BitVec 5) (c : BitVec 4) (s : BitVec 4) (o : BitVec 13)
  /-- R310. Store a dword. -/
  | std (d : BitVec 5) (c : BitVec 4) (s : BitVec 4) (o : BitVec 13)
  /-- R310. Load a zero-extended byte. -/
  | ldbn (d : BitVec 5) (c : BitVec 4) (s : BitVec 4) (o : BitVec 13)
  /-- R310. Load a zero-extended half. -/
  | ldhn (d : BitVec 5) (c : BitVec 4) (s : BitVec 4) (o : BitVec 13)
  /-- R310. Load a zero-extended word. -/
  | ldwn (d : BitVec 5) (c : BitVec 4) (s : BitVec 4) (o : BitVec 13)
  /-- R70. Load a 16-byte capability from memory. -/
  | ldc (d : BitVec 4) (c : BitVec 4) (s : BitVec 4) (o : BitVec 13)
  /-- R70. Store a 16-byte capability to memory. -/
  | stc (d : BitVec 4) (c : BitVec 4) (s : BitVec 4) (o : BitVec 13)
  /-- R316. Atomic read-modify-write with optional acquire/release. -/
  | amo (d : BitVec 5) (a : BitVec 4) (b : BitVec 5) (c : BitVec 4) (r : BitVec 2) (z : BitVec 1) (o : BitVec 4)
  /-- R315. Acquire load covering a class mask at a scope. -/
  | ldaq (d : BitVec 5) (a : BitVec 4) (b : BitVec 5) (c : BitVec 4) (p : BitVec 3) (z : BitVec 2)
  /-- R315. Release store after covered accesses perform at the scope. -/
  | strl (d : BitVec 5) (a : BitVec 4) (b : BitVec 5) (c : BitVec 4) (p : BitVec 3) (z : BitVec 2)
  /-- R315. Stream store that bypasses slices and orders with nothing. -/
  | sts (d : BitVec 5) (a : BitVec 4) (b : BitVec 5) (c : BitVec 4) (z : BitVec 2)
  /-- R315. Combining store into the core's combining buffer. -/
  | stcb (d : BitVec 5) (a : BitVec 4) (b : BitVec 5) (c : BitVec 4) (z : BitVec 2)
  /-- R317. Blocking fence over a class mask at a scope. -/
  | fence (a : BitVec 5) (p : BitVec 4)
  /-- R68. Copy a capability register. -/
  | cmov (d : BitVec 4) (a : BitVec 4)
  /-- R68. Build a capability from two scalars. -/
  | cjoin (d : BitVec 4) (a : BitVec 5) (b : BitVec 5)
  /-- R69. Raise a capability's lower bound, trapping on widening. -/
  | clo (d : BitVec 4) (a : BitVec 4) (b : BitVec 5)
  /-- R69. Lower a capability's upper bound, trapping on widening. -/
  | chi (d : BitVec 4) (a : BitVec 4) (b : BitVec 5)
  /-- R68. Mask a capability's rights. -/
  | cright (d : BitVec 4) (a : BitVec 4) (b : BitVec 5)
  /-- R68. Read one field of a capability into a scalar. -/
  | cget (d : BitVec 5) (a : BitVec 4) (f : BitVec 4)
  /-- R69. Test rights and a non-empty range of a capability. -/
  | cchk (d : BitVec 5) (a : BitVec 4) (b : BitVec 5)
  /-- R318. Prepare a branch target register from a PC-relative offset. -/
  | pbr (k : BitVec 2) (i : BitVec 24)
  /-- R319. Conditional branch through a b register, optionally linking. -/
  | br (d : BitVec 5) (a : BitVec 5) (k : BitVec 2) (l : BitVec 1) (c : BitVec 3)
  /-- R320. Rotate views, count down and branch back. -/
  | loopend (d : BitVec 5) (k : BitVec 2)
  /-- R321. Issue an S token producer completing when earlier stores perform. -/
  | tksig (i : BitVec 8)
  /-- R321. Capture Issued and hold S until those producers complete. -/
  | tkwait (a : BitVec 5) (i : BitVec 8)
  /-- R321. Read Issued of a token. -/
  | tkiss (d : BitVec 5) (i : BitVec 8)
  /-- R321. Read Completed of a token. -/
  | tkcmp (d : BitVec 5) (i : BitVec 8)
  /-- R322. Hold S until a delivery counter reaches a value. -/
  | cwait (d : BitVec 5) (a : BitVec 5) (b : BitVec 5)
  /-- R322. Read a delivery counter. -/
  | cread (d : BitVec 5) (a : BitVec 5)
  /-- R322. Write a delivery counter. -/
  | cwrite (a : BitVec 5) (b : BitVec 5)
  /-- R324. Set a chain engine's window. -/
  | chwin (a : BitVec 4) (e : BitVec 2)
  /-- R324. Set a chain engine's head, E and T. -/
  | chhead (a : BitVec 5) (b : BitVec 5) (e : BitVec 2)
  /-- R325. Publish a chain tail once earlier stores have performed. -/
  | chtail (a : BitVec 5) (e : BitVec 2)
  /-- R324. Read E, T, position or state of a chain engine. -/
  | chstat (d : BitVec 5) (f : BitVec 5) (e : BitVec 2)
  /-- R324. Stop a chain engine's decoding. -/
  | chstop (e : BitVec 2)
  /-- R326. Read the tape. -/
  | tread (d : BitVec 5)
  /-- R326. Hold S until the tape reaches a value. -/
  | tuntil (a : BitVec 5)
  /-- R360. Set the swallow rate and queue a phase step. -/
  | tadj (a : BitVec 5)
  /-- R327. Start a timed run at an absolute tape cycle. -/
  | runAt (a : BitVec 5) (b : BitVec 5)
  /-- R327. Arrive at a seam and start a timed run relative to its release. -/
  | runSeam (a : BitVec 5) (b : BitVec 5)
  /-- R330. Arrive at a group seam and wait for its release. -/
  | seam (a : BitVec 5) (b : BitVec 5)
  /-- R330. Arrive at a restartable seam. -/
  | seamR (a : BitVec 5) (b : BitVec 5)
  /-- R331. Safe point; stop and save if pre-emption is pending. -/
  | safe (i : BitVec 16)
  /-- R332. Read a system register. -/
  | srd (d : BitVec 5) (s : BitVec 9)
  /-- R332. Write a system register under its access codes. -/
  | swr (a : BitVec 5) (s : BitVec 9)
  /-- R332. Software trap with code 0x240 + n. -/
  | trap (n : BitVec 6)
  /-- R109. Change the mode of a range of banks. -/
  | bankset (a : BitVec 5) (b : BitVec 5)
  /-- R110. Read a bank's BANKCFG. -/
  | bankget (d : BitVec 5) (a : BitVec 5)
  /-- R110. Set the tenant's fill mask in its slice, limited by Limit. -/
  | waymask (a : BitVec 5)
  /-- R110. Set the core's slice selection, enable and no-allocate mask. -/
  | csel (a : BitVec 5)
  /-- R111. Read a slice or bank-conflict counter. -/
  | cstat (d : BitVec 5) (a : BitVec 5)
  /-- R110. Read FIFOST of a FIFO. -/
  | fstat (d : BitVec 5) (a : BitVec 5)
  /-- R110. Empty a FIFO. -/
  | freset (a : BitVec 5)
  /-- R197. Switch register clusters on or off. -/
  | regmode (a : BitVec 5)
  /-- R214. Read REGPWR. -/
  | regstat (d : BitVec 5)
  /-- R213. Load a view descriptor and reset Rot. -/
  | viewld (d : BitVec 3) (a : BitVec 4) (b : BitVec 5)
  /-- R214. Read a field of a view register. -/
  | viewget (d : BitVec 5) (a : BitVec 3) (f : BitVec 5)
  /-- R201. Load an address generator's shadow loop nest. -/
  | agset (g : BitVec 3) (a : BitVec 4) (b : BitVec 5)
  /-- R204. Start the named address generators from their shadows. -/
  | go (a : BitVec 5)
  /-- R207. Stop the named address generators. -/
  | agstop (a : BitVec 5)
  /-- R214. Read address-generator state. -/
  | agget (d : BitVec 5) (g : BitVec 3) (f : BitVec 5)
  /-- R208. Load the gather descriptor. -/
  | gset (a : BitVec 4) (b : BitVec 5)
  /-- R209. Fill a gather latch from an index vector. -/
  | ggo (m : BitVec 3) (v : BitVec 3) (b : BitVec 5) (i : BitVec 3)
  /-- R214. Read gather-unit status. -/
  | gstat (d : BitVec 5)
  /-- R87. Create an empty bolt with a fresh key. -/
  | boltnew (d : BitVec 4) (a : BitVec 5)
  /-- R88. Append pages to a bolt. -/
  | boltgrow (d : BitVec 4) (a : BitVec 4) (b : BitVec 5)
  /-- R89. Destroy a bolt's key and mark it CUT. -/
  | cut (a : BitVec 4)
  /-- R43. Occupy the engine's issue slot for k tape cycles. -/
  | idle (k : BitVec 24)
  /-- R44. Repeat the following len stream words n times in a timed stream. -/
  | loop (n : BitVec 12) (l : BitVec 12)
  /-- R272. Lane-wise add. -/
  | vadd (t : BitVec 4) (m : BitVec 3) (d : BitVec 6) (a : BitVec 6) (b : BitVec 6) (p : BitVec 1)
  /-- R272. Lane-wise subtract. -/
  | vsub (t : BitVec 4) (m : BitVec 3) (d : BitVec 6) (a : BitVec 6) (b : BitVec 6) (p : BitVec 1)
  /-- R272. Lane-wise multiply. -/
  | vmul (t : BitVec 4) (m : BitVec 3) (d : BitVec 6) (a : BitVec 6) (b : BitVec 6) (p : BitVec 1)
  /-- R272. Lane-wise fused multiply-add onto the destination. -/
  | vfma (t : BitVec 4) (m : BitVec 3) (d : BitVec 6) (a : BitVec 6) (b : BitVec 6) (p : BitVec 1)
  /-- R272. Lane-wise fused multiply-subtract. -/
  | vfms (t : BitVec 4) (m : BitVec 3) (d : BitVec 6) (a : BitVec 6) (b : BitVec 6) (p : BitVec 1)
  /-- R272. Lane-wise negated fused multiply-add. -/
  | vfnma (t : BitVec 4) (m : BitVec 3) (d : BitVec 6) (a : BitVec 6) (b : BitVec 6) (p : BitVec 1)
  /-- R274. Lane-wise minimum. -/
  | vmin (t : BitVec 4) (m : BitVec 3) (d : BitVec 6) (a : BitVec 6) (b : BitVec 6) (p : BitVec 1)
  /-- R274. Lane-wise maximum. -/
  | vmax (t : BitVec 4) (m : BitVec 3) (d : BitVec 6) (a : BitVec 6) (b : BitVec 6) (p : BitVec 1)
  /-- R273. Lane-wise absolute value. -/
  | vabs (t : BitVec 4) (m : BitVec 3) (d : BitVec 6) (a : BitVec 6) (p : BitVec 1)
  /-- R273. Lane-wise negation. -/
  | vneg (t : BitVec 4) (m : BitVec 3) (d : BitVec 6) (a : BitVec 6) (p : BitVec 1)
  /-- R272. Lane-wise floating divide. -/
  | vdiv (t : BitVec 4) (m : BitVec 3) (d : BitVec 6) (a : BitVec 6) (b : BitVec 6) (p : BitVec 1)
  /-- R272. Lane-wise floating square root. -/
  | vsqrt (t : BitVec 4) (m : BitVec 3) (d : BitVec 6) (a : BitVec 6) (p : BitVec 1)
  /-- R275. Lane-wise reciprocal estimate. -/
  | vrcpe (t : BitVec 4) (m : BitVec 3) (d : BitVec 6) (a : BitVec 6) (p : BitVec 1)
  /-- R275. Lane-wise reciprocal square-root estimate. -/
  | vrsqe (t : BitVec 4) (m : BitVec 3) (d : BitVec 6) (a : BitVec 6) (p : BitVec 1)
  /-- R276. Lane-wise f32 2^a, correctly rounded. -/
  | vexp2 (m : BitVec 3) (d : BitVec 6) (a : BitVec 6) (p : BitVec 1)
  /-- R276. Lane-wise f32 log2, correctly rounded. -/
  | vlog2 (m : BitVec 3) (d : BitVec 6) (a : BitVec 6) (p : BitVec 1)
  /-- R277. Lane-wise bitwise and. -/
  | vand (t : BitVec 4) (m : BitVec 3) (d : BitVec 6) (a : BitVec 6) (b : BitVec 6) (p : BitVec 1)
  /-- R277. Lane-wise bitwise or. -/
  | vor (t : BitVec 4) (m : BitVec 3) (d : BitVec 6) (a : BitVec 6) (b : BitVec 6) (p : BitVec 1)
  /-- R277. Lane-wise bitwise xor. -/
  | vxor (t : BitVec 4) (m : BitVec 3) (d : BitVec 6) (a : BitVec 6) (b : BitVec 6) (p : BitVec 1)
  /-- R277. Lane-wise a and not b. -/
  | vandn (t : BitVec 4) (m : BitVec 3) (d : BitVec 6) (a : BitVec 6) (b : BitVec 6) (p : BitVec 1)
  /-- R273. Lane-wise shift left. -/
  | vshl (t : BitVec 4) (m : BitVec 3) (d : BitVec 6) (a : BitVec 6) (b : BitVec 6) (p : BitVec 1)
  /-- R273. Lane-wise logical shift right. -/
  | vshr (t : BitVec 4) (m : BitVec 3) (d : BitVec 6) (a : BitVec 6) (b : BitVec 6) (p : BitVec 1)
  /-- R273. Lane-wise arithmetic shift right. -/
  | vsra (t : BitVec 4) (m : BitVec 3) (d : BitVec 6) (a : BitVec 6) (b : BitVec 6) (p : BitVec 1)
  /-- R273. Lane-wise count leading zeros. -/
  | vclz (t : BitVec 4) (m : BitVec 3) (d : BitVec 6) (a : BitVec 6) (p : BitVec 1)
  /-- R273. Lane-wise saturating add. -/
  | vadds (t : BitVec 4) (m : BitVec 3) (d : BitVec 6) (a : BitVec 6) (b : BitVec 6) (p : BitVec 1)
  /-- R273. Lane-wise saturating subtract. -/
  | vsubs (t : BitVec 4) (m : BitVec 3) (d : BitVec 6) (a : BitVec 6) (b : BitVec 6) (p : BitVec 1)
  /-- R273. Lane-wise high half of a product. -/
  | vmulhi (t : BitVec 4) (m : BitVec 3) (d : BitVec 6) (a : BitVec 6) (b : BitVec 6) (p : BitVec 1)
  /-- R272. Lane-wise absolute difference. -/
  | vabd (t : BitVec 4) (m : BitVec 3) (d : BitVec 6) (a : BitVec 6) (b : BitVec 6) (p : BitVec 1)
  /-- R273. Lane-wise rounding shift right. -/
  | vrshr (t : BitVec 4) (m : BitVec 3) (d : BitVec 6) (a : BitVec 6) (b : BitVec 6) (p : BitVec 1)
  /-- R274. Lane-wise clamp of the destination between a and b. -/
  | vclamp (t : BitVec 4) (m : BitVec 3) (d : BitVec 6) (a : BitVec 6) (b : BitVec 6) (p : BitVec 1)
  /-- R278. Select lanes of a or b by a mask register. -/
  | vsel (t : BitVec 4) (s : BitVec 3) (d : BitVec 6) (a : BitVec 6) (b : BitVec 6) (p : BitVec 1)
  /-- R277. Lane-wise copy. -/
  | vmov (t : BitVec 4) (m : BitVec 3) (d : BitVec 6) (a : BitVec 6) (p : BitVec 1)
  /-- R279. Compare equal into a mask. -/
  | vceq (t : BitVec 4) (m : BitVec 3) (d : BitVec 3) (a : BitVec 6) (b : BitVec 6) (p : BitVec 1)
  /-- R279. Compare not-equal into a mask. -/
  | vcne (t : BitVec 4) (m : BitVec 3) (d : BitVec 3) (a : BitVec 6) (b : BitVec 6) (p : BitVec 1)
  /-- R279. Compare less-than into a mask. -/
  | vclt (t : BitVec 4) (m : BitVec 3) (d : BitVec 3) (a : BitVec 6) (b : BitVec 6) (p : BitVec 1)
  /-- R279. Compare less-or-equal into a mask. -/
  | vcle (t : BitVec 4) (m : BitVec 3) (d : BitVec 3) (a : BitVec 6) (b : BitVec 6) (p : BitVec 1)
  /-- R279. Compare unordered into a mask. -/
  | vcun (t : BitVec 4) (m : BitVec 3) (d : BitVec 3) (a : BitVec 6) (b : BitVec 6) (p : BitVec 1)
  /-- R280. And of two mask registers. -/
  | vmand (d : BitVec 3) (a : BitVec 3) (b : BitVec 3)
  /-- R280. Or of two mask registers. -/
  | vmor (d : BitVec 3) (a : BitVec 3) (b : BitVec 3)
  /-- R280. Xor of two mask registers. -/
  | vmxor (d : BitVec 3) (a : BitVec 3) (b : BitVec 3)
  /-- R282. Convert one part of a vector between types. -/
  | vcvt (t : BitVec 4) (m : BitVec 3) (d : BitVec 6) (a : BitVec 6) (e : BitVec 2) (v : BitVec 4) (p : BitVec 1)
  /-- R283. Narrow two vectors into one. -/
  | vpack (t : BitVec 4) (m : BitVec 3) (d : BitVec 6) (a : BitVec 6) (b : BitVec 6) (p : BitVec 1)
  /-- R284. Widen one half of a vector. -/
  | vunpk (t : BitVec 4) (m : BitVec 3) (d : BitVec 6) (a : BitVec 6) (h : BitVec 1) (p : BitVec 1)
  /-- R285. Form a block-scaled kt activation row. -/
  | qblk (t : BitVec 4) (d : BitVec 6) (a : BitVec 6)
  /-- R286. Broadcast a scalar to every lane. -/
  | vbcast (t : BitVec 4) (m : BitVec 3) (d : BitVec 6) (b : BitVec 5)
  /-- R286. Write each lane's index. -/
  | vlane (t : BitVec 4) (m : BitVec 3) (d : BitVec 6)
  /-- R286. Permute lanes of a by index vector b. -/
  | vperm (t : BitVec 4) (m : BitVec 3) (d : BitVec 6) (a : BitVec 6) (b : BitVec 6) (p : BitVec 1)
  /-- R286. Slide lanes by a scalar amount. -/
  | vslide (t : BitVec 4) (m : BitVec 3) (d : BitVec 6) (a : BitVec 6) (b : BitVec 5) (p : BitVec 1)
  /-- R287. Reduce active lanes by sum into lane 0. -/
  | vrsum (t : BitVec 4) (m : BitVec 3) (d : BitVec 6) (a : BitVec 6) (p : BitVec 1)
  /-- R287. Reduce active lanes by maximum. -/
  | vrmax (t : BitVec 4) (m : BitVec 3) (d : BitVec 6) (a : BitVec 6) (p : BitVec 1)
  /-- R287. Reduce active lanes by minimum. -/
  | vrmin (t : BitVec 4) (m : BitVec 3) (d : BitVec 6) (a : BitVec 6) (p : BitVec 1)
  /-- R287. Dot product of active lanes into lane 0. -/
  | vrdot (t : BitVec 4) (m : BitVec 3) (d : BitVec 6) (a : BitVec 6) (b : BitVec 6) (p : BitVec 1)
  /-- R286. Reverse lane order. -/
  | vrev (t : BitVec 4) (m : BitVec 3) (d : BitVec 6) (a : BitVec 6) (p : BitVec 1)
  /-- R286. Interleave low halves of a and b. -/
  | vzip (t : BitVec 4) (m : BitVec 3) (d : BitVec 6) (a : BitVec 6) (b : BitVec 6) (p : BitVec 1)
  /-- R286. Take even lanes of a then b. -/
  | vunzip (t : BitVec 4) (m : BitVec 3) (d : BitVec 6) (a : BitVec 6) (b : BitVec 6) (p : BitVec 1)
  /-- R286. Two-source shuffle indexed by the destination. -/
  | vshuf (t : BitVec 4) (m : BitVec 3) (d : BitVec 6) (a : BitVec 6) (b : BitVec 6) (p : BitVec 1)
  /-- R292. Append active lanes to a deferral queue's staging. -/
  | defer (t : BitVec 4) (m : BitVec 3) (q : BitVec 2) (a : BitVec 6)
  /-- R293. Take one batch or the staging from a deferral queue. -/
  | drain (t : BitVec 4) (d : BitVec 6) (a : BitVec 3) (k : BitVec 1) (q : BitVec 2)
  /-- R297. Read a deferral queue's staging and batch counts. -/
  | vdqcnt (d : BitVec 6) (q : BitVec 2)
  /-- R246. Load a dense weight tile into a bank. -/
  | mldw (p : BitVec 3) (t : BitVec 3) (b : BitVec 1)
  /-- R247. Load a block-diagonal weight tile. -/
  | mldwBd (p : BitVec 3) (t : BitVec 3) (e : BitVec 1) (z : BitVec 1) (b : BitVec 1)
  /-- R248. Load kt block metadata into a bank. -/
  | mldb (p : BitVec 3) (t : BitVec 3) (b : BitVec 1)
  /-- R246. Clear a weight bank and set its format. -/
  | mwclr (t : BitVec 3) (b : BitVec 1)
  /-- R251. Stream port rows through the array, overwriting accumulators. -/
  | mmul (s : BitVec 2) (w : BitVec 3) (p : BitVec 3) (t : BitVec 3) (i : BitVec 16)
  /-- R251. Stream port rows, accumulating. -/
  | macc (s : BitVec 2) (w : BitVec 3) (p : BitVec 3) (t : BitVec 3) (i : BitVec 16)
  /-- R251. Stream port rows, accumulating negated products. -/
  | maccn (s : BitVec 2) (w : BitVec 3) (p : BitVec 3) (t : BitVec 3) (i : BitVec 16)
  /-- R251. Stream gather-latch rows, overwriting. -/
  | mmulg (s : BitVec 2) (w : BitVec 3) (p : BitVec 3) (t : BitVec 3) (i : BitVec 16)
  /-- R251. Stream gather-latch rows, accumulating. -/
  | maccg (s : BitVec 2) (w : BitVec 3) (p : BitVec 3) (t : BitVec 3) (i : BitVec 16)
  /-- R255. Convert accumulator rows and push them to a write port. -/
  | mdrn (w : BitVec 3) (p : BitVec 3) (t : BitVec 3) (i : BitVec 16)
  /-- R255. Drain and clear accumulator rows. -/
  | mdrnc (w : BitVec 3) (p : BitVec 3) (t : BitVec 3) (i : BitVec 16)
  /-- R255. Drain with the context's rounding shift. -/
  | mdrnr (s : BitVec 2) (w : BitVec 3) (p : BitVec 3) (t : BitVec 3) (i : BitVec 16)
  /-- R256. Zero accumulator rows. -/
  | mclr (w : BitVec 3)
  /-- R250. Write a stream context. -/
  | msfmt (s : BitVec 2) (h : BitVec 6) (a : BitVec 1) (b : BitVec 1)
  /-- R256. Push the M status beat. -/
  | mstat (p : BitVec 3)
  /-- R133. Untimed record-walk copy. -/
  | ccpy (d : BitVec 4) (a : BitVec 4) (r : BitVec 4) (c : BitVec 4) (s : BitVec 5) (t : BitVec 5)
  /-- R131. Timed copy in pattern slots. -/
  | ccpyt (d : BitVec 4) (a : BitVec 4) (r : BitVec 4) (c : BitVec 4) (s : BitVec 5) (t : BitVec 5)
  /-- R136. Untimed row gather by index list. -/
  | cgath (d : BitVec 4) (a : BitVec 4) (r : BitVec 4) (c : BitVec 4) (s : BitVec 5) (t : BitVec 5)
  /-- R136. Untimed row scatter by index list. -/
  | cscat (d : BitVec 4) (a : BitVec 4) (r : BitVec 4) (c : BitVec 4) (s : BitVec 5) (t : BitVec 5)
  /-- R135. Fill a walk with a pattern. -/
  | cfill (d : BitVec 4) (r : BitVec 4) (c : BitVec 4) (s : BitVec 5) (t : BitVec 5)
  /-- R128. Load a shape record into a record-cache slot. -/
  | cldrec (a : BitVec 4) (r : BitVec 4) (s : BitVec 5)
  /-- R129. Reload record-cache slots from memory. -/
  | rcfence (r : BitVec 4) (l : BitVec 1)
  /-- R137. Move one segment to another tier and write a status word. -/
  | migrate (a : BitVec 4) (s : BitVec 5) (t : BitVec 5)
  /-- R141. Write a walk into a remote core's scratchpad and raise its counter. -/
  | put (d : BitVec 4) (a : BitVec 4) (r : BitVec 4) (c : BitVec 4) (s : BitVec 5) (t : BitVec 5)
  /-- R141. Combine a walk into a remote destination and raise its counter. -/
  | putred (d : BitVec 4) (a : BitVec 4) (r : BitVec 4) (c : BitVec 4) (s : BitVec 5) (t : BitVec 5)
  /-- R141. Read a remote walk into local scratchpad and raise the local counter. -/
  | get (d : BitVec 4) (a : BitVec 4) (r : BitVec 4) (c : BitVec 4) (s : BitVec 5) (t : BitVec 5)
  /-- R142. Set the core's arm on a counter threshold. -/
  | carm (s : BitVec 5) (t : BitVec 5)
  /-- R142. Add to a local delivery counter. -/
  | craise (s : BitVec 5) (t : BitVec 5)
  /-- R143. Inject a shuttle from an image. -/
  | shsend (a : BitVec 4) (s : BitVec 5) (t : BitVec 5)
  /-- R138. Prefill port object-table caches for a hull. -/
  | cpref (a : BitVec 4) (r : BitVec 4) (s : BitVec 5)
  /-- R134. Untimed copy into the register space. -/
  | ccpyr (a : BitVec 4) (r : BitVec 4) (c : BitVec 4) (s : BitVec 5) (t : BitVec 5)
  /-- R134. Timed copy into the register space. -/
  | ccpyrt (a : BitVec 4) (r : BitVec 4) (c : BitVec 4) (s : BitVec 5) (t : BitVec 5)
  /-- R136. Timed row gather. -/
  | cgatht (d : BitVec 4) (a : BitVec 4) (r : BitVec 4) (c : BitVec 4) (s : BitVec 5) (t : BitVec 5)
  /-- R136. Timed row scatter. -/
  | cscatt (d : BitVec 4) (a : BitVec 4) (r : BitVec 4) (c : BitVec 4) (s : BitVec 5) (t : BitVec 5)
  /-- R133. Copy with dimensions 0 and 1 transposed. -/
  | cxpose (d : BitVec 4) (a : BitVec 4) (r : BitVec 4) (c : BitVec 4) (s : BitVec 5) (t : BitVec 5)
  /-- R133. Copy with element type conversion. -/
  | ccvt (d : BitVec 4) (a : BitVec 4) (r : BitVec 4) (c : BitVec 4) (s : BitVec 5) (t : BitVec 5)
  /-- R138. Write back dirty slice lines of a hull. -/
  | cflush (a : BitVec 4) (r : BitVec 4) (s : BitVec 5)
  /-- R138. Write back and invalidate slice lines of a hull. -/
  | cinval (a : BitVec 4) (r : BitVec 4) (s : BitVec 5)
  /-- R139. Single-copy-atomic dword store by C. -/
  | cwrw (d : BitVec 4) (c : BitVec 4) (s : BitVec 5) (t : BitVec 5)
  /-- R139. Atomic operation on a dword by C. -/
  | catom (d : BitVec 4) (o : BitVec 4) (c : BitVec 4) (s : BitVec 5) (t : BitVec 5)
  /-- R174. Shuttle push of a signed immediate. -/
  | shPushi (i : BitVec 11)
  /-- R174. Shuttle push of a packet register. -/
  | shPushg (g : BitVec 2)
  /-- R174. Shuttle pop into a packet register. -/
  | shPopg (g : BitVec 2)
  /-- R174. Shuttle shift left. -/
  | shShl (s : BitVec 6)
  /-- R174. Shuttle shift right. -/
  | shShr (s : BitVec 6)
  /-- R174. Shuttle skip n words if zero. -/
  | shSkz (n : BitVec 4)
  /-- R174. Shuttle skip n words if non-zero. -/
  | shSknz (n : BitVec 4)
  /-- R174. Shuttle unconditional skip. -/
  | shSkip (n : BitVec 4)
  /-- R174. Shuttle push of a link's untimed queue load. -/
  | shLload (k : BitVec 3)
  /-- R175. Shuttle dword read through a window. -/
  | shRdw (w : BitVec 2)
  /-- R175. Shuttle atomic add through a window. -/
  | shAddw (w : BitVec 2)
  /-- R176. Shuttle queues a copy of itself for a link. -/
  | shClone (d : BitVec 3)
  /-- R176. Shuttle sets its next link. -/
  | shDir (d : BitVec 3)
  /-- R369. A member detects an abort condition and signals a group-wide abort. -/
  | runAbort (code : Detected)
  /-- R330. A member's seam arrival is counted once its earlier accesses perform. -/
  | seamArrival (group : Nat) (member : Nat)
  /-- R408. A host abort or remote launch end is taken at a quiet boundary. -/
  | asyncAbortTaken (code : Nat)
  /-- R380. Ring command submitting a launch record for checking and measurement. -/
  | launch (vi : BitVec 6) (seq : W64) (rec : List Byte)
  /-- R395. Ring command aborting one launch. -/
  | abort (vi : BitVec 6) (seq : W64) (id : W64)
  /-- R395. Ring command returning a CUT object ID to the pool. -/
  | releaseId (vi : BitVec 6) (seq : W64) (obj : Nat)
  /-- R395. Ring command cutting an IDLE bolt. -/
  | cutIdle (vi : BitVec 6) (seq : W64) (obj : Nat)
  /-- R395. Ring command copying the oldest park record to the host. -/
  | parkRead (vi : BitVec 6) (seq : W64) (addr : W64)
  /-- R395. Ring command releasing a park record. -/
  | parkRelease (vi : BitVec 6) (seq : W64) (park : W64)
  /-- R431. Ring command producing a signed receipt for a launch. -/
  | receipt (vi : BitVec 6) (seq : W64) (id : W64) (addr : W64)
  /-- R409. Ring command creating a sealed key entry and writing its blob. -/
  | keyNew (vi : BitVec 6) (seq : W64) (entry : BitVec 4) (addr : W64)
  /-- R410. Ring command opening a blob into a sealed-key entry. -/
  | keyLoad (vi : BitVec 6) (seq : W64) (entry : BitVec 4) (blob : List Byte)
  /-- R409. Ring command emptying a sealed-key entry. -/
  | keyDrop (vi : BitVec 6) (seq : W64) (entry : BitVec 4)
  /-- R393. A launch enters RETIRING; cores stop and the scrub begins. -/
  | launchRetire (vi : BitVec 6) (id : W64)
  /-- R394. The retirement scrub ends and the completion record is written. -/
  | scrubEnd (vi : BitVec 6) (id : W64)
  /-- R317. Write back every dirty line of the selected slice. -/
  | slwb
  /-- R317. Write back and invalidate the tenant's lines of the selected slice. -/
  | slinv
  /-- R405. Leave a trap handler and resume at s31. -/
  | tret
  /-- R333. End the core's part of the launch. -/
  | exit
  /-- R174. Shuttle no operation. -/
  | shNop
  /-- R174. Shuttle duplicate top. -/
  | shDup
  /-- R174. Shuttle discard top. -/
  | shDrop
  /-- R174. Shuttle swap top two. -/
  | shSwap
  /-- R174. Shuttle add. -/
  | shAdd
  /-- R174. Shuttle subtract. -/
  | shSub
  /-- R174. Shuttle and. -/
  | shAnd
  /-- R174. Shuttle or. -/
  | shOr
  /-- R174. Shuttle xor. -/
  | shXor
  /-- R174. Shuttle signed less-than. -/
  | shClt
  /-- R174. Shuttle equality test. -/
  | shCeq
  /-- R174. Shuttle push of Hops. -/
  | shHops
  /-- R174. Shuttle test for the origin package. -/
  | shHere
  /-- R175. Shuttle read of a delivery counter. -/
  | shRdc
  /-- R176. Shuttle departs by Dir and ends the visit. -/
  | shFwd
  /-- R177. Shuttle delivers its registers and payload and raises a counter. -/
  | shDlv
  /-- R174. Shuttle ends its visit and is dropped. -/
  | shKill
  /-- R113. A chain engine decodes a published entry and captures its token needs. -/
  | chainEntryDecode
  /-- R50. A loop entry moves the read position back or closes the loop. -/
  | chainLoopEntry
  /-- R116. A conditional entry reads its condition word and runs or skips the next entry. -/
  | chainCondEntry
  /-- R50. A link entry moves the read position to its target. -/
  | chainLinkEntry
  /-- R50. An end entry stops the engine and makes it IDLE. -/
  | chainEndEntry
  /-- R117. An issued chain command completes and its token ticket completes in order. -/
  | commandCompletion
  /-- R120. An entry's cycle bound expires; the core faults and the entry is cancelled. -/
  | chainBound
  /-- R323. An S wait's bound elapses; S traps and the wait is withdrawn. -/
  | waitBound
  /-- R321. The producers a TKWAIT captured complete and S resumes. -/
  | tokenWaitMet
  /-- R346. A counter reaches a CWAIT's value and S resumes, ordered after counted writes. -/
  | counterWaitMet
  /-- R326. The tape reaches a TUNTIL value and S resumes. -/
  | tapeWaitMet
  /-- R142. The armed counter reaches its threshold and the armed fabric form proceeds. -/
  | armMet
  /-- R312. A late untimed load value lands and a frozen S resumes. -/
  | untimedLoadLands
  /-- R312. A posted store leaves the store queue and performs at its point of coherence. -/
  | storePerform
  /-- R315. A combining line performs 4,096 tape cycles after its first store. -/
  | stcbLineTimeout
  /-- R94. A bank serves a waiting untimed request round-robin, rechecking it. -/
  | bankService
  /-- R99. A bank mode change ends and the new mode takes effect. -/
  | bankOpen
  /-- R83. A parked access retries its translation after its backoff. -/
  | parkedRetry
  /-- R82. With Busy at zero, migration copies the segment, rewrites it and clears Held. -/
  | migrateCopy
  /-- R89. After a CUT's drain, the bolt's pages and key slot return to the pool. -/
  | boltRelease
  /-- R204. An address generator reads or writes its next beat. -/
  | agBeat
  /-- R197. A waking register cluster becomes ON and zeroed 64 cycles after REGMODE. -/
  | regclusterWake
  /-- R294. A FIFO accepts a DEFER's push and the DEFER takes effect. -/
  | deferAccept
  /-- R295. A FIFO accepts a DRAIN's pop and the DRAIN takes effect. -/
  | drainAccept
  /-- R328. A timed run reaches T0 and its streams begin issuing at offset 0. -/
  | runStart
  /-- R329. A timed run passes offset L-1 and untimed issue resumes unless held. -/
  | runEnd
  /-- R369. All members stop issuing at D + Span + 8 and write TIMED_ABORT frames. -/
  | abortStop
  /-- R364. A seam releases every member in one tape cycle. -/
  | seamRelease
  /-- R367. A pending hold's notice N elapses and Late is set. -/
  | holdNoticeElapsed
  /-- R360. Every 1,024 clock cycles one unit of StepPending is applied. -/
  | tadjStepApply
  /-- R362. Every 4,096 tape cycles a link sends a sync flit. -/
  | syncFlitSend
  /-- R154. A link 25,000 cycles in RETRAIN goes DOWN. -/
  | linkRetrainTimeout
  /-- R162. A timed PUTRED piece combines at nominal arrival plus ease in fixed order. -/
  | putredCombine
  /-- R158. At nominal arrival plus ease the receiving router checks due pieces. -/
  | deadlineCheck
  /-- R141. A grant returns and the fabric form issues with its call number. -/
  | fabricGrant
  /-- R141. The target issues its matching call; data is written or combined and the counter raised. -/
  | fabricCallMatch
  /-- R169. A shuttle engine is granted and runs the shuttle's code. -/
  | shuttleVisit
  /-- R74. MPOTINV invalidates all object-table-cache entries. -/
  | invalidateAll
  /-- R74. Every port acknowledges an invalidation and Busy clears. -/
  | invalidationComplete
  /-- R384. Sixteen cycles after BINDGO, bound cores start with their dispatch state. -/
  | coreStart
  /-- R397. After a fault's drain, the core records its fault frame. -/
  | coreStopRecord
  /-- R333. After EXIT, chains idle and commands complete; the core reports done. -/
  | coreDone
  /-- R440. A deferred island change applies when the island ceases to be timed. -/
  | islandChangeApply
  /-- R441. An edge on the SNAP pin latches every snapshot register. -/
  | snapPin
  /-- R438. Package reset runs power-up, key formation, boot, training and tape load. -/
  | packageReset
  /-- R442. Management command checkpointing non-bolt memory to the safe tier. -/
  | ckpt
  /-- R419. The last launch of a stopping interface retires and it becomes LOCKED. -/
  | viStopComplete
  /-- R359. Each core clock cycle advances the phase accumulator and is either swallowed or becomes a tape cycle that advances the tape and every fixed-latency count. -/
  | clockCycle
  /-- R30. Untimed S fetches a word that is no instruction, or that lies outside the code capability, and traps with an ILL_ code or CODE_BOUND. -/
  | illegalWord
  /-- R371. Firmware restores a group from its restart records and releases it. -/
  | groupRestart (group : Nat)
  /-- R365. HOLDCTL requests a hold of a group. -/
  | holdRequest (launch : Nat) (group : Nat)
  /-- R366. HOLDCTL lifts a hold; delayed run ends resume and releases are rescheduled. -/
  | holdLift (launch : Nat) (group : Nat)
  /-- R439. Management core loads the tape once. -/
  | tapeload (v : W64)
  /-- R362. A sync flit arrives; offset and delay are computed and Aligned updated. -/
  | syncFlitReceive (link : Nat) (remoteDep : Int) (remoteArr : Int)
  /-- R153. A receiver accepts, drops or requests replay of an arriving flit. -/
  | flitReceive (link : Nat) (seq : BitVec 12) (how : Receipt) (acked : BitVec 12)
  /-- R154. A replaying link catches up and returns to UP. -/
  | linkReplayDone (link : Nat)
  /-- R154. A retraining link completes training and comes UP at the next frame start. -/
  | linkTrainingDone (link : Nat)
  /-- R154. Firmware disables a link direction. -/
  | linkDisable (link : Nat)
  /-- R154. Firmware enables a link direction. -/
  | linkEnable (link : Nat)
  /-- R417. Management write of a link's transmit key and epoch. -/
  | linktxkey (link : Nat) (key : BitVec 256) (epoch : W32)
  /-- R417. Management write of a link's receive key and epoch. -/
  | linkrxkey (link : Nat) (key : BitVec 256) (epoch : W32)
  /-- R417. A written link key takes effect at the next block boundary; the state tells at which link. -/
  | linkKeySwitch (link : Told)
  /-- R152. A timed PUT or GET piece arrives and its bytes land. -/
  | timedPieceArrival (p : Piece)
  /-- R141. An untimed fabric request arrives and the remote package checks it. -/
  | fabricRequestArrival (r : FabReq)
  /-- R141. A refusal returns and the local core faults with its code. -/
  | fabricRefusal (code : Nat)
  /-- R141. Fabric data arrives and is held until the target's call match. -/
  | fabricDataArrival (d : FabData)
  /-- R169. All flits of a shuttle arrive at a router and enter the arrival buffer. -/
  | shuttleArrival (link : Nat) (sh : Shuttle)
  /-- R74. MPOTINV invalidates one object ID at every port. -/
  | invalidateObject (obj : Nat)
  /-- R74. MPOTINV invalidates entries of one key slot. -/
  | invalidateKeyslot (slot : Nat)
  /-- R383. Management write of a bind-table entry, making it BOUND. -/
  | bindent (core : BitVec 8) (v : W64)
  /-- R383. Management write requesting start of a launch's bound cores. -/
  | bindgo (v : W64)
  /-- R373. A sensor passes its trip threshold, stopping the island and aborting runs. -/
  | thermalTrip (island : BitVec 7)
  /-- R440. Management write of an island's ratio and voltage, deferred while timed. -/
  | islctl (island : BitVec 7) (v : W64)
  /-- R441. A write of SNAPTRIG latches every snapshot register. -/
  | snaptrig (v : W64)
  /-- R435. Host write of a ring's Tail; the command processor reads new entries. -/
  | doorbell (vi : BitVec 6) (ring : BitVec 2) (v : W64)
  /-- R422. Management write keys a ring and sets N to 1. -/
  | ringkey (vi : BitVec 6) (ring : BitVec 2) (key : BitVec 256)
  /-- R423. Host resync record moves a halted ring's N forward. -/
  | ringresync (vi : BitVec 6) (ring : BitVec 2) (rec : List Byte)
  /-- R436. Host advances the completion-ring consumer head, releasing held records. -/
  | cplhead (vi : BitVec 6) (v : W64)
  /-- R442. A checkpoint image is restored after its tags are checked. -/
  | checkpointRestore (tagsHold : Bool)
  /-- R419. VICTL ENABLE moves an interface from DISABLED to OPEN. -/
  | viEnable (vi : BitVec 6)
  /-- R419. VICTL LOCK takes the effective configuration. -/
  | viLock (vi : BitVec 6)
  /-- R419. VICTL START moves a keyed interface to RUN. -/
  | viStart (vi : BitVec 6)
  /-- R419. VICTL STOP stops ring reading and awaits retirement. -/
  | viStop (vi : BitVec 6)
  /-- R419. VICTL UNLOCK reopens the configuration. -/
  | viUnlock (vi : BitVec 6)
  /-- R419. VICTL RESET ends launches, drops shuttles and keys, and disables the interface. -/
  | viReset (vi : BitVec 6)
  /-- R382. A queued launch's dependences settle and leasing begins or it fails. -/
  | dependencesSettled (vi : BitVec 6) (id : W64)
  /-- R76. A launch's leased objects become resident and it is READY. -/
  | leasesResident (vi : BitVec 6) (id : W64)
  /-- R388. A pre-emption request is posted to every core of a launch. -/
  | preemptRequest (launch : Nat)
  /-- R391. A SAVED launch is restored into bound cores and resumes. -/
  | resume (launch : Nat) (core : BitVec 8)
  /-- R414. A world's last launch retires; its key slot is zeroed and its ID freed. -/
  | worldEnd (world : Nat)
  /-- R17. A write to a register without behaviour of its own updates its fields. -/
  | registerWrite (r : RegName) (v : W64)
  /-- R106. The management core changes a bank's LaunchTag or WorldTag, running the four steps of a mode change with the bank's mode kept. -/
  | bankcfg (bank : Nat) (launchTag : BitVec 8) (worldTag : BitVec 16)
  /-- R74. The management core writes an object-table or segment entry, for example moving an idle object's segments to host swap, and the change takes effect after the following invalidation. -/
  | objectTableWrite (obj : Nat) (e : ObjEntry)
  deriving DecidableEq, Repr

end Sys2Proof
end

