-- ==== Sys2Proof/WellFormed.lean ====
section
/-! DEFINITION. Which instructions are well formed: every operand at a value that its encoding admits (R28 to R49,
R68, R108, R123, R212, R257, R271, R304 to R332). An event is well formed when the numbers it carries name what exists. -/

namespace Sys2Proof

open Machine (tyInt tySigned tyFloat tyKt tySize profOf)

/-- Types A of R264: every assigned code. -/
def tyA (t : Nat) : Bool := t < 14
/-- Types I of R264. -/
def tyI (t : Nat) : Bool := t < 8
/-- Types F of R264. -/
def tyF (t : Nat) : Bool := 8 ≤ t && t ≤ 11
/-- Types F2 of R264. -/
def tyF2 (t : Nat) : Bool := t = 8 || t = 9
/-- Types I and F. -/
def tyIF (t : Nat) : Bool := t < 12
/-- Types SI and F. -/
def tySIF (t : Nat) : Bool := t < 4 || (8 ≤ t && t ≤ 11)
/-- Types I, F and K: every assigned code. -/
def tyIFK (t : Nat) : Bool := t < 14
/-- Types F and K. -/
def tyFK (t : Nat) : Bool := 8 ≤ t && t ≤ 13
/-- Target types of VPACK (R271). -/
def tyPack (t : Nat) : Bool := t < 3 || (4 ≤ t && t ≤ 6) || (9 ≤ t && t ≤ 11)
/-- Target types of VUNPK (R271). -/
def tyUnpk (t : Nat) : Bool := (1 ≤ t && t ≤ 3) || (5 ≤ t && t ≤ 7)
/-- Ratio of the element sizes of two types (R282). -/
def cvtRatio (ts t : Nat) : Nat :=
  if tySize t ≤ tySize ts then tySize ts / tySize t else tySize t / tySize ts

/-- The type code of R35 that a type code of R38 names. -/
def mType (t : Nat) : Nat :=
  if t = 0 then 8 else if t = 1 then 9 else if t = 2 then 10 else if t = 3 then 11
  else if t = 4 then 12 else if t = 5 then 13 else 0

/-- A profile field: 0 for the default, or a published ID (R240). -/
def profOk (i : Nat) : Bool := i = 0 || (profOf i).isSome
/-- A published profile takes the operand type (R240); 0 is checked against the default at issue. -/
def profTy (i t : Nat) : Bool :=
  match profOf i with
  | some p => p.types.contains (mType t)
  | none => true

/-- The selectors of R332. -/
def selOk (s : Nat) : Bool := s < 6 || (16 ≤ s && s ≤ 25) || (32 ≤ s && s ≤ 35)

/-- Well-formedness of an instruction's operands (R20, R28). -/
def Instr.wf : Instr → Bool
  | .add _ _ _ => true
  | .sub _ _ _ => true
  | .and _ _ _ => true
  | .or _ _ _ => true
  | .xor _ _ _ => true
  | .andn _ _ _ => true
  | .shl _ _ _ => true
  | .shr _ _ _ => true
  | .sra _ _ _ => true
  | .ror _ _ _ => true
  | .slt _ _ _ => true
  | .sltu _ _ _ => true
  | .min _ _ _ => true
  | .max _ _ _ => true
  | .minu _ _ _ => true
  | .maxu _ _ _ => true
  | .adds _ _ _ => true
  | .subs _ _ _ => true
  | .clz _ _ => true
  | .popc _ _ => true
  | .sextb _ _ => true
  | .sexth _ _ => true
  | .sextw _ _ => true
  | .addi _ _ _ => true
  | .andi _ _ _ => true
  | .ori _ _ _ => true
  | .xori _ _ _ => true
  | .shi _ _ _ _ => true
  | .lui _ _ _ => true
  | .slti _ _ _ => true
  | .mul _ _ _ => true
  | .mulh _ _ _ => true
  | .mulhu _ _ _ => true
  | .div _ _ _ => true
  | .divu _ _ _ => true
  | .rem _ _ _ => true
  | .remu _ _ _ => true
  | .sel _ _ _ _ _ => true
  | .movb _ _ => true
  | .setb _ _ => true
  | .mget _ _ _ => true
  | .mput _ _ _ => true
  | .ldb _ _ _ _ => true
  | .ldh _ _ _ _ => true
  | .ldw _ _ _ _ => true
  | .ldd _ _ _ _ => true
  | .stb _ _ _ _ => true
  | .sth _ _ _ _ => true
  | .stw _ _ _ _ => true
  | .std _ _ _ _ => true
  | .ldbn _ _ _ _ => true
  | .ldhn _ _ _ _ => true
  | .ldwn _ _ _ _ => true
  | .ldc _ _ _ _ => true
  | .stc _ _ _ _ => true
  | .amo d _ _ _ _ _ o => o.toNat < 10 && (o.toNat != 9 || d.toNat % 2 = 0)
  | .ldaq _ _ _ _ p _ => p.toNat < 5
  | .strl _ _ _ _ p _ => p.toNat < 5
  | .sts _ _ _ _ _ => true
  | .stcb _ _ _ _ _ => true
  | .fence _ p => p.toNat < 5
  | .cmov _ _ => true
  | .cjoin _ _ _ => true
  | .clo _ _ _ => true
  | .chi _ _ _ => true
  | .cright _ _ _ => true
  | .cget _ _ f => f.toNat < 4
  | .cchk _ _ _ => true
  | .pbr _ _ => true
  | .br d a _ l c => c.toNat < 7 && (l.toNat = 1 || d.toNat = 0) && (c.toNat != 0 || a.toNat = 0)
  | .loopend _ _ => true
  | .tksig i => i.toNat != 0
  | .tkwait _ i => i.toNat != 0
  | .tkiss _ i => i.toNat != 0
  | .tkcmp _ i => i.toNat != 0
  | .cwait _ _ _ => true
  | .cread _ _ => true
  | .cwrite _ _ => true
  | .chwin _ e => e.toNat != 0
  | .chhead _ _ e => e.toNat != 0
  | .chtail _ e => e.toNat != 0
  | .chstat _ f e => e.toNat != 0 && f.toNat < 4
  | .chstop e => e.toNat != 0
  | .tread _ => true
  | .tuntil _ => true
  | .tadj _ => true
  | .runAt _ _ => true
  | .runSeam _ _ => true
  | .seam _ _ => true
  | .seamR _ _ => true
  | .safe _ => true
  | .srd _ s => selOk s.toNat
  | .swr _ s => selOk s.toNat
  | .trap _ => true
  | .bankset _ _ => true
  | .bankget _ _ => true
  | .waymask _ => true
  | .csel _ => true
  | .cstat _ _ => true
  | .fstat _ _ => true
  | .freset _ => true
  | .regmode _ => true
  | .regstat _ => true
  | .viewld _ _ _ => true
  | .viewget _ _ f => f.toNat < 5
  | .agset _ _ _ => true
  | .go _ => true
  | .agstop _ => true
  | .agget _ _ f => f.toNat < 4
  | .gset _ _ => true
  | .ggo _ _ _ _ => true
  | .gstat _ => true
  | .boltnew _ _ => true
  | .boltgrow _ _ _ => true
  | .cut _ => true
  | .idle k => k.toNat != 0
  | .loop n l => n.toNat != 0 && l.toNat != 0
  | .vadd t _ _ a _ p => tyIF t.toNat && (p.toNat = 0 || a.toNat < 6)
  | .vsub t _ _ a _ p => tyIF t.toNat && (p.toNat = 0 || a.toNat < 6)
  | .vmul t _ _ a _ p => tyIF t.toNat && (p.toNat = 0 || a.toNat < 6)
  | .vfma t _ _ a _ p => tyIF t.toNat && (p.toNat = 0 || a.toNat < 6)
  | .vfms t _ _ a _ p => tyIF t.toNat && (p.toNat = 0 || a.toNat < 6)
  | .vfnma t _ _ a _ p => tyIF t.toNat && (p.toNat = 0 || a.toNat < 6)
  | .vmin t _ _ a _ p => tyIF t.toNat && (p.toNat = 0 || a.toNat < 6)
  | .vmax t _ _ a _ p => tyIF t.toNat && (p.toNat = 0 || a.toNat < 6)
  | .vabs t _ _ a p => tyIF t.toNat && (p.toNat = 0 || a.toNat < 6)
  | .vneg t _ _ a p => tySIF t.toNat && (p.toNat = 0 || a.toNat < 6)
  | .vdiv t _ _ a _ p => tyF2 t.toNat && (p.toNat = 0 || a.toNat < 6)
  | .vsqrt t _ _ a p => tyF2 t.toNat && (p.toNat = 0 || a.toNat < 6)
  | .vrcpe t _ _ a p => tyF2 t.toNat && (p.toNat = 0 || a.toNat < 6)
  | .vrsqe t _ _ a p => tyF2 t.toNat && (p.toNat = 0 || a.toNat < 6)
  | .vexp2 _ _ a p => (p.toNat = 0 || a.toNat < 6)
  | .vlog2 _ _ a p => (p.toNat = 0 || a.toNat < 6)
  | .vand t _ _ a _ p => tyA t.toNat && (p.toNat = 0 || a.toNat < 6)
  | .vor t _ _ a _ p => tyA t.toNat && (p.toNat = 0 || a.toNat < 6)
  | .vxor t _ _ a _ p => tyA t.toNat && (p.toNat = 0 || a.toNat < 6)
  | .vandn t _ _ a _ p => tyA t.toNat && (p.toNat = 0 || a.toNat < 6)
  | .vshl t _ _ a _ p => tyI t.toNat && (p.toNat = 0 || a.toNat < 6)
  | .vshr t _ _ a _ p => tyI t.toNat && (p.toNat = 0 || a.toNat < 6)
  | .vsra t _ _ a _ p => tyI t.toNat && (p.toNat = 0 || a.toNat < 6)
  | .vclz t _ _ a p => tyI t.toNat && (p.toNat = 0 || a.toNat < 6)
  | .vadds t _ _ a _ p => tyI t.toNat && (p.toNat = 0 || a.toNat < 6)
  | .vsubs t _ _ a _ p => tyI t.toNat && (p.toNat = 0 || a.toNat < 6)
  | .vmulhi t _ _ a _ p => tyI t.toNat && (p.toNat = 0 || a.toNat < 6)
  | .vabd t _ _ a _ p => tyIF t.toNat && (p.toNat = 0 || a.toNat < 6)
  | .vrshr t _ _ a _ p => tyI t.toNat && (p.toNat = 0 || a.toNat < 6)
  | .vclamp t _ _ a _ p => tyIF t.toNat && (p.toNat = 0 || a.toNat < 6)
  | .vsel t _ _ a _ p => tyA t.toNat && (p.toNat = 0 || a.toNat < 6)
  | .vmov t _ _ a p => tyA t.toNat && (p.toNat = 0 || a.toNat < 6)
  | .vceq t _ _ a _ p => tyIFK t.toNat && (p.toNat = 0 || a.toNat < 6)
  | .vcne t _ _ a _ p => tyIFK t.toNat && (p.toNat = 0 || a.toNat < 6)
  | .vclt t _ _ a _ p => tyIFK t.toNat && (p.toNat = 0 || a.toNat < 6)
  | .vcle t _ _ a _ p => tyIFK t.toNat && (p.toNat = 0 || a.toNat < 6)
  | .vcun t _ _ a _ p => tyFK t.toNat && (p.toNat = 0 || a.toNat < 6)
  | .vmand _ _ _ => true
  | .vmor _ _ _ => true
  | .vmxor _ _ _ => true
  | .vcvt t _ _ a e v p => tyA t.toNat && (p.toNat = 0 || a.toNat < 6) && tyA v.toNat && cvtRatio v.toNat t.toNat < 8 && e.toNat < cvtRatio v.toNat t.toNat
  | .vpack t _ _ a _ p => tyPack t.toNat && (p.toNat = 0 || a.toNat < 6)
  | .vunpk t _ _ a _ p => tyUnpk t.toNat && (p.toNat = 0 || a.toNat < 6)
  | .qblk t _ a => tyKt t.toNat && a.toNat % 8 < 7
  | .vbcast t _ _ _ => tyA t.toNat
  | .vlane t _ _ => tyI t.toNat
  | .vperm t _ _ a _ p => tyA t.toNat && (p.toNat = 0 || a.toNat < 6)
  | .vslide t _ _ a _ p => tyA t.toNat && (p.toNat = 0 || a.toNat < 6)
  | .vrsum t _ _ a p => tyIFK t.toNat && (p.toNat = 0 || a.toNat < 6)
  | .vrmax t _ _ a p => tyA t.toNat && (p.toNat = 0 || a.toNat < 6)
  | .vrmin t _ _ a p => tyA t.toNat && (p.toNat = 0 || a.toNat < 6)
  | .vrdot t _ _ a _ p => tyIFK t.toNat && (p.toNat = 0 || a.toNat < 6)
  | .vrev t _ _ a p => tyA t.toNat && (p.toNat = 0 || a.toNat < 6)
  | .vzip t _ _ a _ p => tyA t.toNat && (p.toNat = 0 || a.toNat < 6)
  | .vunzip t _ _ a _ p => tyA t.toNat && (p.toNat = 0 || a.toNat < 6)
  | .vshuf t _ _ a _ p => tyA t.toNat && (p.toNat = 0 || a.toNat < 6)
  | .defer t _ _ _ => tyA t.toNat
  | .drain t _ _ _ _ => tyA t.toNat
  | .vdqcnt _ _ => true
  | .mldw p t _ => p.toNat < 6 && t.toNat < 7
  | .mldwBd p t _ _ _ => p.toNat < 6 && t.toNat < 4
  | .mldb p t _ => p.toNat < 6 && (t.toNat = 4 || t.toNat = 5)
  | .mwclr t _ => t.toNat < 7
  | .mmul _ _ p t i => p.toNat < 6 && t.toNat < 7 && profTy i.toNat t.toNat && profOk i.toNat
  | .macc _ _ p t i => p.toNat < 6 && t.toNat < 7 && profTy i.toNat t.toNat && profOk i.toNat
  | .maccn _ _ p t i => p.toNat < 6 && t.toNat < 7 && profTy i.toNat t.toNat && profOk i.toNat
  | .mmulg _ _ p t i => p.toNat < 2 && t.toNat < 7 && profTy i.toNat t.toNat && profOk i.toNat
  | .maccg _ _ p t i => p.toNat < 2 && t.toNat < 7 && profTy i.toNat t.toNat && profOk i.toNat
  | .mdrn _ p t i => 5 < p.toNat && t.toNat < 7 && profOk i.toNat
  | .mdrnc _ p t i => 5 < p.toNat && t.toNat < 7 && profOk i.toNat
  | .mdrnr _ _ p t i => 5 < p.toNat && t.toNat < 7 && profOk i.toNat
  | .mclr _ => true
  | .msfmt _ _ _ _ => true
  | .mstat p => 5 < p.toNat
  | .ccpy _ _ _ _ _ _ => true
  | .ccpyt _ _ _ _ _ _ => true
  | .cgath _ _ _ _ _ t => t.toNat % 2 = 0
  | .cscat _ _ _ _ s _ => s.toNat % 2 = 0
  | .cfill _ _ _ _ _ => true
  | .cldrec _ _ _ => true
  | .rcfence _ _ => true
  | .migrate _ _ _ => true
  | .put _ _ _ _ s _ => s.toNat % 2 = 0
  | .putred _ _ _ _ s _ => s.toNat % 2 = 0
  | .get _ _ _ _ _ t => t.toNat % 2 = 0
  | .carm _ _ => true
  | .craise _ _ => true
  | .shsend _ _ _ => true
  | .cpref _ _ _ => true
  | .ccpyr _ _ _ _ _ => true
  | .ccpyrt _ _ _ _ _ => true
  | .cgatht _ _ _ _ _ t => t.toNat % 2 = 0
  | .cscatt _ _ _ _ s _ => s.toNat % 2 = 0
  | .cxpose _ _ _ _ _ _ => true
  | .ccvt _ _ _ _ _ _ => true
  | .cflush _ _ _ => true
  | .cinval _ _ _ => true
  | .cwrw _ _ _ _ => true
  | .catom _ o _ _ _ => o.toNat < 8
  | .shPushi _ => true
  | .shPushg _ => true
  | .shPopg _ => true
  | .shShl _ => true
  | .shShr _ => true
  | .shSkz n => n.toNat != 0
  | .shSknz n => n.toNat != 0
  | .shSkip n => n.toNat != 0
  | .shLload k => k.toNat < 6
  | .shRdw _ => true
  | .shAddw _ => true
  | .shClone d => d.toNat != 6
  | .shDir d => d.toNat != 6
  | .runAbort _ => true
  | .seamArrival _ _ => true
  | .asyncAbortTaken _ => true
  | .launch _ _ _ => true
  | .abort _ _ _ => true
  | .releaseId _ _ _ => true
  | .cutIdle _ _ _ => true
  | .parkRead _ _ _ => true
  | .parkRelease _ _ _ => true
  | .receipt _ _ _ _ => true
  | .keyNew _ _ _ _ => true
  | .keyLoad _ _ _ _ => true
  | .keyDrop _ _ _ => true
  | .launchRetire _ _ => true
  | .scrubEnd _ _ => true
  | .slwb => true
  | .slinv => true
  | .tret => true
  | .exit => true
  | .shNop => true
  | .shDup => true
  | .shDrop => true
  | .shSwap => true
  | .shAdd => true
  | .shSub => true
  | .shAnd => true
  | .shOr => true
  | .shXor => true
  | .shClt => true
  | .shCeq => true
  | .shHops => true
  | .shHere => true
  | .shRdc => true
  | .shFwd => true
  | .shDlv => true
  | .shKill => true
  | .chainEntryDecode => true
  | .chainLoopEntry => true
  | .chainCondEntry => true
  | .chainLinkEntry => true
  | .chainEndEntry => true
  | .commandCompletion => true
  | .chainBound => true
  | .waitBound => true
  | .tokenWaitMet => true
  | .counterWaitMet => true
  | .tapeWaitMet => true
  | .armMet => true
  | .untimedLoadLands => true
  | .storePerform => true
  | .stcbLineTimeout => true
  | .bankService => true
  | .bankOpen => true
  | .parkedRetry => true
  | .migrateCopy => true
  | .boltRelease => true
  | .agBeat => true
  | .regclusterWake => true
  | .deferAccept => true
  | .drainAccept => true
  | .runStart => true
  | .runEnd => true
  | .abortStop => true
  | .seamRelease => true
  | .holdNoticeElapsed => true
  | .tadjStepApply => true
  | .syncFlitSend => true
  | .linkRetrainTimeout => true
  | .putredCombine => true
  | .deadlineCheck => true
  | .fabricGrant => true
  | .fabricCallMatch => true
  | .shuttleVisit => true
  | .invalidateAll => true
  | .invalidationComplete => true
  | .coreStart => true
  | .coreStopRecord => true
  | .coreDone => true
  | .islandChangeApply => true
  | .snapPin => true
  | .packageReset => true
  | .ckpt => true
  | .viStopComplete => true
  | .clockCycle => true
  | .illegalWord => true
  | .groupRestart _ => true
  | .holdRequest _ _ => true
  | .holdLift _ _ => true
  | .tapeload _ => true
  | .syncFlitReceive _ _ _ => true
  | .flitReceive _ _ _ _ => true
  | .linkReplayDone _ => true
  | .linkTrainingDone _ => true
  | .linkDisable _ => true
  | .linkEnable _ => true
  | .linktxkey _ _ _ => true
  | .linkrxkey _ _ _ => true
  | .linkKeySwitch _ => true
  | .timedPieceArrival _ => true
  | .fabricRequestArrival _ => true
  | .fabricRefusal _ => true
  | .fabricDataArrival _ => true
  | .shuttleArrival _ _ => true
  | .invalidateObject _ => true
  | .invalidateKeyslot _ => true
  | .bindent _ _ => true
  | .bindgo _ => true
  | .thermalTrip _ => true
  | .islctl _ _ => true
  | .snaptrig _ => true
  | .doorbell _ _ _ => true
  | .ringkey _ _ _ => true
  | .ringresync _ _ _ => true
  | .cplhead _ _ => true
  | .checkpointRestore _ => true
  | .viEnable _ => true
  | .viLock _ => true
  | .viStart _ => true
  | .viStop _ => true
  | .viUnlock _ => true
  | .viReset _ => true
  | .dependencesSettled _ _ => true
  | .leasesResident _ _ => true
  | .preemptRequest _ => true
  | .resume _ _ => true
  | .worldEnd _ => true
  | .registerWrite _ _ => true
  | .bankcfg _ _ _ => true
  | .objectTableWrite _ _ => true

end Sys2Proof
end

