-- ==== Sys2Proof/Decode.lean ====
section
/-! DEFINITION. The decoders of S, V, M, C and shuttle words (R27 to R46), total and rejecting by the code of R28, and
the encoder, written from the same tables. Fields are read as numbers; a decoder answers the first code of R28 in
table order (R29). -/

namespace Sys2Proof

open Machine (bitsOf tyKt)

/-- What a decoder answers: a code of R28, or an instruction. -/
abbrev Dec := Except Nat Instr

/-- Go on where the condition holds; otherwise reject with the code (R28). -/
def need (c : Bool) (code : Nat) (k : Dec) : Dec := if c then k else .error code

/-- A field of 1 bits. -/
abbrev n1 (x : Nat) : BitVec 1 := BitVec.ofNat 1 x
/-- A field of 2 bits. -/
abbrev n2 (x : Nat) : BitVec 2 := BitVec.ofNat 2 x
/-- A field of 3 bits. -/
abbrev n3 (x : Nat) : BitVec 3 := BitVec.ofNat 3 x
/-- A field of 4 bits. -/
abbrev n4 (x : Nat) : BitVec 4 := BitVec.ofNat 4 x
/-- A field of 5 bits. -/
abbrev n5 (x : Nat) : BitVec 5 := BitVec.ofNat 5 x
/-- A field of 6 bits. -/
abbrev n6 (x : Nat) : BitVec 6 := BitVec.ofNat 6 x
/-- A field of 8 bits. -/
abbrev n8 (x : Nat) : BitVec 8 := BitVec.ofNat 8 x
/-- A field of 9 bits. -/
abbrev n9 (x : Nat) : BitVec 9 := BitVec.ofNat 9 x
/-- A field of 11 bits. -/
abbrev n11 (x : Nat) : BitVec 11 := BitVec.ofNat 11 x
/-- A field of 12 bits. -/
abbrev n12 (x : Nat) : BitVec 12 := BitVec.ofNat 12 x
/-- A field of 13 bits. -/
abbrev n13 (x : Nat) : BitVec 13 := BitVec.ofNat 13 x
/-- A field of 16 bits. -/
abbrev n16 (x : Nat) : BitVec 16 := BitVec.ofNat 16 x
/-- A field of 24 bits. -/
abbrev n24 (x : Nat) : BitVec 24 := BitVec.ofNat 24 x

/-- ILL_MAJOR, ILL_MINOR (R28). -/
def illMajor : Dec := .error 0x40
/-- ILL_MINOR (R28). -/
def illMinor : Dec := .error 0x41

/-- Stream control (R42): bits 31:26 are ones. -/
def decodeCtl (w : Nat) : Dec :=
  let sub := bitsOf w 24 2
  if sub = 0 then need (bitsOf w 0 24 != 0) 0x44 (.ok (.idle (n24 (bitsOf w 0 24))))
  else if sub = 1 then
    need (bitsOf w 12 12 != 0 && bitsOf w 0 12 != 0) 0x44 (.ok (.loop (n12 (bitsOf w 12 12)) (n12 (bitsOf w 0 12))))
  else illMinor

/-- Major opcode 0x00 of S (R32). -/
def decodeAlu (d a b x fn : Nat) : Dec :=
  if fn = 0 then need (x = 0) 0x42 (.ok (.add (n5 d) (n5 a) (n5 b)))
  else if fn = 1 then need (x = 0) 0x42 (.ok (.sub (n5 d) (n5 a) (n5 b)))
  else if fn = 2 then need (x = 0) 0x42 (.ok (.and (n5 d) (n5 a) (n5 b)))
  else if fn = 3 then need (x = 0) 0x42 (.ok (.or (n5 d) (n5 a) (n5 b)))
  else if fn = 4 then need (x = 0) 0x42 (.ok (.xor (n5 d) (n5 a) (n5 b)))
  else if fn = 5 then need (x = 0) 0x42 (.ok (.andn (n5 d) (n5 a) (n5 b)))
  else if fn = 6 then need (x = 0) 0x42 (.ok (.shl (n5 d) (n5 a) (n5 b)))
  else if fn = 7 then need (x = 0) 0x42 (.ok (.shr (n5 d) (n5 a) (n5 b)))
  else if fn = 8 then need (x = 0) 0x42 (.ok (.sra (n5 d) (n5 a) (n5 b)))
  else if fn = 9 then need (x = 0) 0x42 (.ok (.ror (n5 d) (n5 a) (n5 b)))
  else if fn = 10 then need (x = 0) 0x42 (.ok (.slt (n5 d) (n5 a) (n5 b)))
  else if fn = 11 then need (x = 0) 0x42 (.ok (.sltu (n5 d) (n5 a) (n5 b)))
  else if fn = 12 then need (x = 0) 0x42 (.ok (.min (n5 d) (n5 a) (n5 b)))
  else if fn = 13 then need (x = 0) 0x42 (.ok (.max (n5 d) (n5 a) (n5 b)))
  else if fn = 14 then need (x = 0) 0x42 (.ok (.minu (n5 d) (n5 a) (n5 b)))
  else if fn = 15 then need (x = 0) 0x42 (.ok (.maxu (n5 d) (n5 a) (n5 b)))
  else if fn = 16 then need (x = 0) 0x42 (.ok (.adds (n5 d) (n5 a) (n5 b)))
  else if fn = 17 then need (x = 0) 0x42 (.ok (.subs (n5 d) (n5 a) (n5 b)))
  else if fn = 18 then need (b = 0 && x = 0) 0x42 (.ok (.clz (n5 d) (n5 a)))
  else if fn = 19 then need (b = 0 && x = 0) 0x42 (.ok (.popc (n5 d) (n5 a)))
  else if fn = 20 then need (b = 0 && x = 0) 0x42 (.ok (.sextb (n5 d) (n5 a)))
  else if fn = 21 then need (b = 0 && x = 0) 0x42 (.ok (.sexth (n5 d) (n5 a)))
  else if fn = 22 then need (b = 0 && x = 0) 0x42 (.ok (.sextw (n5 d) (n5 a)))
  else illMinor

/-- Major opcode 0x08 of S (R32). -/
def decodeMuldiv (d a b x fn : Nat) : Dec :=
  if fn = 0 then need (x = 0) 0x42 (.ok (.mul (n5 d) (n5 a) (n5 b)))
  else if fn = 1 then need (x = 0) 0x42 (.ok (.mulh (n5 d) (n5 a) (n5 b)))
  else if fn = 2 then need (x = 0) 0x42 (.ok (.mulhu (n5 d) (n5 a) (n5 b)))
  else if fn = 3 then need (x = 0) 0x42 (.ok (.div (n5 d) (n5 a) (n5 b)))
  else if fn = 4 then need (x = 0) 0x42 (.ok (.divu (n5 d) (n5 a) (n5 b)))
  else if fn = 5 then need (x = 0) 0x42 (.ok (.rem (n5 d) (n5 a) (n5 b)))
  else if fn = 6 then need (x = 0) 0x42 (.ok (.remu (n5 d) (n5 a) (n5 b)))
  else illMinor

/-- Major opcode 0x0A of S (R32). -/
def decodeMovs (d a b x fn : Nat) : Dec :=
  if fn = 0 then need (b = 0 && x = 0) 0x42 (need (a < 4) 0x44 (.ok (.movb (n5 d) (n2 a))))
  else if fn = 1 then need (b = 0 && x = 0) 0x42 (need (d < 4) 0x44 (.ok (.setb (n2 d) (n5 a))))
  else illMinor

/-- Major opcode 0x0B of S (R32). -/
def decodeMask (d a b x fn : Nat) : Dec :=
  if fn = 0 then need (b = 0 && x / 4 = 0) 0x42 (need (a < 8) 0x44 (.ok (.mget (n5 d) (n3 a) (n2 x))))
  else if fn = 1 then need (b = 0 && x / 4 = 0) 0x42 (need (d < 8) 0x44 (.ok (.mput (n3 d) (n5 a) (n2 x))))
  else illMinor

/-- Major opcode 0x1D of S (R32). -/
def decodeAmo (d a b x fn : Nat) : Dec :=
  if fn % 16 < 10 then need (a < 16 && (fn % 16 != 9 || d % 2 = 0)) 0x44 (.ok (.amo (n5 d) (n4 a) (n5 b) (n4 x) (n2 (fn / 32)) (n1 (fn / 16 % 2)) (n4 (fn % 16))))
  else illMinor

/-- Major opcode 0x1E of S (R32). -/
def decodeMemx (d a b x fn : Nat) : Dec :=
  if fn / 16 < 5 && fn / 4 % 4 = 0 then need (a < 16) 0x44 (.ok (.ldaq (n5 d) (n4 a) (n5 b) (n4 x) (n3 (fn / 16)) (n2 (fn % 4))))
  else if fn / 16 < 5 && fn / 4 % 4 = 1 then need (a < 16) 0x44 (.ok (.strl (n5 d) (n4 a) (n5 b) (n4 x) (n3 (fn / 16)) (n2 (fn % 4))))
  else if fn / 16 < 5 && fn / 4 % 4 = 2 then need (fn / 16 = 0) 0x42 (need (a < 16) 0x44 (.ok (.sts (n5 d) (n4 a) (n5 b) (n4 x) (n2 (fn % 4)))))
  else if fn / 16 < 5 && fn / 4 % 4 = 3 then need (fn / 16 = 0) 0x42 (need (a < 16) 0x44 (.ok (.stcb (n5 d) (n4 a) (n5 b) (n4 x) (n2 (fn % 4)))))
  else illMinor

/-- Major opcode 0x1F of S (R32). -/
def decodeFence (d a b x fn : Nat) : Dec :=
  if fn = 0 then need (d = 0 && b = 0) 0x42 (need (x < 5) 0x44 (.ok (.fence (n5 a) (n4 x))))
  else if fn = 1 then need (d = 0 && a = 0 && b = 0 && x = 0) 0x42 (.ok (.slwb))
  else if fn = 2 then need (d = 0 && a = 0 && b = 0 && x = 0) 0x42 (.ok (.slinv))
  else illMinor

/-- Major opcode 0x20 of S (R32). -/
def decodeCap (d a b x fn : Nat) : Dec :=
  if fn = 0 then need (b = 0 && x = 0) 0x42 (need (d < 16 && a < 16) 0x44 (.ok (.cmov (n4 d) (n4 a))))
  else if fn = 1 then need (x = 0) 0x42 (need (d < 16) 0x44 (.ok (.cjoin (n4 d) (n5 a) (n5 b))))
  else if fn = 2 then need (x = 0) 0x42 (need (d < 16 && a < 16) 0x44 (.ok (.clo (n4 d) (n4 a) (n5 b))))
  else if fn = 3 then need (x = 0) 0x42 (need (d < 16 && a < 16) 0x44 (.ok (.chi (n4 d) (n4 a) (n5 b))))
  else if fn = 4 then need (x = 0) 0x42 (need (d < 16 && a < 16) 0x44 (.ok (.cright (n4 d) (n4 a) (n5 b))))
  else if fn = 5 then need (b = 0) 0x42 (need (a < 16 && x < 4) 0x44 (.ok (.cget (n5 d) (n4 a) (n4 x))))
  else if fn = 6 then need (x = 0) 0x42 (need (a < 16) 0x44 (.ok (.cchk (n5 d) (n4 a) (n5 b))))
  else illMinor

/-- Major opcode 0x22 of S (R32). -/
def decodeBr (d a b x fn : Nat) : Dec :=
  if fn / 16 = 0 && fn % 8 < 7 then need (x = 0 && (fn / 8 % 2 = 1 || d = 0) && (fn % 8 != 0 || a = 0)) 0x42 (need (b < 4) 0x44 (.ok (.br (n5 d) (n5 a) (n2 b) (n1 (fn / 8 % 2)) (n3 (fn % 8)))))
  else illMinor

/-- Major opcode 0x23 of S (R32). -/
def decodeLoopend (d a b x fn : Nat) : Dec :=
  if fn = 0 then need (a = 0 && x = 0) 0x42 (need (b < 4) 0x44 (.ok (.loopend (n5 d) (n2 b))))
  else illMinor

/-- Major opcode 0x24 of S (R32). -/
def decodeToken (d a b x fn : Nat) : Dec :=
  if fn = 0 then need (d = 0 && a = 0 && b / 16 = 0) 0x42 (need ((b % 16 * 16 + x) != 0) 0x44 (.ok (.tksig (n8 (b % 16 * 16 + x)))))
  else if fn = 1 then need (d = 0 && b / 16 = 0) 0x42 (need ((b % 16 * 16 + x) != 0) 0x44 (.ok (.tkwait (n5 a) (n8 (b % 16 * 16 + x)))))
  else if fn = 2 then need (a = 0 && b / 16 = 0) 0x42 (need ((b % 16 * 16 + x) != 0) 0x44 (.ok (.tkiss (n5 d) (n8 (b % 16 * 16 + x)))))
  else if fn = 3 then need (a = 0 && b / 16 = 0) 0x42 (need ((b % 16 * 16 + x) != 0) 0x44 (.ok (.tkcmp (n5 d) (n8 (b % 16 * 16 + x)))))
  else illMinor

/-- Major opcode 0x25 of S (R32). -/
def decodeCntw (d a b x fn : Nat) : Dec :=
  if fn = 0 then need (x = 0) 0x42 (.ok (.cwait (n5 d) (n5 a) (n5 b)))
  else if fn = 1 then need (b = 0 && x = 0) 0x42 (.ok (.cread (n5 d) (n5 a)))
  else if fn = 2 then need (d = 0 && x = 0) 0x42 (.ok (.cwrite (n5 a) (n5 b)))
  else illMinor

/-- Major opcode 0x26 of S (R32). -/
def decodeChain (d a b x fn : Nat) : Dec :=
  if fn = 0 then need (d = 0 && b = 0 && x / 4 = 0) 0x42 (need (a < 16 && x % 4 != 0) 0x44 (.ok (.chwin (n4 a) (n2 (x % 4)))))
  else if fn = 1 then need (d = 0 && x / 4 = 0) 0x42 (need (x % 4 != 0) 0x44 (.ok (.chhead (n5 a) (n5 b) (n2 (x % 4)))))
  else if fn = 2 then need (d = 0 && b = 0 && x / 4 = 0) 0x42 (need (x % 4 != 0) 0x44 (.ok (.chtail (n5 a) (n2 (x % 4)))))
  else if fn = 3 then need (a = 0 && x / 4 = 0) 0x42 (need (x % 4 != 0 && b < 4) 0x44 (.ok (.chstat (n5 d) (n5 b) (n2 (x % 4)))))
  else if fn = 4 then need (d = 0 && a = 0 && b = 0 && x / 4 = 0) 0x42 (need (x % 4 != 0) 0x44 (.ok (.chstop (n2 (x % 4)))))
  else illMinor

/-- Major opcode 0x28 of S (R32). -/
def decodeTape (d a b x fn : Nat) : Dec :=
  if fn = 0 then need (a = 0 && b = 0 && x = 0) 0x42 (.ok (.tread (n5 d)))
  else if fn = 1 then need (d = 0 && b = 0 && x = 0) 0x42 (.ok (.tuntil (n5 a)))
  else if fn = 2 then need (d = 0 && b = 0 && x = 0) 0x42 (.ok (.tadj (n5 a)))
  else illMinor

/-- Major opcode 0x29 of S (R32). -/
def decodeRun (d a b x fn : Nat) : Dec :=
  if fn = 0 then need (d = 0 && x = 0) 0x42 (.ok (.runAt (n5 a) (n5 b)))
  else if fn = 1 then need (d = 0 && x = 0) 0x42 (.ok (.runSeam (n5 a) (n5 b)))
  else illMinor

/-- Major opcode 0x2A of S (R32). -/
def decodeSeam (d a b x fn : Nat) : Dec :=
  if fn = 0 then need (d = 0 && x = 0) 0x42 (.ok (.seam (n5 a) (n5 b)))
  else if fn = 1 then need (d = 0 && x = 0) 0x42 (.ok (.seamR (n5 a) (n5 b)))
  else illMinor

/-- Major opcode 0x2C of S (R32). -/
def decodeSys (d a b x fn : Nat) : Dec :=
  if fn = 0 then need (a = 0) 0x42 (need (selOk (b * 16 + x)) 0x44 (.ok (.srd (n5 d) (n9 (b * 16 + x)))))
  else if fn = 1 then need (d = 0) 0x42 (need (selOk (b * 16 + x)) 0x44 (.ok (.swr (n5 a) (n9 (b * 16 + x)))))
  else if fn = 2 then need (d = 0 && a = 0 && b / 4 = 0) 0x42 (.ok (.trap (n6 (b * 16 + x))))
  else if fn = 3 then need (d = 0 && a = 0 && b = 0 && x = 0) 0x42 (.ok (.tret))
  else if fn = 4 then need (d = 0 && a = 0 && b = 0 && x = 0) 0x42 (.ok (.exit))
  else illMinor

/-- Major opcode 0x2D of S (R32). -/
def decodeBank (d a b x fn : Nat) : Dec :=
  if fn = 0 then need (d = 0 && x = 0) 0x42 (.ok (.bankset (n5 a) (n5 b)))
  else if fn = 1 then need (b = 0 && x = 0) 0x42 (.ok (.bankget (n5 d) (n5 a)))
  else if fn = 2 then need (d = 0 && b = 0 && x = 0) 0x42 (.ok (.waymask (n5 a)))
  else if fn = 3 then need (d = 0 && b = 0 && x = 0) 0x42 (.ok (.csel (n5 a)))
  else if fn = 4 then need (b = 0 && x = 0) 0x42 (.ok (.cstat (n5 d) (n5 a)))
  else if fn = 5 then need (b = 0 && x = 0) 0x42 (.ok (.fstat (n5 d) (n5 a)))
  else if fn = 6 then need (d = 0 && b = 0 && x = 0) 0x42 (.ok (.freset (n5 a)))
  else illMinor

/-- Major opcode 0x2E of S (R32). -/
def decodeRegmode (d a b x fn : Nat) : Dec :=
  if fn = 0 then need (d = 0 && b = 0 && x = 0) 0x42 (.ok (.regmode (n5 a)))
  else if fn = 1 then need (a = 0 && b = 0 && x = 0) 0x42 (.ok (.regstat (n5 d)))
  else illMinor

/-- Major opcode 0x2F of S (R32). -/
def decodeView (d a b x fn : Nat) : Dec :=
  if fn = 0 then need (x = 0) 0x42 (need (d < 8 && a < 16) 0x44 (.ok (.viewld (n3 d) (n4 a) (n5 b))))
  else if fn = 1 then need (x = 0) 0x42 (need (a < 8 && b < 5) 0x44 (.ok (.viewget (n5 d) (n3 a) (n5 b))))
  else illMinor

/-- Major opcode 0x30 of S (R32). -/
def decodeAg (d a b x fn : Nat) : Dec :=
  if fn = 0 then need (x = 0) 0x42 (need (d < 8 && a < 16) 0x44 (.ok (.agset (n3 d) (n4 a) (n5 b))))
  else if fn = 1 then need (d = 0 && b = 0 && x = 0) 0x42 (.ok (.go (n5 a)))
  else if fn = 2 then need (d = 0 && b = 0 && x = 0) 0x42 (.ok (.agstop (n5 a)))
  else if fn = 3 then need (x = 0) 0x42 (need (a < 8 && b < 4) 0x44 (.ok (.agget (n5 d) (n3 a) (n5 b))))
  else illMinor

/-- Major opcode 0x31 of S (R32). -/
def decodeGath (d a b x fn : Nat) : Dec :=
  if fn = 0 then need (d = 0 && x = 0) 0x42 (need (a < 16) 0x44 (.ok (.gset (n4 a) (n5 b))))
  else if fn = 1 then need (d < 8 && a < 8 && x < 8) 0x44 (.ok (.ggo (n3 d) (n3 a) (n5 b) (n3 x)))
  else if fn = 2 then need (a = 0 && b = 0 && x = 0) 0x42 (.ok (.gstat (n5 d)))
  else illMinor

/-- Major opcode 0x32 of S (R32). -/
def decodeBolt (d a b x fn : Nat) : Dec :=
  if fn = 0 then need (b = 0 && x = 0) 0x42 (need (d < 16) 0x44 (.ok (.boltnew (n4 d) (n5 a))))
  else if fn = 1 then need (x = 0) 0x42 (need (d < 16 && a < 16) 0x44 (.ok (.boltgrow (n4 d) (n4 a) (n5 b))))
  else if fn = 2 then need (d = 0 && b = 0 && x = 0) 0x42 (need (a < 16) 0x44 (.ok (.cut (n4 a))))
  else illMinor

/-- The decoder of S words (R31 to R33). -/
def decodeS (w : Nat) : Dec :=
  let op := bitsOf w 26 6
  let d := bitsOf w 21 5
  let a := bitsOf w 16 5
  let b := bitsOf w 11 5
  let x := bitsOf w 7 4
  let fn := bitsOf w 0 7
  let imm := bitsOf w 0 16
  let mc := bitsOf w 17 4
  let mk := bitsOf w 13 4
  let mo := bitsOf w 0 13
  let jk := bitsOf w 24 2
  let imm24 := bitsOf w 0 24
  if op = 63 then decodeCtl w
  else
  if op / 8 = 0 then
    if op = 0 then decodeAlu d a b x fn
    else if op = 1 then .ok (.addi (n5 d) (n5 a) (n16 imm))
    else if op = 2 then .ok (.andi (n5 d) (n5 a) (n16 imm))
    else if op = 3 then .ok (.ori (n5 d) (n5 a) (n16 imm))
    else if op = 4 then .ok (.xori (n5 d) (n5 a) (n16 imm))
    else if op = 5 then need (imm / 256 = 0) 0x42 (.ok (.shi (n5 d) (n5 a) (n2 (imm / 64 % 4)) (n6 (imm % 64))))
    else if op = 6 then need (a / 4 = 0) 0x42 (.ok (.lui (n5 d) (n2 a) (n16 imm)))
    else if op = 7 then .ok (.slti (n5 d) (n5 a) (n16 imm))
    else illMajor
  else if op / 8 = 1 then
    if op = 8 then decodeMuldiv d a b x fn
    else if op = 9 then need (x = 0) 0x42 (.ok (.sel (n5 d) (n5 a) (n5 b) (n2 (fn / 32)) (n5 (fn % 32))))
    else if op = 10 then decodeMovs d a b x fn
    else if op = 11 then decodeMask d a b x fn
    else illMajor
  else if op / 8 = 2 then
    if op = 16 then .ok (.ldb (n5 d) (n4 mc) (n4 mk) (n13 mo))
    else if op = 17 then .ok (.ldh (n5 d) (n4 mc) (n4 mk) (n13 mo))
    else if op = 18 then .ok (.ldw (n5 d) (n4 mc) (n4 mk) (n13 mo))
    else if op = 19 then .ok (.ldd (n5 d) (n4 mc) (n4 mk) (n13 mo))
    else if op = 20 then .ok (.stb (n5 d) (n4 mc) (n4 mk) (n13 mo))
    else if op = 21 then .ok (.sth (n5 d) (n4 mc) (n4 mk) (n13 mo))
    else if op = 22 then .ok (.stw (n5 d) (n4 mc) (n4 mk) (n13 mo))
    else if op = 23 then .ok (.std (n5 d) (n4 mc) (n4 mk) (n13 mo))
    else illMajor
  else if op / 8 = 3 then
    if op = 24 then .ok (.ldbn (n5 d) (n4 mc) (n4 mk) (n13 mo))
    else if op = 25 then .ok (.ldhn (n5 d) (n4 mc) (n4 mk) (n13 mo))
    else if op = 26 then .ok (.ldwn (n5 d) (n4 mc) (n4 mk) (n13 mo))
    else if op = 27 then need (d < 16) 0x44 (.ok (.ldc (n4 d) (n4 mc) (n4 mk) (n13 mo)))
    else if op = 28 then need (d < 16) 0x44 (.ok (.stc (n4 d) (n4 mc) (n4 mk) (n13 mo)))
    else if op = 29 then decodeAmo d a b x fn
    else if op = 30 then decodeMemx d a b x fn
    else if op = 31 then decodeFence d a b x fn
    else illMajor
  else if op / 8 = 4 then
    if op = 32 then decodeCap d a b x fn
    else if op = 33 then .ok (.pbr (n2 jk) (n24 imm24))
    else if op = 34 then decodeBr d a b x fn
    else if op = 35 then decodeLoopend d a b x fn
    else if op = 36 then decodeToken d a b x fn
    else if op = 37 then decodeCntw d a b x fn
    else if op = 38 then decodeChain d a b x fn
    else illMajor
  else if op / 8 = 5 then
    if op = 40 then decodeTape d a b x fn
    else if op = 41 then decodeRun d a b x fn
    else if op = 42 then decodeSeam d a b x fn
    else if op = 43 then need (d = 0 && a = 0) 0x42 (.ok (.safe (n16 imm)))
    else if op = 44 then decodeSys d a b x fn
    else if op = 45 then decodeBank d a b x fn
    else if op = 46 then decodeRegmode d a b x fn
    else if op = 47 then decodeView d a b x fn
    else illMajor
  else if op / 8 = 6 then
    if op = 48 then decodeAg d a b x fn
    else if op = 49 then decodeGath d a b x fn
    else if op = 50 then decodeBolt d a b x fn
    else illMajor
  else illMajor

/-- The decoder of V words (R34 to R37, R265, R271). -/
def decodeV (w : Nat) : Dec :=
  let op := bitsOf w 26 6
  let t := bitsOf w 22 4
  let m := bitsOf w 19 3
  let d := bitsOf w 13 6
  let a := bitsOf w 7 6
  let b := bitsOf w 1 6
  let pa := bitsOf w 0 1
  if op = 63 then decodeCtl w
  else
  if op / 8 = 0 then
    if op = 0 then need (tyIF t) 0x43 (need ((pa = 0 || a < 6)) 0x44 (.ok (.vadd (n4 t) (n3 m) (n6 d) (n6 a) (n6 b) (n1 pa))))
    else if op = 1 then need (tyIF t) 0x43 (need ((pa = 0 || a < 6)) 0x44 (.ok (.vsub (n4 t) (n3 m) (n6 d) (n6 a) (n6 b) (n1 pa))))
    else if op = 2 then need (tyIF t) 0x43 (need ((pa = 0 || a < 6)) 0x44 (.ok (.vmul (n4 t) (n3 m) (n6 d) (n6 a) (n6 b) (n1 pa))))
    else if op = 3 then need (tyIF t) 0x43 (need ((pa = 0 || a < 6)) 0x44 (.ok (.vfma (n4 t) (n3 m) (n6 d) (n6 a) (n6 b) (n1 pa))))
    else if op = 4 then need (tyIF t) 0x43 (need ((pa = 0 || a < 6)) 0x44 (.ok (.vfms (n4 t) (n3 m) (n6 d) (n6 a) (n6 b) (n1 pa))))
    else if op = 5 then need (tyIF t) 0x43 (need ((pa = 0 || a < 6)) 0x44 (.ok (.vfnma (n4 t) (n3 m) (n6 d) (n6 a) (n6 b) (n1 pa))))
    else if op = 6 then need (tyIF t) 0x43 (need ((pa = 0 || a < 6)) 0x44 (.ok (.vmin (n4 t) (n3 m) (n6 d) (n6 a) (n6 b) (n1 pa))))
    else if op = 7 then need (tyIF t) 0x43 (need ((pa = 0 || a < 6)) 0x44 (.ok (.vmax (n4 t) (n3 m) (n6 d) (n6 a) (n6 b) (n1 pa))))
    else illMajor
  else if op / 8 = 1 then
    if op = 8 then need (b = 0) 0x42 (need (tyIF t) 0x43 (need ((pa = 0 || a < 6)) 0x44 (.ok (.vabs (n4 t) (n3 m) (n6 d) (n6 a) (n1 pa)))))
    else if op = 9 then need (b = 0) 0x42 (need (tySIF t) 0x43 (need ((pa = 0 || a < 6)) 0x44 (.ok (.vneg (n4 t) (n3 m) (n6 d) (n6 a) (n1 pa)))))
    else if op = 10 then need (tyF2 t) 0x43 (need ((pa = 0 || a < 6)) 0x44 (.ok (.vdiv (n4 t) (n3 m) (n6 d) (n6 a) (n6 b) (n1 pa))))
    else if op = 11 then need (b = 0) 0x42 (need (tyF2 t) 0x43 (need ((pa = 0 || a < 6)) 0x44 (.ok (.vsqrt (n4 t) (n3 m) (n6 d) (n6 a) (n1 pa)))))
    else if op = 12 then need (b = 0) 0x42 (need (tyF2 t) 0x43 (need ((pa = 0 || a < 6)) 0x44 (.ok (.vrcpe (n4 t) (n3 m) (n6 d) (n6 a) (n1 pa)))))
    else if op = 13 then need (b = 0) 0x42 (need (tyF2 t) 0x43 (need ((pa = 0 || a < 6)) 0x44 (.ok (.vrsqe (n4 t) (n3 m) (n6 d) (n6 a) (n1 pa)))))
    else if op = 14 then need (b = 0) 0x42 (need (t = 9) 0x43 (need ((pa = 0 || a < 6)) 0x44 (.ok (.vexp2 (n3 m) (n6 d) (n6 a) (n1 pa)))))
    else if op = 15 then need (b = 0) 0x42 (need (t = 9) 0x43 (need ((pa = 0 || a < 6)) 0x44 (.ok (.vlog2 (n3 m) (n6 d) (n6 a) (n1 pa)))))
    else illMajor
  else if op / 8 = 2 then
    if op = 16 then need (tyA t) 0x43 (need ((pa = 0 || a < 6)) 0x44 (.ok (.vand (n4 t) (n3 m) (n6 d) (n6 a) (n6 b) (n1 pa))))
    else if op = 17 then need (tyA t) 0x43 (need ((pa = 0 || a < 6)) 0x44 (.ok (.vor (n4 t) (n3 m) (n6 d) (n6 a) (n6 b) (n1 pa))))
    else if op = 18 then need (tyA t) 0x43 (need ((pa = 0 || a < 6)) 0x44 (.ok (.vxor (n4 t) (n3 m) (n6 d) (n6 a) (n6 b) (n1 pa))))
    else if op = 19 then need (tyA t) 0x43 (need ((pa = 0 || a < 6)) 0x44 (.ok (.vandn (n4 t) (n3 m) (n6 d) (n6 a) (n6 b) (n1 pa))))
    else if op = 20 then need (tyI t) 0x43 (need ((pa = 0 || a < 6)) 0x44 (.ok (.vshl (n4 t) (n3 m) (n6 d) (n6 a) (n6 b) (n1 pa))))
    else if op = 21 then need (tyI t) 0x43 (need ((pa = 0 || a < 6)) 0x44 (.ok (.vshr (n4 t) (n3 m) (n6 d) (n6 a) (n6 b) (n1 pa))))
    else if op = 22 then need (tyI t) 0x43 (need ((pa = 0 || a < 6)) 0x44 (.ok (.vsra (n4 t) (n3 m) (n6 d) (n6 a) (n6 b) (n1 pa))))
    else if op = 23 then need (b = 0) 0x42 (need (tyI t) 0x43 (need ((pa = 0 || a < 6)) 0x44 (.ok (.vclz (n4 t) (n3 m) (n6 d) (n6 a) (n1 pa)))))
    else illMajor
  else if op / 8 = 3 then
    if op = 24 then need (tyI t) 0x43 (need ((pa = 0 || a < 6)) 0x44 (.ok (.vadds (n4 t) (n3 m) (n6 d) (n6 a) (n6 b) (n1 pa))))
    else if op = 25 then need (tyI t) 0x43 (need ((pa = 0 || a < 6)) 0x44 (.ok (.vsubs (n4 t) (n3 m) (n6 d) (n6 a) (n6 b) (n1 pa))))
    else if op = 26 then need (tyI t) 0x43 (need ((pa = 0 || a < 6)) 0x44 (.ok (.vmulhi (n4 t) (n3 m) (n6 d) (n6 a) (n6 b) (n1 pa))))
    else if op = 27 then need (tyIF t) 0x43 (need ((pa = 0 || a < 6)) 0x44 (.ok (.vabd (n4 t) (n3 m) (n6 d) (n6 a) (n6 b) (n1 pa))))
    else if op = 28 then need (tyI t) 0x43 (need ((pa = 0 || a < 6)) 0x44 (.ok (.vrshr (n4 t) (n3 m) (n6 d) (n6 a) (n6 b) (n1 pa))))
    else if op = 29 then need (tyIF t) 0x43 (need ((pa = 0 || a < 6)) 0x44 (.ok (.vclamp (n4 t) (n3 m) (n6 d) (n6 a) (n6 b) (n1 pa))))
    else if op = 30 then need (tyA t) 0x43 (need ((pa = 0 || a < 6)) 0x44 (.ok (.vsel (n4 t) (n3 m) (n6 d) (n6 a) (n6 b) (n1 pa))))
    else if op = 31 then need (b = 0) 0x42 (need (tyA t) 0x43 (need ((pa = 0 || a < 6)) 0x44 (.ok (.vmov (n4 t) (n3 m) (n6 d) (n6 a) (n1 pa)))))
    else illMajor
  else if op / 8 = 4 then
    if op = 32 then need (tyIFK t) 0x43 (need (d < 8 && (pa = 0 || a < 6)) 0x44 (.ok (.vceq (n4 t) (n3 m) (n3 d) (n6 a) (n6 b) (n1 pa))))
    else if op = 33 then need (tyIFK t) 0x43 (need (d < 8 && (pa = 0 || a < 6)) 0x44 (.ok (.vcne (n4 t) (n3 m) (n3 d) (n6 a) (n6 b) (n1 pa))))
    else if op = 34 then need (tyIFK t) 0x43 (need (d < 8 && (pa = 0 || a < 6)) 0x44 (.ok (.vclt (n4 t) (n3 m) (n3 d) (n6 a) (n6 b) (n1 pa))))
    else if op = 35 then need (tyIFK t) 0x43 (need (d < 8 && (pa = 0 || a < 6)) 0x44 (.ok (.vcle (n4 t) (n3 m) (n3 d) (n6 a) (n6 b) (n1 pa))))
    else if op = 36 then need (tyFK t) 0x43 (need (d < 8 && (pa = 0 || a < 6)) 0x44 (.ok (.vcun (n4 t) (n3 m) (n3 d) (n6 a) (n6 b) (n1 pa))))
    else if op = 37 then need (m = 0) 0x42 (need (t = 0) 0x43 (need (d < 8 && a < 8 && pa = 0 && b < 8) 0x44 (.ok (.vmand (n3 d) (n3 a) (n3 b)))))
    else if op = 38 then need (m = 0) 0x42 (need (t = 0) 0x43 (need (d < 8 && a < 8 && pa = 0 && b < 8) 0x44 (.ok (.vmor (n3 d) (n3 a) (n3 b)))))
    else if op = 39 then need (m = 0) 0x42 (need (t = 0) 0x43 (need (d < 8 && a < 8 && pa = 0 && b < 8) 0x44 (.ok (.vmxor (n3 d) (n3 a) (n3 b)))))
    else illMajor
  else if op / 8 = 5 then
    if op = 40 then need (tyA t && tyA (b % 16) && cvtRatio (b % 16) t < 8) 0x43 (need ((pa = 0 || a < 6) && b / 16 < cvtRatio (b % 16) t) 0x44 (.ok (.vcvt (n4 t) (n3 m) (n6 d) (n6 a) (n2 (b / 16)) (n4 (b % 16)) (n1 pa))))
    else if op = 41 then need (tyPack t) 0x43 (need ((pa = 0 || a < 6)) 0x44 (.ok (.vpack (n4 t) (n3 m) (n6 d) (n6 a) (n6 b) (n1 pa))))
    else if op = 42 then need (b / 2 = 0) 0x42 (need (tyUnpk t) 0x43 (need ((pa = 0 || a < 6)) 0x44 (.ok (.vunpk (n4 t) (n3 m) (n6 d) (n6 a) (n1 b) (n1 pa)))))
    else if op = 43 then need (m = 0 && b = 0) 0x42 (need (tyKt t) 0x43 (need (pa = 0 && a % 8 < 7) 0x44 (.ok (.qblk (n4 t) (n6 d) (n6 a)))))
    else if op = 44 then need (a = 0 && pa = 0) 0x42 (need (tyA t) 0x43 (need (b < 32) 0x44 (.ok (.vbcast (n4 t) (n3 m) (n6 d) (n5 b)))))
    else if op = 45 then need (a = 0 && pa = 0 && b = 0) 0x42 (need (tyI t) 0x43 (.ok (.vlane (n4 t) (n3 m) (n6 d))))
    else if op = 46 then need (tyA t) 0x43 (need ((pa = 0 || a < 6)) 0x44 (.ok (.vperm (n4 t) (n3 m) (n6 d) (n6 a) (n6 b) (n1 pa))))
    else if op = 47 then need (tyA t) 0x43 (need ((pa = 0 || a < 6) && b < 32) 0x44 (.ok (.vslide (n4 t) (n3 m) (n6 d) (n6 a) (n5 b) (n1 pa))))
    else illMajor
  else if op / 8 = 6 then
    if op = 48 then need (b = 0) 0x42 (need (tyIFK t) 0x43 (need ((pa = 0 || a < 6)) 0x44 (.ok (.vrsum (n4 t) (n3 m) (n6 d) (n6 a) (n1 pa)))))
    else if op = 49 then need (b = 0) 0x42 (need (tyA t) 0x43 (need ((pa = 0 || a < 6)) 0x44 (.ok (.vrmax (n4 t) (n3 m) (n6 d) (n6 a) (n1 pa)))))
    else if op = 50 then need (b = 0) 0x42 (need (tyA t) 0x43 (need ((pa = 0 || a < 6)) 0x44 (.ok (.vrmin (n4 t) (n3 m) (n6 d) (n6 a) (n1 pa)))))
    else if op = 51 then need (tyIFK t) 0x43 (need ((pa = 0 || a < 6)) 0x44 (.ok (.vrdot (n4 t) (n3 m) (n6 d) (n6 a) (n6 b) (n1 pa))))
    else if op = 52 then need (b = 0) 0x42 (need (tyA t) 0x43 (need ((pa = 0 || a < 6)) 0x44 (.ok (.vrev (n4 t) (n3 m) (n6 d) (n6 a) (n1 pa)))))
    else if op = 53 then need (tyA t) 0x43 (need ((pa = 0 || a < 6)) 0x44 (.ok (.vzip (n4 t) (n3 m) (n6 d) (n6 a) (n6 b) (n1 pa))))
    else if op = 54 then need (tyA t) 0x43 (need ((pa = 0 || a < 6)) 0x44 (.ok (.vunzip (n4 t) (n3 m) (n6 d) (n6 a) (n6 b) (n1 pa))))
    else if op = 55 then need (tyA t) 0x43 (need ((pa = 0 || a < 6)) 0x44 (.ok (.vshuf (n4 t) (n3 m) (n6 d) (n6 a) (n6 b) (n1 pa))))
    else illMajor
  else if op / 8 = 7 then
    if op = 56 then need (d / 4 = 0 && b = 0) 0x42 (need (tyA t) 0x43 (need (pa = 0) 0x44 (.ok (.defer (n4 t) (n3 m) (n2 d) (n6 a)))))
    else if op = 57 then need (m = 0 && b / 8 = 0) 0x42 (need (tyA t) 0x43 (need (a < 8 && pa = 0) 0x44 (.ok (.drain (n4 t) (n6 d) (n3 a) (n1 (b / 4)) (n2 (b % 4))))))
    else if op = 58 then need (m = 0 && a = 0 && pa = 0 && b / 4 = 0) 0x42 (need (t = 7) 0x43 (.ok (.vdqcnt (n6 d) (n2 b))))
    else illMajor
  else illMajor

/-- The decoder of M words (R38, R39, R257). -/
def decodeM (w : Nat) : Dec :=
  let op := bitsOf w 27 5
  let st := bitsOf w 25 2
  let w_ := w
  let w := bitsOf w_ 22 3
  let p := bitsOf w_ 19 3
  let t := bitsOf w_ 16 3
  let i := bitsOf w_ 0 16
  if bitsOf w_ 26 6 = 63 then decodeCtl w_
  else
  if op / 8 = 0 then
    if op = 0 then need (st = 0 && w = 0 && i / 2 = 0) 0x42 (need (t < 7) 0x43 (need (p < 6) 0x44 (.ok (.mldw (n3 p) (n3 t) (n1 i)))))
    else if op = 1 then need (st = 0 && w = 0 && i / 8 = 0) 0x42 (need (t < 4) 0x43 (need (p < 6) 0x44 (.ok (.mldwBd (n3 p) (n3 t) (n1 (i / 4)) (n1 (i / 2 % 2)) (n1 (i % 2))))))
    else if op = 2 then need (st = 0 && w = 0 && i / 2 = 0) 0x42 (need ((t = 4 || t = 5)) 0x43 (need (p < 6) 0x44 (.ok (.mldb (n3 p) (n3 t) (n1 i)))))
    else if op = 3 then need (st = 0 && w = 0 && p = 0 && i / 2 = 0) 0x42 (need (t < 7) 0x43 (.ok (.mwclr (n3 t) (n1 i))))
    else illMajor
  else if op / 8 = 1 then
    if op = 8 then need (t < 7 && profTy i t) 0x43 (need (p < 6) 0x44 (need (profOk i) 0x46 (.ok (.mmul (n2 st) (n3 w) (n3 p) (n3 t) (n16 i)))))
    else if op = 9 then need (t < 7 && profTy i t) 0x43 (need (p < 6) 0x44 (need (profOk i) 0x46 (.ok (.macc (n2 st) (n3 w) (n3 p) (n3 t) (n16 i)))))
    else if op = 10 then need (t < 7 && profTy i t) 0x43 (need (p < 6) 0x44 (need (profOk i) 0x46 (.ok (.maccn (n2 st) (n3 w) (n3 p) (n3 t) (n16 i)))))
    else if op = 11 then need (t < 7 && profTy i t) 0x43 (need (p < 2) 0x44 (need (profOk i) 0x46 (.ok (.mmulg (n2 st) (n3 w) (n3 p) (n3 t) (n16 i)))))
    else if op = 12 then need (t < 7 && profTy i t) 0x43 (need (p < 2) 0x44 (need (profOk i) 0x46 (.ok (.maccg (n2 st) (n3 w) (n3 p) (n3 t) (n16 i)))))
    else illMajor
  else if op / 8 = 2 then
    if op = 16 then need (st = 0) 0x42 (need (t < 7) 0x43 (need (5 < p) 0x44 (need (profOk i) 0x46 (.ok (.mdrn (n3 w) (n3 p) (n3 t) (n16 i))))))
    else if op = 17 then need (st = 0) 0x42 (need (t < 7) 0x43 (need (5 < p) 0x44 (need (profOk i) 0x46 (.ok (.mdrnc (n3 w) (n3 p) (n3 t) (n16 i))))))
    else if op = 18 then need (t < 7) 0x43 (need (5 < p) 0x44 (need (profOk i) 0x46 (.ok (.mdrnr (n2 st) (n3 w) (n3 p) (n3 t) (n16 i)))))
    else if op = 19 then need (st = 0 && p = 0 && t = 0 && i = 0) 0x42 (.ok (.mclr (n3 w)))
    else if op = 20 then need (w = 0 && p = 0 && t = 0 && i / 256 = 0) 0x42 (.ok (.msfmt (n2 st) (n6 (i / 4)) (n1 (i / 2 % 2)) (n1 (i % 2))))
    else if op = 21 then need (st = 0 && w = 0 && t = 0 && i = 0) 0x42 (need (5 < p) 0x44 (.ok (.mstat (n3 p))))
    else illMajor
  else illMajor

/-- The decoder of C words (R40, R41, R123). -/
def decodeC (w : Nat) : Dec :=
  let op := bitsOf w 26 6
  let cd := bitsOf w 22 4
  let ca := bitsOf w 18 4
  let rc := bitsOf w 14 4
  let cl := bitsOf w 10 4
  let s1 := bitsOf w 5 5
  let s0 := bitsOf w 0 5
  if op = 63 then decodeCtl w
  else
  if op / 8 = 0 then
    if op = 0 then .ok (.ccpy (n4 cd) (n4 ca) (n4 rc) (n4 cl) (n5 s1) (n5 s0))
    else if op = 1 then .ok (.ccpyt (n4 cd) (n4 ca) (n4 rc) (n4 cl) (n5 s1) (n5 s0))
    else if op = 2 then need (s0 % 2 = 0) 0x44 (.ok (.cgath (n4 cd) (n4 ca) (n4 rc) (n4 cl) (n5 s1) (n5 s0)))
    else if op = 3 then need (s1 % 2 = 0) 0x44 (.ok (.cscat (n4 cd) (n4 ca) (n4 rc) (n4 cl) (n5 s1) (n5 s0)))
    else if op = 4 then need (ca = 0) 0x42 (.ok (.cfill (n4 cd) (n4 rc) (n4 cl) (n5 s1) (n5 s0)))
    else if op = 5 then need (cd = 0 && cl = 0 && s1 = 0) 0x42 (.ok (.cldrec (n4 ca) (n4 rc) (n5 s0)))
    else if op = 6 then need (cd = 0 && ca = 0 && cl = 0 && s1 = 0 && s0 / 2 = 0) 0x42 (.ok (.rcfence (n4 rc) (n1 s0)))
    else if op = 7 then need (cd = 0 && rc = 0 && cl = 0) 0x42 (.ok (.migrate (n4 ca) (n5 s1) (n5 s0)))
    else illMajor
  else if op / 8 = 1 then
    if op = 8 then need (s1 % 2 = 0) 0x44 (.ok (.put (n4 cd) (n4 ca) (n4 rc) (n4 cl) (n5 s1) (n5 s0)))
    else if op = 9 then need (s1 % 2 = 0) 0x44 (.ok (.putred (n4 cd) (n4 ca) (n4 rc) (n4 cl) (n5 s1) (n5 s0)))
    else if op = 10 then need (s0 % 2 = 0) 0x44 (.ok (.get (n4 cd) (n4 ca) (n4 rc) (n4 cl) (n5 s1) (n5 s0)))
    else if op = 11 then need (cd = 0 && ca = 0 && rc = 0 && cl = 0) 0x42 (.ok (.carm (n5 s1) (n5 s0)))
    else if op = 12 then need (cd = 0 && ca = 0 && rc = 0 && cl = 0) 0x42 (.ok (.craise (n5 s1) (n5 s0)))
    else if op = 13 then need (cd = 0 && rc = 0 && cl = 0) 0x42 (.ok (.shsend (n4 ca) (n5 s1) (n5 s0)))
    else if op = 14 then need (cd = 0 && cl = 0 && s1 = 0) 0x42 (.ok (.cpref (n4 ca) (n4 rc) (n5 s0)))
    else illMajor
  else if op / 8 = 2 then
    if op = 16 then need (cd = 0) 0x42 (.ok (.ccpyr (n4 ca) (n4 rc) (n4 cl) (n5 s1) (n5 s0)))
    else if op = 17 then need (cd = 0) 0x42 (.ok (.ccpyrt (n4 ca) (n4 rc) (n4 cl) (n5 s1) (n5 s0)))
    else if op = 18 then need (s0 % 2 = 0) 0x44 (.ok (.cgatht (n4 cd) (n4 ca) (n4 rc) (n4 cl) (n5 s1) (n5 s0)))
    else if op = 19 then need (s1 % 2 = 0) 0x44 (.ok (.cscatt (n4 cd) (n4 ca) (n4 rc) (n4 cl) (n5 s1) (n5 s0)))
    else if op = 20 then .ok (.cxpose (n4 cd) (n4 ca) (n4 rc) (n4 cl) (n5 s1) (n5 s0))
    else if op = 21 then .ok (.ccvt (n4 cd) (n4 ca) (n4 rc) (n4 cl) (n5 s1) (n5 s0))
    else if op = 22 then need (cd = 0 && cl = 0 && s1 = 0) 0x42 (.ok (.cflush (n4 ca) (n4 rc) (n5 s0)))
    else if op = 23 then need (cd = 0 && cl = 0 && s1 = 0) 0x42 (.ok (.cinval (n4 ca) (n4 rc) (n5 s0)))
    else illMajor
  else if op / 8 = 3 then
    if op = 24 then need (ca = 0 && rc = 0) 0x42 (.ok (.cwrw (n4 cd) (n4 cl) (n5 s1) (n5 s0)))
    else if op = 25 then need (ca = 0) 0x42 (need (rc < 8) 0x44 (.ok (.catom (n4 cd) (n4 rc) (n4 cl) (n5 s1) (n5 s0))))
    else illMajor
  else illMajor

/-- The decoder of shuttle words (R45, R46): SH_ILLEGAL for every other word. -/
def decodeSh (w : Nat) : Dec :=
  let op := bitsOf w 11 5
  let r := bitsOf w 0 11
  if op / 8 = 0 then
    if op = 0 then need (r = 0) 0x49 (.ok (.shNop))
    else if op = 1 then need (true) 0x49 (.ok (.shPushi (n11 r)))
    else if op = 2 then need (r < 4) 0x49 (.ok (.shPushg (n2 r)))
    else if op = 3 then need (r < 4) 0x49 (.ok (.shPopg (n2 r)))
    else if op = 4 then need (r = 0) 0x49 (.ok (.shDup))
    else if op = 5 then need (r = 0) 0x49 (.ok (.shDrop))
    else if op = 6 then need (r = 0) 0x49 (.ok (.shSwap))
    else .error 0x49
  else if op / 8 = 1 then
    if op = 8 then need (r = 0) 0x49 (.ok (.shAdd))
    else if op = 9 then need (r = 0) 0x49 (.ok (.shSub))
    else if op = 10 then need (r = 0) 0x49 (.ok (.shAnd))
    else if op = 11 then need (r = 0) 0x49 (.ok (.shOr))
    else if op = 12 then need (r = 0) 0x49 (.ok (.shXor))
    else if op = 13 then need (r < 64) 0x49 (.ok (.shShl (n6 r)))
    else if op = 14 then need (r < 64) 0x49 (.ok (.shShr (n6 r)))
    else if op = 15 then need (r = 0) 0x49 (.ok (.shClt))
    else .error 0x49
  else if op / 8 = 2 then
    if op = 16 then need (r = 0) 0x49 (.ok (.shCeq))
    else if op = 17 then need ((r != 0 && r < 16)) 0x49 (.ok (.shSkz (n4 r)))
    else if op = 18 then need ((r != 0 && r < 16)) 0x49 (.ok (.shSknz (n4 r)))
    else if op = 19 then need ((r != 0 && r < 16)) 0x49 (.ok (.shSkip (n4 r)))
    else if op = 20 then need (r = 0) 0x49 (.ok (.shHops))
    else if op = 21 then need (r = 0) 0x49 (.ok (.shHere))
    else if op = 22 then need (r < 6) 0x49 (.ok (.shLload (n3 r)))
    else if op = 23 then need (r = 0) 0x49 (.ok (.shRdc))
    else .error 0x49
  else if op / 8 = 3 then
    if op = 24 then need (r < 4) 0x49 (.ok (.shRdw (n2 r)))
    else if op = 25 then need (r < 4) 0x49 (.ok (.shAddw (n2 r)))
    else if op = 26 then need ((r < 8 && r != 6)) 0x49 (.ok (.shClone (n3 r)))
    else if op = 27 then need ((r < 8 && r != 6)) 0x49 (.ok (.shDir (n3 r)))
    else if op = 28 then need (r = 0) 0x49 (.ok (.shFwd))
    else if op = 29 then need (r = 0) 0x49 (.ok (.shDlv))
    else if op = 30 then need (r = 0) 0x49 (.ok (.shKill))
    else .error 0x49
  else .error 0x49

/-- The decoder of an engine (R27): S, V, M or C. -/
def decodeFor (e : Engine) (w : Nat) : Dec :=
  match e with
  | .s => decodeS w
  | .v => decodeV w
  | .m => decodeM w
  | .c => decodeC w

/-- An S.R word (R31). -/
def srWord (op d a b x fn : Nat) : Nat := op * 2 ^ 26 + d * 2 ^ 21 + a * 2 ^ 16 + b * 2 ^ 11 + x * 2 ^ 7 + fn
/-- An S.I word (R31). -/
def siWord (op d a i : Nat) : Nat := op * 2 ^ 26 + d * 2 ^ 21 + a * 2 ^ 16 + i
/-- An S.M word (R31). -/
def smWord (op d c k o : Nat) : Nat := op * 2 ^ 26 + d * 2 ^ 21 + c * 2 ^ 17 + k * 2 ^ 13 + o
/-- An S.J word (R31). -/
def sjWord (op k i : Nat) : Nat := op * 2 ^ 26 + k * 2 ^ 24 + i
/-- A V word (R34). -/
def vWord (op t m d a b p : Nat) : Nat :=
  op * 2 ^ 26 + t * 2 ^ 22 + m * 2 ^ 19 + d * 2 ^ 13 + a * 2 ^ 7 + b * 2 + p
/-- An M word (R38). -/
def mWord (op st w p t i : Nat) : Nat := op * 2 ^ 27 + st * 2 ^ 25 + w * 2 ^ 22 + p * 2 ^ 19 + t * 2 ^ 16 + i
/-- A C word (R40). -/
def cWord (op cd ca rc cl s1 s0 : Nat) : Nat :=
  op * 2 ^ 26 + cd * 2 ^ 22 + ca * 2 ^ 18 + rc * 2 ^ 14 + cl * 2 ^ 10 + s1 * 2 ^ 5 + s0

/-- The word of an instruction; 0 for an event, which has none. -/
def encode : Instr → Nat
  | .add d a b => srWord 0 d.toNat a.toNat b.toNat 0 0
  | .sub d a b => srWord 0 d.toNat a.toNat b.toNat 0 1
  | .and d a b => srWord 0 d.toNat a.toNat b.toNat 0 2
  | .or d a b => srWord 0 d.toNat a.toNat b.toNat 0 3
  | .xor d a b => srWord 0 d.toNat a.toNat b.toNat 0 4
  | .andn d a b => srWord 0 d.toNat a.toNat b.toNat 0 5
  | .shl d a b => srWord 0 d.toNat a.toNat b.toNat 0 6
  | .shr d a b => srWord 0 d.toNat a.toNat b.toNat 0 7
  | .sra d a b => srWord 0 d.toNat a.toNat b.toNat 0 8
  | .ror d a b => srWord 0 d.toNat a.toNat b.toNat 0 9
  | .slt d a b => srWord 0 d.toNat a.toNat b.toNat 0 10
  | .sltu d a b => srWord 0 d.toNat a.toNat b.toNat 0 11
  | .min d a b => srWord 0 d.toNat a.toNat b.toNat 0 12
  | .max d a b => srWord 0 d.toNat a.toNat b.toNat 0 13
  | .minu d a b => srWord 0 d.toNat a.toNat b.toNat 0 14
  | .maxu d a b => srWord 0 d.toNat a.toNat b.toNat 0 15
  | .adds d a b => srWord 0 d.toNat a.toNat b.toNat 0 16
  | .subs d a b => srWord 0 d.toNat a.toNat b.toNat 0 17
  | .clz d a => srWord 0 d.toNat a.toNat 0 0 18
  | .popc d a => srWord 0 d.toNat a.toNat 0 0 19
  | .sextb d a => srWord 0 d.toNat a.toNat 0 0 20
  | .sexth d a => srWord 0 d.toNat a.toNat 0 0 21
  | .sextw d a => srWord 0 d.toNat a.toNat 0 0 22
  | .addi d a i => siWord 1 d.toNat a.toNat i.toNat
  | .andi d a i => siWord 2 d.toNat a.toNat i.toNat
  | .ori d a i => siWord 3 d.toNat a.toNat i.toNat
  | .xori d a i => siWord 4 d.toNat a.toNat i.toNat
  | .shi d a k n => siWord 5 d.toNat a.toNat (k.toNat * 64 + n.toNat)
  | .lui d q i => siWord 6 d.toNat q.toNat i.toNat
  | .slti d a i => siWord 7 d.toNat a.toNat i.toNat
  | .mul d a b => srWord 8 d.toNat a.toNat b.toNat 0 0
  | .mulh d a b => srWord 8 d.toNat a.toNat b.toNat 0 1
  | .mulhu d a b => srWord 8 d.toNat a.toNat b.toNat 0 2
  | .div d a b => srWord 8 d.toNat a.toNat b.toNat 0 3
  | .divu d a b => srWord 8 d.toNat a.toNat b.toNat 0 4
  | .rem d a b => srWord 8 d.toNat a.toNat b.toNat 0 5
  | .remu d a b => srWord 8 d.toNat a.toNat b.toNat 0 6
  | .sel d a b k c => srWord 9 d.toNat a.toNat b.toNat 0 (k.toNat * 32 + c.toNat)
  | .movb d a => srWord 10 d.toNat a.toNat 0 0 0
  | .setb d a => srWord 10 d.toNat a.toNat 0 0 1
  | .mget d a q => srWord 11 d.toNat a.toNat 0 q.toNat 0
  | .mput d a q => srWord 11 d.toNat a.toNat 0 q.toNat 1
  | .ldb d c s o => smWord 16 d.toNat c.toNat s.toNat o.toNat
  | .ldh d c s o => smWord 17 d.toNat c.toNat s.toNat o.toNat
  | .ldw d c s o => smWord 18 d.toNat c.toNat s.toNat o.toNat
  | .ldd d c s o => smWord 19 d.toNat c.toNat s.toNat o.toNat
  | .stb d c s o => smWord 20 d.toNat c.toNat s.toNat o.toNat
  | .sth d c s o => smWord 21 d.toNat c.toNat s.toNat o.toNat
  | .stw d c s o => smWord 22 d.toNat c.toNat s.toNat o.toNat
  | .std d c s o => smWord 23 d.toNat c.toNat s.toNat o.toNat
  | .ldbn d c s o => smWord 24 d.toNat c.toNat s.toNat o.toNat
  | .ldhn d c s o => smWord 25 d.toNat c.toNat s.toNat o.toNat
  | .ldwn d c s o => smWord 26 d.toNat c.toNat s.toNat o.toNat
  | .ldc d c s o => smWord 27 d.toNat c.toNat s.toNat o.toNat
  | .stc d c s o => smWord 28 d.toNat c.toNat s.toNat o.toNat
  | .amo d a b c r z o => srWord 29 d.toNat a.toNat b.toNat c.toNat (r.toNat * 32 + z.toNat * 16 + o.toNat)
  | .ldaq d a b c p z => srWord 30 d.toNat a.toNat b.toNat c.toNat (p.toNat * 16 + 0 + z.toNat)
  | .strl d a b c p z => srWord 30 d.toNat a.toNat b.toNat c.toNat (p.toNat * 16 + 4 + z.toNat)
  | .sts d a b c z => srWord 30 d.toNat a.toNat b.toNat c.toNat (8 + z.toNat)
  | .stcb d a b c z => srWord 30 d.toNat a.toNat b.toNat c.toNat (12 + z.toNat)
  | .fence a p => srWord 31 0 a.toNat 0 p.toNat 0
  | .cmov d a => srWord 32 d.toNat a.toNat 0 0 0
  | .cjoin d a b => srWord 32 d.toNat a.toNat b.toNat 0 1
  | .clo d a b => srWord 32 d.toNat a.toNat b.toNat 0 2
  | .chi d a b => srWord 32 d.toNat a.toNat b.toNat 0 3
  | .cright d a b => srWord 32 d.toNat a.toNat b.toNat 0 4
  | .cget d a f => srWord 32 d.toNat a.toNat 0 f.toNat 5
  | .cchk d a b => srWord 32 d.toNat a.toNat b.toNat 0 6
  | .pbr k i => sjWord 33 k.toNat i.toNat
  | .br d a k l c => srWord 34 d.toNat a.toNat k.toNat 0 (l.toNat * 8 + c.toNat)
  | .loopend d k => srWord 35 d.toNat 0 k.toNat 0 0
  | .tksig i => srWord 36 0 0 (i.toNat / 16) (i.toNat % 16) 0
  | .tkwait a i => srWord 36 0 a.toNat (i.toNat / 16) (i.toNat % 16) 1
  | .tkiss d i => srWord 36 d.toNat 0 (i.toNat / 16) (i.toNat % 16) 2
  | .tkcmp d i => srWord 36 d.toNat 0 (i.toNat / 16) (i.toNat % 16) 3
  | .cwait d a b => srWord 37 d.toNat a.toNat b.toNat 0 0
  | .cread d a => srWord 37 d.toNat a.toNat 0 0 1
  | .cwrite a b => srWord 37 0 a.toNat b.toNat 0 2
  | .chwin a e => srWord 38 0 a.toNat 0 e.toNat 0
  | .chhead a b e => srWord 38 0 a.toNat b.toNat e.toNat 1
  | .chtail a e => srWord 38 0 a.toNat 0 e.toNat 2
  | .chstat d f e => srWord 38 d.toNat 0 f.toNat e.toNat 3
  | .chstop e => srWord 38 0 0 0 e.toNat 4
  | .tread d => srWord 40 d.toNat 0 0 0 0
  | .tuntil a => srWord 40 0 a.toNat 0 0 1
  | .tadj a => srWord 40 0 a.toNat 0 0 2
  | .runAt a b => srWord 41 0 a.toNat b.toNat 0 0
  | .runSeam a b => srWord 41 0 a.toNat b.toNat 0 1
  | .seam a b => srWord 42 0 a.toNat b.toNat 0 0
  | .seamR a b => srWord 42 0 a.toNat b.toNat 0 1
  | .safe i => siWord 43 0 0 i.toNat
  | .srd d s => srWord 44 d.toNat 0 (s.toNat / 16) (s.toNat % 16) 0
  | .swr a s => srWord 44 0 a.toNat (s.toNat / 16) (s.toNat % 16) 1
  | .trap n => srWord 44 0 0 (n.toNat / 16) (n.toNat % 16) 2
  | .bankset a b => srWord 45 0 a.toNat b.toNat 0 0
  | .bankget d a => srWord 45 d.toNat a.toNat 0 0 1
  | .waymask a => srWord 45 0 a.toNat 0 0 2
  | .csel a => srWord 45 0 a.toNat 0 0 3
  | .cstat d a => srWord 45 d.toNat a.toNat 0 0 4
  | .fstat d a => srWord 45 d.toNat a.toNat 0 0 5
  | .freset a => srWord 45 0 a.toNat 0 0 6
  | .regmode a => srWord 46 0 a.toNat 0 0 0
  | .regstat d => srWord 46 d.toNat 0 0 0 1
  | .viewld d a b => srWord 47 d.toNat a.toNat b.toNat 0 0
  | .viewget d a f => srWord 47 d.toNat a.toNat f.toNat 0 1
  | .agset g a b => srWord 48 g.toNat a.toNat b.toNat 0 0
  | .go a => srWord 48 0 a.toNat 0 0 1
  | .agstop a => srWord 48 0 a.toNat 0 0 2
  | .agget d g f => srWord 48 d.toNat g.toNat f.toNat 0 3
  | .gset a b => srWord 49 0 a.toNat b.toNat 0 0
  | .ggo m v b i => srWord 49 m.toNat v.toNat b.toNat i.toNat 1
  | .gstat d => srWord 49 d.toNat 0 0 0 2
  | .boltnew d a => srWord 50 d.toNat a.toNat 0 0 0
  | .boltgrow d a b => srWord 50 d.toNat a.toNat b.toNat 0 1
  | .cut a => srWord 50 0 a.toNat 0 0 2
  | .idle k => 63 * 67108864 + k.toNat
  | .loop n l => 63 * 67108864 + 16777216 + n.toNat * 4096 + l.toNat
  | .vadd t m d a b p => vWord 0 t.toNat m.toNat d.toNat a.toNat b.toNat p.toNat
  | .vsub t m d a b p => vWord 1 t.toNat m.toNat d.toNat a.toNat b.toNat p.toNat
  | .vmul t m d a b p => vWord 2 t.toNat m.toNat d.toNat a.toNat b.toNat p.toNat
  | .vfma t m d a b p => vWord 3 t.toNat m.toNat d.toNat a.toNat b.toNat p.toNat
  | .vfms t m d a b p => vWord 4 t.toNat m.toNat d.toNat a.toNat b.toNat p.toNat
  | .vfnma t m d a b p => vWord 5 t.toNat m.toNat d.toNat a.toNat b.toNat p.toNat
  | .vmin t m d a b p => vWord 6 t.toNat m.toNat d.toNat a.toNat b.toNat p.toNat
  | .vmax t m d a b p => vWord 7 t.toNat m.toNat d.toNat a.toNat b.toNat p.toNat
  | .vabs t m d a p => vWord 8 t.toNat m.toNat d.toNat a.toNat 0 p.toNat
  | .vneg t m d a p => vWord 9 t.toNat m.toNat d.toNat a.toNat 0 p.toNat
  | .vdiv t m d a b p => vWord 10 t.toNat m.toNat d.toNat a.toNat b.toNat p.toNat
  | .vsqrt t m d a p => vWord 11 t.toNat m.toNat d.toNat a.toNat 0 p.toNat
  | .vrcpe t m d a p => vWord 12 t.toNat m.toNat d.toNat a.toNat 0 p.toNat
  | .vrsqe t m d a p => vWord 13 t.toNat m.toNat d.toNat a.toNat 0 p.toNat
  | .vexp2 m d a p => vWord 14 9 m.toNat d.toNat a.toNat 0 p.toNat
  | .vlog2 m d a p => vWord 15 9 m.toNat d.toNat a.toNat 0 p.toNat
  | .vand t m d a b p => vWord 16 t.toNat m.toNat d.toNat a.toNat b.toNat p.toNat
  | .vor t m d a b p => vWord 17 t.toNat m.toNat d.toNat a.toNat b.toNat p.toNat
  | .vxor t m d a b p => vWord 18 t.toNat m.toNat d.toNat a.toNat b.toNat p.toNat
  | .vandn t m d a b p => vWord 19 t.toNat m.toNat d.toNat a.toNat b.toNat p.toNat
  | .vshl t m d a b p => vWord 20 t.toNat m.toNat d.toNat a.toNat b.toNat p.toNat
  | .vshr t m d a b p => vWord 21 t.toNat m.toNat d.toNat a.toNat b.toNat p.toNat
  | .vsra t m d a b p => vWord 22 t.toNat m.toNat d.toNat a.toNat b.toNat p.toNat
  | .vclz t m d a p => vWord 23 t.toNat m.toNat d.toNat a.toNat 0 p.toNat
  | .vadds t m d a b p => vWord 24 t.toNat m.toNat d.toNat a.toNat b.toNat p.toNat
  | .vsubs t m d a b p => vWord 25 t.toNat m.toNat d.toNat a.toNat b.toNat p.toNat
  | .vmulhi t m d a b p => vWord 26 t.toNat m.toNat d.toNat a.toNat b.toNat p.toNat
  | .vabd t m d a b p => vWord 27 t.toNat m.toNat d.toNat a.toNat b.toNat p.toNat
  | .vrshr t m d a b p => vWord 28 t.toNat m.toNat d.toNat a.toNat b.toNat p.toNat
  | .vclamp t m d a b p => vWord 29 t.toNat m.toNat d.toNat a.toNat b.toNat p.toNat
  | .vsel t s d a b p => vWord 30 t.toNat s.toNat d.toNat a.toNat b.toNat p.toNat
  | .vmov t m d a p => vWord 31 t.toNat m.toNat d.toNat a.toNat 0 p.toNat
  | .vceq t m d a b p => vWord 32 t.toNat m.toNat d.toNat a.toNat b.toNat p.toNat
  | .vcne t m d a b p => vWord 33 t.toNat m.toNat d.toNat a.toNat b.toNat p.toNat
  | .vclt t m d a b p => vWord 34 t.toNat m.toNat d.toNat a.toNat b.toNat p.toNat
  | .vcle t m d a b p => vWord 35 t.toNat m.toNat d.toNat a.toNat b.toNat p.toNat
  | .vcun t m d a b p => vWord 36 t.toNat m.toNat d.toNat a.toNat b.toNat p.toNat
  | .vmand d a b => vWord 37 0 0 d.toNat a.toNat b.toNat 0
  | .vmor d a b => vWord 38 0 0 d.toNat a.toNat b.toNat 0
  | .vmxor d a b => vWord 39 0 0 d.toNat a.toNat b.toNat 0
  | .vcvt t m d a e v p => vWord 40 t.toNat m.toNat d.toNat a.toNat (e.toNat * 16 + v.toNat) p.toNat
  | .vpack t m d a b p => vWord 41 t.toNat m.toNat d.toNat a.toNat b.toNat p.toNat
  | .vunpk t m d a h p => vWord 42 t.toNat m.toNat d.toNat a.toNat h.toNat p.toNat
  | .qblk t d a => vWord 43 t.toNat 0 d.toNat a.toNat 0 0
  | .vbcast t m d b => vWord 44 t.toNat m.toNat d.toNat 0 b.toNat 0
  | .vlane t m d => vWord 45 t.toNat m.toNat d.toNat 0 0 0
  | .vperm t m d a b p => vWord 46 t.toNat m.toNat d.toNat a.toNat b.toNat p.toNat
  | .vslide t m d a b p => vWord 47 t.toNat m.toNat d.toNat a.toNat b.toNat p.toNat
  | .vrsum t m d a p => vWord 48 t.toNat m.toNat d.toNat a.toNat 0 p.toNat
  | .vrmax t m d a p => vWord 49 t.toNat m.toNat d.toNat a.toNat 0 p.toNat
  | .vrmin t m d a p => vWord 50 t.toNat m.toNat d.toNat a.toNat 0 p.toNat
  | .vrdot t m d a b p => vWord 51 t.toNat m.toNat d.toNat a.toNat b.toNat p.toNat
  | .vrev t m d a p => vWord 52 t.toNat m.toNat d.toNat a.toNat 0 p.toNat
  | .vzip t m d a b p => vWord 53 t.toNat m.toNat d.toNat a.toNat b.toNat p.toNat
  | .vunzip t m d a b p => vWord 54 t.toNat m.toNat d.toNat a.toNat b.toNat p.toNat
  | .vshuf t m d a b p => vWord 55 t.toNat m.toNat d.toNat a.toNat b.toNat p.toNat
  | .defer t m q a => vWord 56 t.toNat m.toNat q.toNat a.toNat 0 0
  | .drain t d a k q => vWord 57 t.toNat 0 d.toNat a.toNat (k.toNat * 4 + q.toNat) 0
  | .vdqcnt d q => vWord 58 7 0 d.toNat 0 q.toNat 0
  | .mldw p t b => mWord 0 0 0 p.toNat t.toNat b.toNat
  | .mldwBd p t e z b => mWord 1 0 0 p.toNat t.toNat (e.toNat * 4 + z.toNat * 2 + b.toNat)
  | .mldb p t b => mWord 2 0 0 p.toNat t.toNat b.toNat
  | .mwclr t b => mWord 3 0 0 0 t.toNat b.toNat
  | .mmul s w p t i => mWord 8 s.toNat w.toNat p.toNat t.toNat i.toNat
  | .macc s w p t i => mWord 9 s.toNat w.toNat p.toNat t.toNat i.toNat
  | .maccn s w p t i => mWord 10 s.toNat w.toNat p.toNat t.toNat i.toNat
  | .mmulg s w p t i => mWord 11 s.toNat w.toNat p.toNat t.toNat i.toNat
  | .maccg s w p t i => mWord 12 s.toNat w.toNat p.toNat t.toNat i.toNat
  | .mdrn w p t i => mWord 16 0 w.toNat p.toNat t.toNat i.toNat
  | .mdrnc w p t i => mWord 17 0 w.toNat p.toNat t.toNat i.toNat
  | .mdrnr s w p t i => mWord 18 s.toNat w.toNat p.toNat t.toNat i.toNat
  | .mclr w => mWord 19 0 w.toNat 0 0 0
  | .msfmt s h a b => mWord 20 s.toNat 0 0 0 (h.toNat * 4 + a.toNat * 2 + b.toNat)
  | .mstat p => mWord 21 0 0 p.toNat 0 0
  | .ccpy d a r c s t => cWord 0 d.toNat a.toNat r.toNat c.toNat s.toNat t.toNat
  | .ccpyt d a r c s t => cWord 1 d.toNat a.toNat r.toNat c.toNat s.toNat t.toNat
  | .cgath d a r c s t => cWord 2 d.toNat a.toNat r.toNat c.toNat s.toNat t.toNat
  | .cscat d a r c s t => cWord 3 d.toNat a.toNat r.toNat c.toNat s.toNat t.toNat
  | .cfill d r c s t => cWord 4 d.toNat 0 r.toNat c.toNat s.toNat t.toNat
  | .cldrec a r s => cWord 5 0 a.toNat r.toNat 0 0 s.toNat
  | .rcfence r l => cWord 6 0 0 r.toNat 0 0 l.toNat
  | .migrate a s t => cWord 7 0 a.toNat 0 0 s.toNat t.toNat
  | .put d a r c s t => cWord 8 d.toNat a.toNat r.toNat c.toNat s.toNat t.toNat
  | .putred d a r c s t => cWord 9 d.toNat a.toNat r.toNat c.toNat s.toNat t.toNat
  | .get d a r c s t => cWord 10 d.toNat a.toNat r.toNat c.toNat s.toNat t.toNat
  | .carm s t => cWord 11 0 0 0 0 s.toNat t.toNat
  | .craise s t => cWord 12 0 0 0 0 s.toNat t.toNat
  | .shsend a s t => cWord 13 0 a.toNat 0 0 s.toNat t.toNat
  | .cpref a r s => cWord 14 0 a.toNat r.toNat 0 0 s.toNat
  | .ccpyr a r c s t => cWord 16 0 a.toNat r.toNat c.toNat s.toNat t.toNat
  | .ccpyrt a r c s t => cWord 17 0 a.toNat r.toNat c.toNat s.toNat t.toNat
  | .cgatht d a r c s t => cWord 18 d.toNat a.toNat r.toNat c.toNat s.toNat t.toNat
  | .cscatt d a r c s t => cWord 19 d.toNat a.toNat r.toNat c.toNat s.toNat t.toNat
  | .cxpose d a r c s t => cWord 20 d.toNat a.toNat r.toNat c.toNat s.toNat t.toNat
  | .ccvt d a r c s t => cWord 21 d.toNat a.toNat r.toNat c.toNat s.toNat t.toNat
  | .cflush a r s => cWord 22 0 a.toNat r.toNat 0 0 s.toNat
  | .cinval a r s => cWord 23 0 a.toNat r.toNat 0 0 s.toNat
  | .cwrw d c s t => cWord 24 d.toNat 0 0 c.toNat s.toNat t.toNat
  | .catom d o c s t => cWord 25 d.toNat 0 o.toNat c.toNat s.toNat t.toNat
  | .shPushi i => 2048 + i.toNat
  | .shPushg g => 4096 + g.toNat
  | .shPopg g => 6144 + g.toNat
  | .shShl s => 26624 + s.toNat
  | .shShr s => 28672 + s.toNat
  | .shSkz n => 34816 + n.toNat
  | .shSknz n => 36864 + n.toNat
  | .shSkip n => 38912 + n.toNat
  | .shLload k => 45056 + k.toNat
  | .shRdw w => 49152 + w.toNat
  | .shAddw w => 51200 + w.toNat
  | .shClone d => 53248 + d.toNat
  | .shDir d => 55296 + d.toNat
  | .runAbort _ => 0
  | .seamArrival _ _ => 0
  | .asyncAbortTaken _ => 0
  | .launch _ _ _ => 0
  | .abort _ _ _ => 0
  | .releaseId _ _ _ => 0
  | .cutIdle _ _ _ => 0
  | .parkRead _ _ _ => 0
  | .parkRelease _ _ _ => 0
  | .receipt _ _ _ _ => 0
  | .keyNew _ _ _ _ => 0
  | .keyLoad _ _ _ _ => 0
  | .keyDrop _ _ _ => 0
  | .launchRetire _ _ => 0
  | .scrubEnd _ _ => 0
  | .slwb => srWord 31 0 0 0 0 1
  | .slinv => srWord 31 0 0 0 0 2
  | .tret => srWord 44 0 0 0 0 3
  | .exit => srWord 44 0 0 0 0 4
  | .shNop => 0
  | .shDup => 8192
  | .shDrop => 10240
  | .shSwap => 12288
  | .shAdd => 16384
  | .shSub => 18432
  | .shAnd => 20480
  | .shOr => 22528
  | .shXor => 24576
  | .shClt => 30720
  | .shCeq => 32768
  | .shHops => 40960
  | .shHere => 43008
  | .shRdc => 47104
  | .shFwd => 57344
  | .shDlv => 59392
  | .shKill => 61440
  | .chainEntryDecode => 0
  | .chainLoopEntry => 0
  | .chainCondEntry => 0
  | .chainLinkEntry => 0
  | .chainEndEntry => 0
  | .commandCompletion => 0
  | .chainBound => 0
  | .waitBound => 0
  | .tokenWaitMet => 0
  | .counterWaitMet => 0
  | .tapeWaitMet => 0
  | .armMet => 0
  | .untimedLoadLands => 0
  | .storePerform => 0
  | .stcbLineTimeout => 0
  | .bankService => 0
  | .bankOpen => 0
  | .parkedRetry => 0
  | .migrateCopy => 0
  | .boltRelease => 0
  | .agBeat => 0
  | .regclusterWake => 0
  | .deferAccept => 0
  | .drainAccept => 0
  | .runStart => 0
  | .runEnd => 0
  | .abortStop => 0
  | .seamRelease => 0
  | .holdNoticeElapsed => 0
  | .tadjStepApply => 0
  | .syncFlitSend => 0
  | .linkRetrainTimeout => 0
  | .putredCombine => 0
  | .deadlineCheck => 0
  | .fabricGrant => 0
  | .fabricCallMatch => 0
  | .shuttleVisit => 0
  | .invalidateAll => 0
  | .invalidationComplete => 0
  | .coreStart => 0
  | .coreStopRecord => 0
  | .coreDone => 0
  | .islandChangeApply => 0
  | .snapPin => 0
  | .packageReset => 0
  | .ckpt => 0
  | .viStopComplete => 0
  | .clockCycle => 0
  | .illegalWord => 0
  | .groupRestart _ => 0
  | .holdRequest _ _ => 0
  | .holdLift _ _ => 0
  | .tapeload _ => 0
  | .syncFlitReceive _ _ _ => 0
  | .flitReceive _ _ _ _ => 0
  | .linkReplayDone _ => 0
  | .linkTrainingDone _ => 0
  | .linkDisable _ => 0
  | .linkEnable _ => 0
  | .linktxkey _ _ _ => 0
  | .linkrxkey _ _ _ => 0
  | .linkKeySwitch _ => 0
  | .timedPieceArrival _ => 0
  | .fabricRequestArrival _ => 0
  | .fabricRefusal _ => 0
  | .fabricDataArrival _ => 0
  | .shuttleArrival _ _ => 0
  | .invalidateObject _ => 0
  | .invalidateKeyslot _ => 0
  | .bindent _ _ => 0
  | .bindgo _ => 0
  | .thermalTrip _ => 0
  | .islctl _ _ => 0
  | .snaptrig _ => 0
  | .doorbell _ _ _ => 0
  | .ringkey _ _ _ => 0
  | .ringresync _ _ _ => 0
  | .cplhead _ _ => 0
  | .checkpointRestore _ => 0
  | .viEnable _ => 0
  | .viLock _ => 0
  | .viStart _ => 0
  | .viStop _ => 0
  | .viUnlock _ => 0
  | .viReset _ => 0
  | .dependencesSettled _ _ => 0
  | .leasesResident _ _ => 0
  | .preemptRequest _ => 0
  | .resume _ _ => 0
  | .worldEnd _ => 0
  | .registerWrite _ _ => 0
  | .bankcfg _ _ _ => 0
  | .objectTableWrite _ _ => 0

/-- The engine of a 32-bit word under decodeTableWord and withFetchWord: the first of S, V, M, C whose format has the
word as an instruction (R27 leaves that to the engine that fetches). -/
def engineOf (w : Nat) : Option Engine :=
  match decodeS w with
  | .ok _ => some .s
  | .error _ =>
    match decodeV w with
    | .ok _ => some .v
    | .error _ =>
      match decodeM w with
      | .ok _ => some .m
      | .error _ =>
        match decodeC w with
        | .ok _ => some .c
        | .error _ => none

/-- An instruction of a decoder's answer. -/
def Dec.toOption (x : Dec) : Option Instr :=
  match x with
  | .ok i => some i
  | .error _ => none

/-- The instruction that the decoders read from a word whose bits the opcode table numbers: 16 bits for a shuttle word,
32 for the others (R27). -/
def decodeTableWord (nbits w : Nat) : Option Instr :=
  if nbits = 16 then Dec.toOption (decodeSh (w % 2 ^ 16))
  else if nbits = 32 then
    match engineOf (w % 2 ^ 32) with
    | some e => Dec.toOption (decodeFor e (w % 2 ^ 32))
    | none => none
  else none

end Sys2Proof
end

