-- ==== Sys2Proof/Config.lean ====
section
/-! DEFINITION. What the spec leaves open: free values, and functions that the spec names without fixing their bits
in a way this model could compute. Each is an opaque constant, so no proof can learn a value of it. -/

namespace Sys2Proof.Config

/-- A free number: argument 0 is the counter of the state, argument 1 says what it is for. -/
opaque freeNat : Nat → Nat → Nat
/-- A free byte: the counter, then the position. -/
opaque freeByte : Nat → Nat → Byte
/-- What a block of ciphertext reads as under another identity (R84, R88): key, domain, object, unit and block of the reader,
then those under which it was written (none where nothing was), the 16 bytes written, and the place of the byte among them. -/
opaque wrongKeyByte : List Nat → List Nat → List Byte → Nat → Byte
/-- AES-256-GCM sealing of a blob under the package key: what is sealed, and the nonce (R410). -/
opaque gcmSeal : List Byte → List Byte → List Byte
/-- ML-DSA-65 signature of the package's signing key over a byte string: 3,309 bytes (R12, R430). -/
opaque mldsaBytes : List Byte → Vector Byte 3309
/-- The signature as a list of bytes. -/
def mldsa65 (m : List Byte) : List Byte := (mldsaBytes m).toList
/-- The package's ML-DSA-65 public key, 1,952 bytes (R12, R430). -/
opaque publicKeyBytes : Vector Byte 1952
/-- The public key as a list of bytes. -/
def publicKey : List Byte := publicKeyBytes.toList

/-- What each part's capability list tells of the part (R437): the fused silicon revision, and the version byte of each entry. -/
opaque siliconRevision : Nat
opaque capVersion : Nat → Byte
/-- The 12 data bytes of an entry of that list, from its ID and the numbers it holds (R437). -/
opaque capBytes : Nat → List Nat → Vector Byte 12
/-- Where in the BAR stand the public key, Stolarn's endorsement of it and the IDs of the published profiles (R437). -/
opaque keyOffset : Nat
opaque endorsementOffset : Nat
opaque profilesOffset : Nat

end Sys2Proof.Config
end

