-- ==== Sys2Proof/Machine/State.lean ====
section
/-! DEFINITION. The state of the XK4 as plain data: one core in full (R5, R300), its package, and the model's own
fields (inbox, delays, free counter). Reset values: R18 and the register maps; where the spec gives none, log entry 1. -/

namespace Sys2Proof.Machine

/-- Why the machine could stop without a next state. No meaning of this model uses it: every architectural fault is a
state (R397). Safe. -/
inductive Fault where
  /-- Kept so that the type is inhabited; raised by nothing. Safe. -/
  | none
  deriving DecidableEq, Repr

/-- Why the model would have no meaning for an instruction. -/
inductive Refusal where
  /-- The arm of an instruction that has no meaning yet; raised by Dispatch.lean only. Safe. -/
  | notModelled (mnemonic : String)
  deriving DecidableEq, Repr

/-- The tape and the clock cycles it is derived from (R358 to R361). -/
structure Clock where
  tape : Nat
  phase : W32
  rate : W32
  stepPending : Int
  /-- Clock cycles since a unit of StepPending was last due, 0 to 1,024 (R360). -/
  clocks : Nat
  /-- A unit of StepPending that is due: 1 swallow, −1 keep (R360). -/
  unit : Int
  aligned : Bool
  loaded : Bool
  /-- The value that TAPELOAD gives the next tape cycle (R439). -/
  load : Option Nat
  deriving DecidableEq, Repr

/-- The model's own fields: what the outside brings, the latency beyond the fixed one that the next untimed accesses
take, and the counter of free values. -/
structure Env where
  inbox : List Instr
  delays : List Nat
  free : Nat
  /-- Slots that timed pieces of other cores of the launch use: tape cycle, resource, slot, physical core (R132). -/
  rivals : List (Nat × Nat × Nat × Nat)
  /-- Other members that stand at a hold point of a group other than an arrival: their run end is delayed, or they have executed
  EXIT (R365): group, logical core. A group g of another launch n is 256 n + g. -/
  points : List (Nat × Nat)
  /-- Functions of the host port with no established IDE stream (R434). -/
  unstreamed : List Nat
  deriving DecidableEq, Repr

/-- What a write in flight changes when it lands (R9, R55). -/
inductive Tgt where
  | sreg (r : Nat) (v : W64)
  | creg (r : Nat) (v : Cap)
  | breg (r : Nat) (v : W64)
  /-- New value: the old one inside `keep`, `v` elsewhere. -/
  | mreg (r : Nat) (keep v : Mask)
  /-- Register-space bytes. -/
  | rs (cells : List Host.Cell)
  /-- Cluster-SRAM bytes, keyed by cluster and cluster address. -/
  | sram (cells : List Host.Cell)
  /-- Object bytes: object, offset, bytes. -/
  | obj (id off : Nat) (bytes : List Byte)
  /-- A FRESET: the FIFO headed by a bank empties (R108, R110). -/
  | fifo (key : Nat)
  /-- REGMODE: a register cluster takes a state, WAKING until a cycle (R197). -/
  | power (n st till : Nat)
  /-- Events that reach VSTICKY, MSTICKY or SSTICKY with the result they belong to (R22). -/
  | vsticky (v : W64)
  | msticky (v : W64)
  | ssticky (v : W64)
  | csticky (v : W64)
  deriving DecidableEq, Repr

/-- A write in flight: the tape cycle in which it lands, the engine that issued it, what it writes, and the cycle of its
issue (R55). -/
structure Pend where
  due : Nat
  eng : Engine
  tgt : Tgt
  iss : Nat
  deriving DecidableEq, Repr

/-- Where S waits (R301, R323). -/
inductive Hold where
  | no
  /-- TKWAIT: token, captured count, issue cycle, bound. -/
  | token (id : Nat) (need : W32) (at_ bound : Nat)
  /-- CWAIT: package counter, index named, value, issue cycle, bound. -/
  | counter (idx name : Nat) (v : W64) (at_ bound : Nat)
  /-- TUNTIL: the tape cycle waited for. -/
  | tape (v : Nat)
  /-- SEAM, SEAM.R (`run` none), RUN.SEAM (`run`: index and lead). -/
  | seam (g : Nat) (at_ bound : Nat) (restart : Bool) (run : Option (Nat × Nat))
  /-- A timed run, from RUN issue to its end (R328, R329). -/
  | run
  /-- EXIT issued, not yet done (R333). -/
  | exit
  deriving DecidableEq, Repr

/-- Operands that a blocking form of R301 captured at its issue cycle. -/
structure Blk where
  d : W64
  d1 : W64
  a : W64
  b : W64
  cap : Cap
  at_ : Nat
  /-- The cycle before which the form does not complete. -/
  ready : Nat
  /-- Bytes and rights of its access, for the checks of a retry (R83). -/
  n : Nat
  need : Nat
  /-- Its access is parked at a memory port (R83). -/
  parked : Bool
  /-- It waits for its scratchpad bank; the bank has served it (R94). -/
  ask : Bool
  granted : Bool
  /-- It is a CUT, which waits for the accesses before it (R89). -/
  cut : Bool
  deriving DecidableEq, Repr

/-- Where a posted store goes: cluster SRAM or an object. -/
inductive Dest where
  | sram (addr : Nat)
  | obj (id off : Nat)
  deriving DecidableEq, Repr

/-- A posted store (R312, R315). -/
structure StoreRec where
  seq : Nat
  dest : Dest
  bytes : List Byte
  cls : Nat
  /-- Every class it covers; more than one for a drained combining line. -/
  mask : W16
  cap : Cap
  off : Nat
  /-- STS or STCB: ordered with nothing. -/
  loose : Bool
  /-- STS: no slice looks it up (R102, R315). -/
  bypass : Bool
  /-- A plain store of R354. -/
  plain : Bool
  epoch : Nat
  at_ : Nat
  /-- Earliest cycle in which it may perform; none while it waits for its bank or is parked. -/
  due : Option Nat
  parked : Bool
  deriving DecidableEq, Repr

/-- An untimed load whose value has not landed (R312). `dst` below 32 is s, otherwise c. -/
structure LoadRec where
  seq : Nat
  dst : Nat
  size : Nat
  signed : Bool
  src : Dest
  cls : Nat
  cap : Cap
  off : Nat
  at_ : Nat
  lat : Nat
  due : Option Nat
  /-- The bytes, where the access has already read them. -/
  data : Option (List Byte)
  parked : Bool
  deriving DecidableEq, Repr

/-- A line of the combining buffer (R315). -/
structure CombLine where
  dest : Dest
  first : Nat
  classes : W16
  cells : List Host.Cell
  cap : Cap
  epoch : Nat
  seq : Nat
  deriving DecidableEq, Repr

/-- The registers of S and the masks (R300). -/
structure Regs where
  s : Table W64
  c : Table Cap
  b : Table W64
  m : Table Mask
  pc : W64
  deriving DecidableEq, Repr

/-- Special registers (R332) and identity of the core. -/
structure Ctl where
  coreId : Nat
  lcore : Nat
  panel : Nat
  launchNo : Nat
  vi : Nat
  world : Nat
  vctl : W64
  vsticky : W64
  msticky : W64
  csticky : W64
  regsticky : W64
  sramsticky : W64
  ssticky : W64
  qblkctl : W64
  dqctl : W64
  slicesel : W64
  cboundinfo : W64
  mgmt : Bool
  defProf : Nat
  deriving DecidableEq, Repr

/-- The code object of the core's launch (R51, R53); `cap` is narrowed to the text section: Lower 0, Upper TextLen. -/
structure Code where
  cap : Cap
  textOff : Nat
  runOff : Nat
  runCount : Nat
  safeCount : Nat
  safeOff : Nat
  streamOff : Nat
  entryOff : Nat
  deriving DecidableEq, Repr

/-- Issue state of S (R301, R312, R315). -/
structure SIssue where
  /-- The core has been dispatched and is neither done nor saved. -/
  on : Bool
  next : Nat
  hold : Hold
  blk : Option Blk
  loads : List LoadRec
  /-- S writes that landed in this cycle: register as in LoadRec, cycle of issue (R302). -/
  landed : List (Nat × Nat)
  stores : List StoreRec
  comb : List CombLine
  seq : Nat
  epoch : Nat
  /-- TKSIG tickets: token, ticket, number of the access at issue. -/
  sigs : List (Nat × W32 × Nat)
  /-- A SAFE executed just before with no request pending: its live map (R388). -/
  safe : Option Nat
  preempt : Bool
  done : Bool
  saved : Bool
  deriving DecidableEq, Repr

/-- A fault as it was detected (R397, R398). -/
structure FaultRec where
  at_ : Nat
  cause : Nat
  under : Nat
  src : Nat
  cap : Cap
  off : W64
  info : W64
  inRun : Bool
  restartable : Bool
  deriving DecidableEq, Repr

/-- A chain position (R122, R400). -/
structure Position where
  e : Nat
  head : Nat
  timed : Bool
  deriving DecidableEq, Repr

/-- The fault frame (R399). -/
structure Frame where
  fault : FaultRec
  second : Nat
  multi : Bool
  inHandler : Bool
  sPos : W64
  v : Position
  m : Position
  c : Position
  sStream : Option Position
  deriving DecidableEq, Repr

/-- Faults, handler and stop of the core (R397 to R408). -/
structure Trap where
  /-- The core is stopping: the first fault. -/
  stop : Option FaultRec
  second : Nat
  multi : Bool
  /-- Of the drain fault that Second holds: the cycle of its detection and its engine (R398). -/
  secondOf : Nat × Nat
  /-- Everything issued has landed: the frame is recorded in this cycle (R397). -/
  ready : Bool
  /-- Under the stop for pre-emption: the live map to save under (R331, R388). -/
  save : Option Nat
  frame : Option Frame
  handler : Bool
  /-- The originals of s29, s30 and s31 (R404). -/
  orig : List W64
  /-- Chain engines stay stopped in the handler. -/
  chainsOff : Bool
  deriving DecidableEq, Repr

/-- A decoded command entry (R47, R113). -/
structure Entry where
  word : W32
  token : W32
  bound : Nat
  seq : Nat
  pos : Nat
  loops : List (Nat × Nat)
  at_ : Nat
  needs : List (Nat × W32)
  /-- A conditional entry: Arg bit. -/
  cond : Option Bool
  /-- Skipped by the conditional entry before it (R116). -/
  skip : Bool
  /-- Its token waits were met in the cycle before this one (R117). -/
  ready : Bool
  /-- A segment that it touches is held by a migration (R82). -/
  held : Bool
  deriving DecidableEq, Repr

/-- An element of what an issued C command still has to do when it completes (R118). -/
inductive CWrite where
  | sram (addr : Nat) (bytes : List Byte)
  /-- `epoch`: a plain store of R354, with the epoch of its issue. -/
  | obj (id off : Nat) (bytes : List Byte) (epoch : Option Nat)
  | rs (cells : List Host.Cell)
  | raise (counter : Nat) (v : W64)
  /-- CATOM: one atomic step at completion: destination, operation of R139, operand. -/
  | atom (dest : Dest) (op : Nat) (v : W64)
  | recSlot (slot : Nat) (cap : Cap) (off : Nat) (bytes : List Byte)
  | writeback (id lo hi : Nat) (drop : Bool)
  /-- SHSEND: the shuttle enters the router (R143). -/
  | inject (sh : Shuttle)
  deriving DecidableEq, Repr

/-- An issued, incomplete command (R113, R120). -/
structure Cmd where
  id : Nat
  seq : Nat
  pos : Nat
  loops : List (Nat × Nat)
  prod : Nat
  ticket : W32
  decodedAt : Nat
  bound : Nat
  /-- The cycle from which it may complete; none while something else decides. -/
  doneAt : Option Nat
  writes : List CWrite
  /-- Its repetition would combine twice (R121). -/
  once : Bool
  /-- Segments whose busy count it holds: object and segment index (R81). -/
  busy : List (Nat × Nat)
  /-- A fabric form: group and call number (R140). -/
  call : Option (Nat × Nat)
  /-- Completed, but its ticket is still to come (R117). -/
  finished : Bool
  /-- The cycle from which its ticket may complete: where it pushes beats, that in which the last becomes visible (R345). -/
  tokAt : Nat
  /-- The cycle of its issue. -/
  iss : Nat
  /-- It has taken effect, and its bound cancels it no more (R294, R295). -/
  fixed : Bool
  /-- The ordering class that a C word carries; none for other words (R118). -/
  cls : Option Nat
  /-- From the read of its source to the visibility of its last write, at the least (R62). -/
  lat : Nat
  /-- The types between which it converts (R133). -/
  cvt : Option (Nat × Nat)
  /-- The capabilities through which it reads and writes; 0 for none (R399). -/
  src : Cap
  dst : Cap
  /-- The write generator that it has pushed to, 6 or 7, whose beats come before its ticket (R345); 8 for none. -/
  port : Nat
  /-- Its scratchpad writes have been handed to their banks (R94). -/
  out : Bool
  deriving DecidableEq, Repr

/-- A chain engine (R113, R122, R324, R325). -/
structure Chain where
  win : Cap
  /-- 0 IDLE, 1 TAIL, 2 ACTIVE, 3 RUN (R325). -/
  st : Nat
  /-- The state that a run or a handler interrupted. -/
  prev : Nat
  pos : Nat
  e : Nat
  t : Nat
  loops : List (Nat × Nat)
  cur : Option Entry
  /-- A conditional entry has just been taken: the next entry must be a command, and runs or is skipped. -/
  after : Option Bool
  next : Nat
  cmds : List Cmd
  ids : Nat
  /-- Executions not yet in the completed prefix: id, Seq, completed (R119). -/
  hist : List (Nat × Nat × Bool)
  compSeq : Nat
  compCount : Nat
  /-- CHSTOP executed (R324). -/
  stopping : Bool
  /-- The earliest cancelled command, by its number (R120). -/
  cut : Option Nat
  /-- The last command number used before the present head was set: only later commands belong to it (R324). -/
  base : Nat
  /-- The cycle in which its bank served the read of the next entry or condition word (R94, R95). -/
  served : Option Nat
  deriving DecidableEq, Repr

/-- A record-cache slot (R128). -/
structure RecSlot where
  cap : Cap
  off : Nat
  bytes : List Byte
  deriving DecidableEq, Repr

/-- A MIGRATE waiting for Busy to reach 0 (R82): object, segment, target tier and page, status address, command. -/
structure Mig where
  obj : Nat
  seg : Nat
  tier : Nat
  base : Nat
  addr : Nat
  cmd : Nat
  deriving DecidableEq, Repr

/-- What only C holds (R128, R140, R142), and its form that waits for a grant (R141). -/
structure CExtra where
  recs : Table (Option RecSlot)
  arm : Option (Nat × W64)
  calls : Table W32
  /-- The request of the current entry has been sent; the grant has come. -/
  asked : Bool
  granted : Bool
  /-- The check of the request has parked at the target (R83, R121). -/
  parked : Bool
  migs : List Mig
  deriving DecidableEq, Repr

/-- A view register (R192). -/
structure View where
  base : Nat
  kind : Nat
  type : Nat
  rows : Nat
  span : Nat
  rotStep : Nat
  rot : Nat
  deriving DecidableEq, Repr

/-- A loop nest with its captured capability (R201). -/
structure Nest where
  base : Nat
  winLo : Nat
  winSize : Nat
  circular : Bool
  rep : Bool
  write : Bool
  widthLog : Nat
  counts : List Nat
  strides : List Int
  cap : Cap
  deriving DecidableEq, Repr

/-- An address generator (R201 to R207). -/
structure AGen where
  shadow : Option Nest
  nest : Option Nest
  /-- 0 idle, 1 walking, 2 exhausted (R214). -/
  st : Nat
  /-- Index of the first unpopped or unpushed beat (R211). -/
  k : Nat
  /-- Index of the next beat to read. -/
  kf : Nat
  /-- The earliest cycle of the next read (R204). -/
  nextR : Nat
  /-- AGSTOP has been issued in this cycle (R207). -/
  halt : Bool
  /-- Pop cycles, latest first. -/
  pops : List Nat
  /-- Beats read and not popped: cycle read, bytes. For a write generator: cycle due, address and bytes of a push. -/
  beats : List (Nat × Nat × List Byte)
  lam : Nat
  /-- The bank of its next untimed beat serves it in this cycle (R94, R203). -/
  turn : Bool
  /-- Stopped in its walk by a fault: it reads no beat until TRET or a GO (R397, R402, R404). -/
  off : Bool
  deriving DecidableEq, Repr

/-- The gather descriptor with its captured capability (R208). -/
structure GDesc where
  winLo : Nat
  winSize : Nat
  stride : Nat
  rowLog : Nat
  cap : Cap
  deriving DecidableEq, Repr

/-- A latch being filled (R209): its number among all fills, bytes of a row, rows still to read (none: masked off), rows
read. -/
structure GFill where
  id : Nat
  latch : Nat
  width : Nat
  todo : List (Option (Nat × Bool))
  /-- In a run: the cycles in which rows that left the window are read (R209). -/
  wraps : List Nat
  rows : List (List Byte)
  nextAt : Nat
  endAt : Nat
  deriving DecidableEq, Repr

/-- Register space, views, generators, gather unit (R190 to R211). -/
structure RegSpace where
  bytes : List Host.Cell
  /-- Cluster n: 0 ON, 1 OFF, 2 WAKING; wake cycle. -/
  power : Table (Nat × Nat)
  views : Table View
  ags : Table AGen
  gdesc : Option GDesc
  latch0 : List (List Byte)
  latch1 : List (List Byte)
  fills : List GFill
  /-- Fills started so far. -/
  fillNo : Nat
  deriving DecidableEq, Repr

/-- A deferral queue's staging (R288): its K vectors as raw lanes, and c. -/
structure DQueue where
  stage : List (List Nat)
  c : Nat
  deriving DecidableEq, Repr

/-- A DEFER or DRAIN issued and not yet accepted by its FIFO (R294, R295). -/
structure DPend where
  push : Bool
  q : Nat
  head : Nat
  rows : List (List Byte)
  rest : DQueue
  k : Nat
  base : List Nat
  mask : Nat
  lanes : Nat
  /-- The lane type. -/
  t : Nat
  /-- The cycle of its issue. -/
  iss : Nat
  cmd : Nat
  /-- How many of its K rows their banks have served (R94, R95). -/
  got : Nat
  deriving DecidableEq, Repr

/-- A weight bank (R245). Weights are raw elements, one list over k for each column; bitmaps and scales keyed by column. -/
structure WBank where
  /-- 0 to 6, or 7 for none. -/
  fmt : Nat
  /-- 0 dense, 1 and 2 replicated s = 8, 16, 3 and 4 distinct s = 8, 16 (R256). -/
  mode : Nat
  w : List (List Nat)
  bitmap : Table Nat
  scales : Table (List Nat)
  metaValid : Bool
  deriving DecidableEq, Repr

/-- A stream context (R250). -/
structure Ctx where
  bank : Nat
  scaled : Bool
  shift : Nat
  deriving DecidableEq, Repr

/-- A weight load under way (R246 to R248). -/
structure MLoad where
  bank : Nat
  /-- 0 MLDW, 1 MLDW.BD, 2 MLDB, 3 MWCLR. -/
  kind : Nat
  t : Nat
  mode : Nat
  port : Nat
  left : Nat
  popped : List (List Byte)
  next : Nat
  switchAt : Nat
  cmd : Nat
  deriving DecidableEq, Repr

/-- A stream whose rows enter (R251, R252). -/
structure MStream where
  view : View
  row : Nat
  rows : Nat
  gather : Bool
  port : Nat
  t : Nat
  prof : Nat
  neg : Bool
  zero : Bool
  bank : Nat
  scaled : Bool
  next : Nat
  /-- The cycle of its issue. -/
  iss : Nat
  cmd : Nat
  /-- Register clusters that were not ON at its issue in a run, or have left ON since (R198). -/
  off : List Nat
  deriving DecidableEq, Repr

/-- A row between entry and accumulation (R251): its terms, to be summed at `at_`. -/
structure MRow where
  at_ : Nat
  addr : Nat
  zero : Bool
  prof : Nat
  terms : List (List FV)
  last : Bool
  /-- The cycle of its stream's issue. -/
  iss : Nat
  cmd : Nat
  deriving DecidableEq, Repr

/-- A drain, MCLR or MSTAT under way (R255, R256). -/
structure MDrain where
  /-- 0 MDRN, 1 MDRNC, 2 MDRNR, 3 MCLR, 4 MSTAT. -/
  kind : Nat
  view : View
  row : Nat
  rows : Nat
  port : Nat
  t : Nat
  prof : Nat
  shift : Nat
  next : Nat
  /-- Beats converted and not yet pushed: push cycle, bytes. -/
  pushes : List (Nat × List Byte)
  /-- The cycle of its issue. -/
  iss : Nat
  cmd : Nat
  /-- Register clusters that were not ON at its issue in a run, or have left ON since (R198). -/
  off : List Nat
  deriving DecidableEq, Repr

/-- The matrix engine (R245 to R256). -/
structure MEng where
  bank0 : WBank
  bank1 : WBank
  ctx : Table Ctx
  loads : List MLoad
  stream : Option MStream
  rows : List MRow
  drain : Option MDrain
  /-- Drains whose rows are read and whose pushes are still to come. -/
  pushing : List MDrain
  deriving DecidableEq, Repr

/-- BANKCFG (R98). -/
structure BankCfg where
  mode : Nat
  slice : Nat
  way : Nat
  changing : Bool
  fifoHead : Bool
  fifoSpan : Nat
  worldTag : Nat
  launchTag : Nat
  deriving DecidableEq, Repr

/-- A mode change under way (R99): what opens, and when. -/
structure BankChange where
  key : Nat
  cfg : BankCfg
  endAt : Nat
  deriving DecidableEq, Repr

/-- FIFOST of a FIFO (R105). -/
structure Fifo where
  count : Nat
  head : Nat
  tail : Nat
  deriving DecidableEq, Repr

/-- A slice line (R101): plaintext, and the LRU age. -/
structure Line where
  cluster : Nat
  slice : Nat
  way : Nat
  id : Nat
  line : Nat
  bytes : List Byte
  dirty : Bool
  /-- Classes of the core's stores to it since it was last clean (R344). -/
  classes : W16
  /-- The number of the first of those stores. -/
  first : Option Nat
  tenant : Nat
  age : Nat
  /-- The bytes stored to it since it was last clean. -/
  stored : List (Nat × Nat)
  /-- The words that plain stores wrote since, which the detector sees as the line reaches its port, and their epoch (R344, R355). -/
  plain : W16
  epoch : Nat
  deriving DecidableEq, Repr

/-- A timed bank request (R95, R96): bank cycle, requester number, order of issue, and what it does. -/
inductive TReqDo where
  /-- Write bytes. -/
  | write (bytes : List Byte)
  /-- Read into an s register: size, sign, landing cycle. -/
  | readS (r size : Nat) (signed : Bool) (land : Nat)
  /-- Read into a c register. -/
  | readC (r land : Nat)
  /-- Read a beat of a generator. -/
  | readAG (g n : Nat)
  /-- Read a gather row: the number of the fill and the row. -/
  | readG (fill n : Nat)
  /-- Read, and write the bytes elsewhere at a cycle: cluster SRAM (key, and the lane as a byte), object or register space. -/
  | move (n : Nat) (land : Nat) (dst : Tgt) (num : Nat)
  /-- Read an object at the cycle, at no bank, and write the bytes elsewhere as above. -/
  | fetch (cap : Cap) (off n : Nat) (land : Nat) (dst : Tgt) (num : Nat)
  /-- Occupy the bank: the bytes were read at the issue. -/
  | touch
  /-- Read n bytes, and send them to a core as a timed piece, by a link or by port 6 (R131, R151). -/
  | send (n pkg core link : Nat) (p : Piece)
  /-- Send the request of a timed GET, at no bank. -/
  | ask (pkg core link : Nat) (p : Piece)
  /-- Combine a piece of a timed PUTRED: operation, wire type, bytes; `own`: this core is its destination or its
  issuer (R162, R163). -/
  | red (op wire : Nat) (bytes : List Byte) (own : Bool)
  deriving DecidableEq, Repr

/-- A timed request at a bank. `order`: order of issue, or for requester 128 four times the link plus the lane (R95).
`core`: of the core, at a cluster address of its own; otherwise the router's, at 2^24 ×
cluster + cluster address. -/
structure TReq where
  cycle : Nat
  num : Nat
  order : Nat
  addr : Nat
  core : Bool
  act : TReqDo
  /-- The cycle of its issue. -/
  iss : Nat
  /-- It belongs to this core, whose SRAMSTICKY tells how it fares (R96). -/
  own : Bool
  deriving DecidableEq, Repr

/-- For whom a bank serves an untimed request of C, the router or a slice (R94, R95). -/
inductive BOwner where
  /-- Nothing waits for it. -/
  | none
  /-- A command of C. -/
  | cmd (id : Nat)
  /-- The next word of C, for what it reads before its issue: its record, index list or image. -/
  | pre
  /-- Fabric data landing at this package. -/
  | fab (id : Nat)
  /-- A visit of a shuttle. -/
  | visit (id : Nat)
  deriving DecidableEq, Repr

/-- What an untimed request does in its bank cycle (R95). -/
inductive BAct where
  /-- Occupy the bank: its bytes are taken elsewhere. -/
  | touch
  /-- Read n bytes for part i of its owner, at offset o of that part. -/
  | read (i o n : Nat)
  | write (bytes : List Byte)
  /-- CATOM: one atomic step of the operation of R139. -/
  | atom (op : Nat) (v : W64)
  /-- PUTRED: combine elements (R163); `own`: of this core's form. -/
  | red (op wire : Nat) (bytes : List Byte) (own : Bool)
  /-- ADDW: add to the dword (R175). -/
  | add (v : W64)
  deriving DecidableEq, Repr

/-- An untimed request that waits at a bank (R94, R95): requester number, address as `Sram.bytes` is keyed, what it does, for
whom, and the world it is checked for; none where no check is made (a slice's own). -/
structure BItem where
  num : Nat
  addr : Nat
  act : BAct
  own : BOwner
  world : Option Nat
  deriving DecidableEq, Repr

/-- The cluster SRAM of the package (R93 to R107). Bytes are keyed 2^24 × cluster + cluster address, banks
256 × cluster + bank. -/
structure Sram where
  bytes : List Host.Cell
  cfg : Table BankCfg
  changes : List BankChange
  /-- Round-robin pointer of each bank: the requester number it stands before (R94). -/
  rr : Table Nat
  served : List Nat
  timed : List TReq
  order : Nat
  /-- Untimed requests of C, the router and the slices, in the order in which they came. -/
  queue : List BItem
  /-- What reads of the queue have returned: owner, part, offset, bytes. -/
  got : List (BOwner × Nat × Nat × List Byte)
  fifo : Table Fifo
  lines : List Line
  age : Nat
  /-- SLICEWAY: Mask and Limit, keyed 16 × cluster + 4 × slice + tenant. -/
  way : Table (Nat × Nat)
  hits : Table W64
  misses : Table W64
  bcstall : Table W64
  pendEn : Table Bool
  deriving DecidableEq, Repr

/-- The cipher identity of a 16-byte block (R84): key serial, domain, object, unit, block index. -/
structure BlkTag where
  key : Nat
  dom : Nat
  obj : Nat
  unit : Nat
  blk : Nat
  deriving DecidableEq, Repr

/-- Whose access is parked (R83): a load or store of S by its number, its blocking form, a visit, the request of C's fabric
form. -/
inductive ParkWho where
  | load (seq : Nat)
  | store (seq : Nat)
  | blk
  | visit (id : Nat)
  | ask
  /-- A request of another core (R141). -/
  | req (r : FabReq)
  deriving DecidableEq, Repr

/-- A parked access (R83): whose it is; when it retries; its present wait; its port. -/
structure Parked where
  who : ParkWho
  retryAt : Nat
  wait : Nat
  port : Nat
  deriving DecidableEq, Repr

/-- The bolt pool of an interface (Bolts, before R86): object IDs, key slots, pages keyed 8 × tier + size;
every list rises, and its first is given first (R472). -/
structure Pool where
  ids : List Nat
  slots : List Nat
  pages : Table (List Nat)
  deriving DecidableEq, Repr

/-- A bolt that was cut and whose pages are not yet released (R89). -/
structure BoltRel where
  id : Nat
  vi : Nat
  slot : Nat
  pages : List (Nat × Nat)
  at_ : Nat
  /-- The cycle by which the release has taken place. -/
  last : Nat
  /-- The key killed, under which accesses translated earlier still complete (R89). -/
  key : Nat
  deriving DecidableEq, Repr

/-- A detector signature (R355). -/
structure Sig where
  port : Nat
  id : Nat
  line : Nat
  words : W16
  core : Nat
  epoch : Nat
  order : Nat
  /-- Number of the launch whose store it was (R354). -/
  launch : Nat
  deriving DecidableEq, Repr

/-- Main memory (R62 to R91, R355). -/
structure MainMem where
  xk4m : Bool
  phys : List Host.Cell
  tags : Table (Option BlkTag)
  keySlot : Table Nat
  worldKey : Table Nat
  pkgKey : Nat
  keySerial : Nat
  obj : Table (Option ObjEntry)
  port : Table (Option ObjEntry)
  otBase : W64
  /-- Entries at other bases than the present one, keyed by physical address / 64 (R71). -/
  ots : Table (Option ObjEntry)
  /-- An invalidation under way: scope and target. -/
  inv : Option (Nat × Nat)
  retryCeil : Table Nat
  parkedTotal : Table Nat
  parked : List Parked
  pools : Table Pool
  rels : List BoltRel
  /-- Physical addresses of bytes with an uncorrectable error (R65). -/
  bad : List Nat
  sigs : List Sig
  sigOrder : Nat
  /-- Numbers of the launches with DetLost raised (R356). -/
  detLost : List Nat
  /-- The sealed-key entry to which an object is bound: 16 × interface + entry (R413). -/
  bound : Table (Option Nat)
  deriving DecidableEq, Repr

/-- A stream of a run (R26, R328): words, position, loop stack (start, end, passes left), next issue, its engine's
state. -/
structure Stream where
  words : List W32
  pos : Nat
  loops : List (Nat × Nat × Nat)
  next : Nat
  deriving DecidableEq, Repr

/-- Where a timed run stands. -/
inductive Phase where
  | off | lead | running | held
  deriving DecidableEq, Repr

/-- An abort under way (R369): the cycle of its detection, its group, the frame that this member will record, and the code by
which the group restarts or ends (R371). -/
structure Abort where
  at_ : Nat
  group : Nat
  frame : FaultRec
  code : Nat
  deriving DecidableEq, Repr

/-- The timed run of the core (R327 to R329, R369). -/
structure Run where
  phase : Phase
  t0 : Nat
  len : Nat
  group : Nat
  issued : Nat
  s : Stream
  v : Stream
  m : Stream
  c : Stream
  /-- A failure found at stream load or in the run (R328, R369). -/
  fail : Option FaultRec
  abort : Option Abort
  /-- Offset 0 has been reached. -/
  started : Bool
  /-- It is a RUN.SEAM, and some word of its streams uses a pattern slot (R364). -/
  slots : Bool
  /-- The last runs: from offset 0 to their end (R107). -/
  past : List (Nat × Nat)
  deriving DecidableEq, Repr

/-- Hold state of a group (R367). -/
structure GHold where
  /-- 0 NONE, 1 PENDING, 2 HELD. -/
  st : Nat
  q : Nat
  late : Bool
  noticed : Bool
  /-- The last lift. -/
  lift : Nat
  /-- A router has requested it, for a DEADLINE_MISS (R158). -/
  miss : Bool
  deriving DecidableEq, Repr

/-- The hold of a group of another launch with a member on this package (R367, R368): launch number, group, its members, its
notice. -/
structure OtherHold where
  launch : Nat
  group : Nat
  members : List Nat
  notice : Nat
  hold : GHold
  deriving DecidableEq, Repr

/-- A group of the launch as this core sees it (R364, R378, R381). -/
structure Group where
  members : List Nat
  rel : Nat
  grain : Nat
  parent : Option Nat
  notice : Nat
  ratio : Nat
  /-- Span of R364; 0 when all members lie in one package. -/
  span : Nat
  /-- Members on this package. -/
  here : Bool
  /-- Arrivals counted, keyed by logical core. -/
  arrived : Table Nat
  /-- Seams released. -/
  released : Nat
  /-- The cycle in which the last arrival was counted, while the seam is met and not released. -/
  met : Option Nat
  releaseAt : Nat
  /-- A hold is in force at r0: the release waits for the lift (R366). -/
  withheld : Bool
  /-- The lift has come: the release stands at its new cycle (R366). -/
  fixed : Bool
  restartable : Bool
  hold : GHold
  exited : List Nat
  deriving DecidableEq, Repr

/-- A restart record of the core (R370), and how often it has been used. -/
structure Restart where
  group : Nat
  regs : Regs
  ctl : Ctl
  views : Table View
  power : Table (Nat × Nat)
  shadows : List (Option Nest)
  gdesc : Option GDesc
  dq : Table DQueue
  iss : Table W32
  cmp : Table W32
  v : Chain
  m : Chain
  c : Chain
  cx : CExtra
  uses : Nat
  /-- Seams of the group released before this one. -/
  seams : Nat
  deriving DecidableEq, Repr

/-- Groups, seams, holds and restart of the launch (R330, R364 to R371). -/
structure Groups where
  table : Table (Option Group)
  detGroup : Option Nat
  holdGroup : Nat
  holdLaunch : Nat
  /-- The restart record of each group (R370). -/
  restart : Table (Option Restart)
  /-- The panel map: package coordinates, cores, first logical core (R378). -/
  panel : List (Nat × Nat × Nat)
  /-- The core waits for a group's restart: the group, and the code decided on (R371). -/
  waitRestart : Option (Nat × Nat)
  failover : Bool
  deriving DecidableEq, Repr

/-- A link of the torus (R153 to R164, R362, R417). -/
structure Link where
  /-- 0 UP, 1 REPLAY, 2 RETRAIN, 3 DOWN, 4 ABSENT (R164). -/
  st : Nat
  replays : Nat
  retrains : Nat
  misses : Nat
  expect : BitVec 12
  nextSeq : BitVec 12
  /-- The replay buffer: the flits sent and not acknowledged, oldest first (R153). -/
  buffer : List SentFlit
  /-- Those of them still to be resent in the replay under way; the failed replays of the block at which the far end stands, with
  that block: key epoch and counter (R153, R154). -/
  again : List SentFlit
  txFails : Nat
  txBlock : Option (W32 × Nat)
  /-- Timed flits that wait to leave, with the slot from which each may: 4 × cycle + lane (R153, R157). -/
  wait : List (Nat × Flit)
  /-- Untimed flits queued for the link (R174); the interface whose turn it is, and the flits left of its turn (R148). -/
  out : List Flit
  turn : Nat
  left : Nat
  /-- Failed replays of the block now being received (R154). -/
  fails : Nat
  retrainAt : Nat
  /-- Flits sent and received under the present keys: 16 to a block (R155). -/
  txNo : Nat
  rxNo : Nat
  txKey : Nat
  rxKey : Nat
  txEpoch : W32
  rxEpoch : W32
  txNew : Option (Nat × W32)
  rxNew : Option (Nat × W32)
  /-- Keys replaced and kept until every block sent under them is acknowledged (R417). -/
  txOld : Option (Nat × W32)
  rxOld : Option (Nat × W32)
  /-- Training is done: the frame start at which the link comes UP (R154). -/
  upAt : Option Nat
  /-- Departure of the last sync flit that the far end has acknowledged, and whether there is one since the link came UP; arrival
  stamp of the last one received; in 1/64 tape cycle (R362). -/
  syncDep : Int
  syncSeen : Bool
  syncArr : Int
  syncSent : Nat
  offset : Int
  delay : Int
  valid : Bool
  disabled : Bool
  deriving DecidableEq, Repr

/-- Fabric data taking effect (R141 step 5): its number; the cycle before which its object bytes do not; whether its writes have
been handed to their banks; the data. -/
structure Landing where
  id : Nat
  at_ : Nat
  out : Bool
  data : FabData
  deriving DecidableEq, Repr

/-- An untimed PUT or PUTRED whose data has still to leave, or a GET whose asking has (R62, R95, R141): the command; the cycle before
which its source has not been read; the data, a scratchpad source still to be filled in. -/
structure Leaving where
  cmd : Nat
  at_ : Nat
  data : FabData
  deriving DecidableEq, Repr

/-- A timed piece as it left for another package (R131, R151, R156): package, logical core, the link of the route, how many links
its detour adds, the lateness that it had on leaving or will have by those links, and the piece, whose cluster and launch number
are for that package to fill in. -/
structure SentPiece where
  pkg : Nat
  core : Nat
  link : Nat
  added : Nat
  late : Nat
  piece : Piece
  deriving DecidableEq, Repr

/-- What is installed for a launch before it is bound (R149, R379, R382 step 5): the slots that its pattern and its failover pattern
mark, with their kinds, keyed by resource; their crossbar slots; its routes, and those of the failover pattern, where it has one. -/
structure Installed where
  pattern : Table (List (Nat × Nat))
  failPattern : Table (List (Nat × Nat))
  xbar : List Nat
  failXbar : List Nat
  routes : List (Nat × Nat × List Nat)
  failRoutes : Option (List (Nat × Nat × List Nat))
  deriving DecidableEq, Repr

/-- The fabric as the package holds it (R146 to R164, R141). -/
structure Fabric where
  coord : Nat
  dims : Nat
  links : Table Link
  /-- Grant masks, keyed 8 × interface + resource: the slots granted. -/
  grants : Table (List Nat)
  /-- Slots that the installed pattern marks, with their kinds, keyed by resource of R379. -/
  pattern : Table (List (Nat × Nat))
  failPattern : Table (List (Nat × Nat))
  /-- Crossbar slots that the pattern in force of a launch marks, keyed by launch number: in the clusters that it uses (R379). -/
  xbar : Table (List Nat)
  /-- The patterns and routes of each launch that has a number (R382 step 5). -/
  installed : Table (Option Installed)
  /-- Routes in force: destination, ease, links crossed (R149, R150). -/
  routes : List (Nat × Nat × List Nat)
  /-- The routes and the crossbar slots of the failover pattern; none where the launch has no failover pattern (R149, R379). -/
  failRoutes : Option (List (Nat × Nat × List Nat))
  failXbar : List Nat
  pieces : List Piece
  /-- Fabric data of this core that has still to leave. -/
  leaving : List Leaving
  /-- Fabric data held for its call. -/
  held : List FabData
  /-- Fabric data taking effect (R141 step 5). -/
  landing : List Landing
  landNo : Nat
  /-- Requests this package has granted to others. -/
  served : List FabReq
  /-- Requests held back at a port that has no room to park them (R83). -/
  back : List FabReq
  /-- Flits that an interface sends in its turn at a link, as firmware weighs it; 0 counts as 1 (R148). -/
  weights : Table Nat
  /-- Requests and data of untimed fabric forms that this core has sent to other packages, in order (R141). -/
  asks : List FabReq
  sent : List FabData
  /-- Timed pieces that have left for other packages, in order. -/
  sentPieces : List SentPiece
  counters : Table W64
  dcPart : Table W64
  deriving DecidableEq, Repr

/-- The access of a shuttle's word under way (R171, R175, R177): window, offset, bytes, rights; where it stands: 0 it has still to be
translated, 1 at memory until `ready`, 2 at its bank; the capability and control word of the window and the package counter, as its
checks found them. -/
structure ShAcc where
  w : Nat
  o : Nat
  n : Nat
  need : Nat
  stage : Nat
  ready : Nat
  cap : Cap
  ctl : Nat
  ctr : Nat
  deriving DecidableEq, Repr

/-- A visit of a shuttle (R169 to R177), by its number. -/
structure Visit where
  id : Nat
  sh : Shuttle
  link : Nat
  at_ : Nat
  steps : Nat
  /-- Copies queued by CLONE in this visit. -/
  clones : Nat
  /-- The cycle of its next word (R171). -/
  next : Nat
  acc : Option ShAcc
  deriving DecidableEq, Repr

/-- A park record (R184). -/
structure ParkRec where
  seq : Nat
  tenant : Nat
  cause : Nat
  link : Nat
  at_ : Nat
  sh : Shuttle
  steps : Nat
  operand : W64
  deriving DecidableEq, Repr

/-- Shuttles at the router (R166 to R189). -/
structure Shuttles where
  perm : Table W64
  winCap : Table Cap
  winCtl : Table W64
  /-- Arrival buffer, in order of arrival: link and shuttle. -/
  buffer : List (Nat × Shuttle)
  /-- Visits under way, at most 16 (R172). -/
  eng : List Visit
  /-- The tenant granted last (R172). -/
  rr : Nat
  departed : List (Nat × Shuttle)
  parks : List ParkRec
  parkNo : Nat
  visits : Nat
  /-- Visits begun so far: the number of the next. -/
  visitNo : Nat
  parkCount : Nat
  drops : Nat
  deriving DecidableEq, Repr

/-- The save of a pre-empted core (R211, R261, R298, R389): its launch, its logical core, and what is kept of it. `bytes`
holds the live bytes of its register space; generators keep their nests and their next beat. -/
structure Saved where
  no : Nat
  logical : Nat
  regs : Regs
  ctl : Ctl
  code : Code
  rs : RegSpace
  dq : Table DQueue
  iss : Table W32
  cmp : Table W32
  v : Chain
  m : Chain
  c : Chain
  cx : CExtra
  grp : Groups
  epoch : Nat
  /-- The group of a run whose end a hold delays (R392). -/
  held : Option Nat
  deriving DecidableEq, Repr

/-- A launch of the package (R377, R386, R393, R426). -/
structure Launch where
  vi : Nat
  id : W64
  seq : W64
  /-- 0 QUEUED, 1 LEASING, 2 READY, 3 RUNNING, 4 STOPPING, 5 SAVED, 6 RETIRING. -/
  st : Nat
  no : Nat
  status : Nat
  record : List Byte
  world : Nat
  leases : List (Nat × Nat × Bool)
  bolts : List Nat
  depends : List W64
  preemptions : Nat
  /-- The chain value H, and the records that made it (R426 to R428). -/
  chain : List Byte
  recs : List (List Byte)
  accept : Nat
  tainted : Bool
  /-- Watched ranges: object, first byte, one past the last (R429). -/
  watch : List (Nat × Nat × Nat)
  det : Bool
  /-- When the scrub may end; 0 before it begins (R393). -/
  scrubAt : Nat
  /-- Banks whose content firmware has copied to the bank area, by key (R390). -/
  copied : List Nat
  /-- The cycle of its dispatch or last resume (R387). -/
  since : Nat
  deriving DecidableEq, Repr

/-- What is kept of a retired launch (R394, R430). -/
structure Retained where
  vi : Nat
  id : W64
  status : Nat
  chain : List Byte
  recs : List (List Byte)
  accept : Nat
  tainted : Bool
  det : Bool
  world : Bool
  deriving DecidableEq, Repr

/-- A checkpoint image (R442): object table with the world each ID is bound to, pages with the identities of their blocks, the
checkpoint key under which those outside every world stand, that key as the seal key wraps it, banks. -/
structure Image where
  obj : Table (Option ObjEntry)
  /-- The world entries to which object IDs are bound (R413). -/
  bound : Table (Option Nat)
  phys : List Host.Cell
  tags : Table (Option BlkTag)
  /-- Serial of the checkpoint key. -/
  key : Nat
  /-- The checkpoint key wrapped by the package seal key (R410). -/
  wrapped : List Byte
  bytes : List Host.Cell
  cfg : Table BankCfg
  fifo : Table Fifo
  deriving DecidableEq, Repr

/-- Firmware and dispatch (R383 to R395, R440 to R442). -/
structure Firmware where
  /-- BINDENT without State; State of each core. -/
  bind : Table W64
  bindSt : Table Nat
  /-- BINDGO: launch and cycle of the write. -/
  go : Option (Nat × Nat)
  launches : List Launch
  /-- Retained statuses and chains, oldest first. -/
  retained : List Retained
  leaseMask : Table W64
  /-- Islands: ratio and voltage, deferred write, trip (R440). -/
  islands : Table (W64 × Option W64 × Bool)
  /-- Snapshot copies, keyed by register; SNAPSEQ; the cycle of the last snapshot (R441). -/
  snap : Table W64
  snapSeq : W64
  snapAt : Option Nat
  /-- The image in the safe tier, and how the last checkpoint command ended (R442, R443). -/
  ckpt : Option Image
  ckptStatus : Nat
  /-- Cores saved and not resumed (R389). -/
  saved : List Saved
  /-- Cores whose save has been restored into them and that have still to start (R391). -/
  back : List Nat
  /-- Other cores of this package that are done (R333, R386). -/
  doneCores : List Nat
  /-- Holds of groups of other launches here (R368). -/
  holds : List OtherHold
  deriving DecidableEq, Repr

/-- A ring of an interface (R421 to R424, R436). -/
structure Ring where
  base : W64
  size : W64
  head : W64
  tail : W64
  /-- 0 to 3 as RINGST; replays; authentication failures. -/
  st : Nat
  replays : Nat
  authFails : Nat
  n : W64
  key : Option (BitVec 256)
  resyncs : Nat
  deriving DecidableEq, Repr

/-- A virtual interface's trust state (R418 to R424). -/
structure Vi where
  /-- 0 DISABLED, 1 OPEN, 2 LOCKED, 3 RUN. -/
  st : Nat
  cfgPending : Bool
  stopping : Bool
  refused : Bool
  rings : Table Ring
  cplBase : W64
  cplSize : W64
  cplHead : W64
  cplTail : W64
  /-- Completion records held back while the ring is full. -/
  heldRecs : List (List Byte)
  /-- Live copies that the effective ones have not taken, keyed by configuration register (R418). -/
  live : Table (Option W64)
  deriving DecidableEq, Repr

/-- A sealed-key table entry (R409). -/
structure SealedKey where
  key : Option Nat
  gen : Nat
  high : Nat
  deriving DecidableEq, Repr

/-- Rings, worlds, receipts, host (R409 to R436). -/
structure Trust where
  vis : Table Vi
  keys : Table SealedKey
  worlds : List (Nat × Nat × Nat)
  host : List Host.Cell
  receipts : W64
  signing : Nat
  deriving DecidableEq, Repr

/-- The whole machine. -/
structure State where
  clk : Clock
  env : Env
  /-- The engine whose word the step runs (R27); IDLE and LOOP read it. -/
  actor : Engine
  regs : Regs
  ctl : Ctl
  code : Code
  sx : SIssue
  trap : Trap
  pend : List Pend
  iss : Table W32
  cmp : Table W32
  cv : Chain
  cm : Chain
  cc : Chain
  cx : CExtra
  rs : RegSpace
  dq : Table DQueue
  dpend : List DPend
  me : MEng
  run : Run
  sram : Sram
  mem : MainMem
  fab : Fabric
  sh : Shuttles
  grp : Groups
  fw : Firmware
  tr : Trust
  deriving DecidableEq, Repr

/-- A chain engine after reset (R325, R384). -/
def Chain.reset : Chain :=
  { win := 0, st := 0, prev := 0, pos := 0, e := 0, t := 0, loops := [], cur := none, after := none, next := 0,
    cmds := [], ids := 0, hist := [], compSeq := 0, compCount := 0, stopping := false, cut := none, base := 0,
    served := none }

/-- The views of R384. -/
def View.reset : View := ⟨0, 0, 0, 1, 262144, 0, 0⟩

/-- An address generator that was never loaded (R384). -/
def AGen.reset : AGen := ⟨none, none, 0, 0, 0, 0, false, [], [], 6, false, false⟩

/-- A weight bank after reset (R245). -/
def WBank.reset : WBank := ⟨7, 0, [], [], [], false⟩

/-- Bank configuration after reset (R98). -/
def BankCfg.reset : BankCfg := ⟨0, 0, 0, false, false, 0, 0, 0⟩

/-- An empty deferral queue (R298). -/
def DQueue.reset : DQueue := ⟨[], 0⟩

/-- An empty stream. -/
def Stream.reset : Stream := ⟨[], 0, [], 0⟩

/-- No run. -/
def Run.reset : Run := ⟨.off, 0, 0, 0, 0, .reset, .reset, .reset, .reset, none, none, false, false, []⟩

/-- A link after reset (R164). -/
def Link.reset : Link :=
  { st := 0, replays := 0, retrains := 0, misses := 0, expect := 0, nextSeq := 0, buffer := [], again := [], txFails := 0, txBlock := none,
    wait := [], out := [], turn := 0, left := 0, fails := 0,
    retrainAt := 0, txNo := 0, rxNo := 0, txKey := 0, rxKey := 0, txEpoch := 0, rxEpoch := 0, txNew := none, rxNew := none,
    txOld := none, rxOld := none, upAt := none, syncDep := 0, syncSeen := false, syncArr := 0, syncSent := 0, offset := 0, delay := 0, valid := false,
    disabled := false }

/-- A ring after reset (R424: State 3). -/
def Ring.reset : Ring := ⟨0, 0, 0, 0, 3, 0, 0, 0, none, 0⟩

/-- An interface after reset (R418). -/
def Vi.reset : Vi := ⟨0, false, false, false, [], 0, 0, 0, 0, [], []⟩

/-- An empty sealed-key entry (R409). -/
def SealedKey.reset : SealedKey := ⟨none, 0, 0⟩

/-- The empty pool of an interface. -/
def Pool.reset : Pool := ⟨[], [], []⟩

/-- S before any dispatch. -/
def SIssue.reset : SIssue :=
  { on := false, next := 0, hold := .no, blk := none, loads := [], landed := [], stores := [], comb := [], seq := 0, epoch := 0,
    sigs := [], safe := none, preempt := false, done := false, saved := false }

/-- Nothing stopped. -/
def Trap.reset : Trap := ⟨none, 0, false, (0, 0), false, none, none, false, [], false⟩

/-- Special registers after reset (R236: QBLKCTL 3; the others 0). -/
def Ctl.reset : Ctl :=
  { coreId := 0, lcore := 0, panel := 0, launchNo := 0, vi := 0, world := 0, vctl := 0, vsticky := 0, msticky := 0,
    csticky := 0, regsticky := 0, sramsticky := 0, ssticky := 0, qblkctl := 3, dqctl := 0, slicesel := 0,
    cboundinfo := 0, mgmt := false, defProf := 0 }

/-- C's own state after reset (R128, R140, R142). -/
def CExtra.reset : CExtra := ⟨[], none, [], false, false, false, []⟩

/-- The register space after reset. -/
def RegSpace.reset : RegSpace := ⟨[], [], [], [], none, [], [], [], 0⟩

/-- The matrix engine after reset (R245, R250). -/
def MEng.reset : MEng := ⟨.reset, .reset, [], [], none, [], none, []⟩

/-- The machine right after package reset (R18, R437, R438). -/
def State.reset : State :=
  { clk := ⟨0, 0, 0x000FB991#32, 0, 0, 0, false, false, none⟩
    env := ⟨[], [], 0, [], [], []⟩
    actor := .s
    regs := ⟨[], [], [], [], 0⟩
    ctl := .reset
    code := ⟨0, 0, 0, 0, 0, 0, 0, 0⟩
    sx := .reset
    trap := .reset
    pend := []
    iss := []
    cmp := []
    cv := .reset
    cm := .reset
    cc := .reset
    cx := .reset
    rs := .reset
    dq := []
    dpend := []
    me := .reset
    run := .reset
    sram := ⟨[], [], [], [], [], [], 0, [], [], [], [], 0, [], [], [], [], []⟩
    mem := { xk4m := true, phys := [], tags := [], keySlot := [], worldKey := [], pkgKey := 1, keySerial := 1, obj := [],
             port := [], otBase := 0, ots := [], inv := none, retryCeil := [], parkedTotal := [], parked := [], pools := [],
             rels := [], bad := [], sigs := [], sigOrder := 0, detLost := [], bound := [] }
    fab := { coord := 0, dims := 0, links := [], grants := [], pattern := [], failPattern := [], xbar := [], installed := [],
             routes := [], failRoutes := none, failXbar := [], pieces := [], leaving := [], held := [], landing := [], landNo := 0,
             served := [], back := [], weights := [], asks := [], sent := [], sentPieces := [], counters := [], dcPart := [] }
    sh := ⟨[], [], [], [], [], 63, [], [], 0, 0, 0, 0, 0⟩
    grp := ⟨[], none, 0, 0, [], [], none, false⟩
    fw := { bind := [], bindSt := [], go := none, launches := [], retained := [], leaseMask := [], islands := [], snap := [],
            snapSeq := 0, snapAt := none, ckpt := none, ckptStatus := 0, saved := [], back := [], doneCores := [], holds := [] }
    tr := ⟨[], [], [], [], 0, 0⟩ }

end Sys2Proof.Machine
end

