-- ==== Sys2Proof/Machine/Ops.lean ====
section
/-! DEFINITION. The named operations over registers, pending writes, capabilities, objects and cluster SRAM, and taking
a fault (R397 to R406). Every meaning is written over these. -/

namespace Sys2Proof.Machine

/-- What every meaning answers. -/
abbrev Out := Host.Outcome State Fault Refusal

/-! ### Registers -/

/-- Read s register r; s0 reads as zero (R300). -/
def State.sreg (s : State) (r : Nat) : W64 := if r = 0 then 0 else tget 0 s.regs.s r
/-- Read c register r (R300). -/
def State.creg (s : State) (r : Nat) : Cap := tget 0 s.regs.c r
/-- Read b register r (R300). -/
def State.breg (s : State) (r : Nat) : W64 := tget 0 s.regs.b r
/-- Read m register r (R267). -/
def State.mreg (s : State) (r : Nat) : Mask := tget 0 s.regs.m r
/-- Write s register r; a write to s0 is discarded (R300). -/
def State.setS (s : State) (r : Nat) (v : W64) : State :=
  if r = 0 then s else { s with regs := { s.regs with s := tset 0 s.regs.s r v } }
/-- Write c register r (R300). -/
def State.setC (s : State) (r : Nat) (v : Cap) : State := { s with regs := { s.regs with c := tset 0 s.regs.c r v } }
/-- Write b register r (R300). -/
def State.setB (s : State) (r : Nat) (v : W64) : State := { s with regs := { s.regs with b := tset 0 s.regs.b r v } }
/-- Write m register r (R267). -/
def State.setM (s : State) (r : Nat) (v : Mask) : State := { s with regs := { s.regs with m := tset 0 s.regs.m r v } }
/-- Set the PC. -/
def State.setPc (s : State) (v : W64) : State := { s with regs := { s.regs with pc := v } }

/-- The tape cycle (R358). -/
def State.now (s : State) : Nat := s.clk.tape
/-- Inside a timed run (R328): its offsets are running. -/
def State.timed (s : State) : Bool := s.run.phase = .running
/-- The core's cluster (R4). -/
def State.cluster (s : State) : Nat := s.ctl.coreId / 8
/-- The core's number in its cluster (R4). -/
def State.coreJ (s : State) : Nat := s.ctl.coreId % 8
/-- A free number for use `k` (log entry 5). -/
def State.freeNat (s : State) (k : Nat) : Nat := Config.freeNat s.env.free k
/-- Advance the counter of free values. -/
def State.bump (s : State) : State := { s with env := { s.env with free := s.env.free + 1 } }
/-- The extra latency of the next untimed access, taken from the delays (R62). -/
def State.delay (s : State) : Nat := s.env.delays.headD 0
/-- Drop the delay just taken. -/
def State.popDelay (s : State) : State := { s with env := { s.env with delays := s.env.delays.tail } }

/-- Does an island advance in this tape cycle: not tripped, and its turn at ratio 1, 1/2 or 1/4 (R372, R373, R440)? Which
cycle of 2 or 4 is its turn is left open: a free value (log entry 5). -/
def State.ticks (s : State) (island : Nat) : Bool :=
  let x := tget (0, none, false) s.fw.islands island
  let n := 2 ^ Nat.min 2 (x.1.toNat % 4)
  !x.2.2 && (n = 1 || s.clk.tape % n = Config.freeNat island 100 % n)
/-- Put a write in flight that was issued at `iss` (R9). -/
def State.pushIss (s : State) (iss due : Nat) (e : Engine) (t : Tgt) : State := { s with pend := s.pend ++ [⟨due, e, t, iss⟩] }
/-- Put a write in flight that issues now (R9). -/
def State.pushPend (s : State) (due : Nat) (e : Engine) (t : Tgt) : State := s.pushIss s.now due e t
/-- An S write of an s register, seen from `lat` cycles on (R9). -/
def State.wrS (s : State) (d : Nat) (v : W64) (lat : Nat) : State := s.pushPend (s.now + lat) .s (.sreg d v)
/-- An S write of a c register. -/
def State.wrC (s : State) (d : Nat) (v : Cap) (lat : Nat) : State := s.pushPend (s.now + lat) .s (.creg d v)
/-- An S write of a b register. -/
def State.wrB (s : State) (d : Nat) (v : W64) (lat : Nat) : State := s.pushPend (s.now + lat) .s (.breg d v)

/-! ### Issue -/

/-- After a word: leave every loop whose body has ended, or go back for its next pass (R44). -/
def closeLoops (pos : Nat) : List (Nat × Nat × Nat) → Nat × List (Nat × Nat × Nat)
  | [] => (pos, [])
  | (a, b, n) :: t =>
    if pos = b then (if n ≤ 1 then closeLoops pos t else (a, (a, b, n - 1) :: t))
    else (pos, (a, b, n) :: t)

/-- A stream moves past a word that held its slot for `k` cycles from `t` (R43, R44). -/
def Stream.adv (st : Stream) (t k : Nat) : Stream :=
  let r := closeLoops (st.pos + 1) st.loops
  { st with pos := r.1, loops := r.2, next := t + k }

/-- S moves past its instruction: the stream in a run, the PC outside (R301). -/
def State.advS (s : State) : State :=
  if s.timed then { s with run := { s.run with s := s.run.s.adv s.now 1 } }
  else { s with
    regs := { s.regs with pc := s.regs.pc + 4 }
    sx := { s.sx with next := s.now + 1, blk := none, safe := none } }

/-- S holds on a blocking form whose operands it has captured: it looks again in the next cycle (R301). -/
def State.block (s : State) (b : Blk) : State := { s with sx := { s.sx with blk := some b, next := s.now + 1 } }

/-- S holds in a wait form (R323). -/
def State.wait (s : State) (h : Hold) : State :=
  { s with sx := { s.sx with hold := h, next := s.now + 1 } }

/-! ### Faults -/

/-- The engine of a fault does nothing more in its cycle (R397); in a run its stream stands at the word (R369). -/
def State.stall (s : State) (src : Nat) : State :=
  let off := s.run.t0 + s.run.len
  if s.timed then
    if src = 0 then { s with run := { s.run with s := { s.run.s with next := off } } }
    else if src = 1 then { s with run := { s.run with v := { s.run.v with next := off } } }
    else if src = 2 then { s with run := { s.run with m := { s.run.m with next := off } } }
    else if src = 3 then { s with run := { s.run with c := { s.run.c with next := off } } }
    else s
  else if src = 0 then { s with sx := { s.sx with next := s.now + 1 } }
  else if src = 1 then { s with cv := { s.cv with next := s.now + 1 } }
  else if src = 2 then { s with cm := { s.cm with next := s.now + 1 } }
  else if src = 3 then { s with cc := { s.cc with next := s.now + 1 } }
  else s

/-- A fault found in a run becomes an abort (R369); outside, the first takes the frame, in the order S, V, M, C within
one cycle, and the first of the others, in the same order, is Second (R398). -/
def State.raiseF (s : State) (f : FaultRec) : State :=
  let s := s.stall f.src
  if s.run.phase ≠ .off && s.trap.stop.isNone then
    match s.run.fail with
    | some _ => s
    | none => { s with run := { s.run with fail := some f } }
  else
    match s.trap.stop with
    | none => { s with trap := { s.trap with stop := some f } }
    | some g =>
      if f.at_ = g.at_ ∧ f.src < g.src then
        { s with trap := { s.trap with
            stop := some f, multi := true, second := g.cause, secondOf := (g.at_, g.src) } }
      else if s.trap.multi && !(f.at_ = s.trap.secondOf.1 && f.src < s.trap.secondOf.2) then s
      else { s with trap := { s.trap with multi := true, second := f.cause, secondOf := (f.at_, f.src) } }

/-- A fault of engine `src` (0 S, 1 V, 2 M, 3 C) with what its frame will hold (R397, R399). -/
def State.fault (s : State) (src cause : Nat) (cap : Cap) (off : W64) (info : W64) : State :=
  s.raiseF ⟨s.now, cause, 0, src, cap, off, info, false, true⟩

/-- A form of S that traps is no longer blocked. -/
def State.unblock (s : State) : State := { s with sx := { s.sx with blk := none } }
/-- A trap of S with nothing but its code. -/
def State.trapS (s : State) (cause : Nat) : Out := .next (s.unblock.fault 0 cause 0 0 0)
/-- A fault of an S access: its capability and offset stand in the frame. -/
def State.trapAcc (s : State) (cause : Nat) (cap : Cap) (off : Nat) : Out :=
  .next (s.unblock.fault 0 cause cap (BitVec.ofNat 64 off) 0)

/-! ### Pending registers (R407) -/

/-- A register that a word reads. -/
inductive RegRef where
  | s (r : Nat)
  | c (r : Nat)
  | b (r : Nat)
  | m (r : Nat)
  deriving DecidableEq, Repr

/-- Is a write to the register in flight? -/
def pendingReg (ps : List Pend) (ls : List LoadRec) (r : RegRef) : Bool :=
  ps.any (fun p => match p.tgt, r with
    | .sreg x _, .s y => x = y && x ≠ 0
    | .creg x _, .c y => x = y
    | .breg x _, .b y => x = y
    | .mreg x _ _, .m y => x = y
    | _, _ => false) ||
  ls.any (fun l => match r with
    | .s y => l.dst = y && y ≠ 0
    | .c y => l.dst = 32 + y
    | _ => false)

/-- PendEn of the core's cluster (R107). -/
def State.pendEn (s : State) : Bool := tget false s.sram.pendEn s.cluster

/-- Was a write issued in a run: it sets no pending bit (R107)? -/
def State.inPast (s : State) (iss : Nat) : Bool := s.run.past.any (fun r => r.1 ≤ iss && iss < r.2)
/-- Is the pending bit of one of these registers set (R407)? A write issued in a run sets none (R107). -/
def State.pendingAny (s : State) (rs : List RegRef) : Bool :=
  rs.any (pendingReg (s.pend.filter (fun p => !s.inPast p.iss)) s.sx.loads)
/-- An untimed read of a register whose pending bit is set, with PendEn (R407). -/
def State.shadow (s : State) (rs : List RegRef) : Bool :=
  s.pendEn && !s.timed && s.sx.blk.isNone && s.pendingAny rs

/-- An S word that reads the registers: SHADOW_READ, or its meaning (R407). -/
def State.reading (s : State) (rs : List RegRef) (k : Out) : Out := if s.shadow rs then s.trapS 0x002 else k

/-! ### Capabilities (R11) -/

/-- ObjectID (R11). -/
def capObj (c : Cap) : Nat := bitsOf c.toNat 104 24
/-- Rights (R11). -/
def capRights (c : Cap) : Nat := bitsOf c.toNat 96 8
/-- Lower (R11). -/
def capLower (c : Cap) : Nat := bitsOf c.toNat 48 48
/-- Upper (R11). -/
def capUpper (c : Cap) : Nat := bitsOf c.toNat 0 48
/-- Build a capability from its fields (R11). -/
def mkCap (obj rights lower upper : Nat) : Cap :=
  BitVec.ofNat 128 (obj % 2 ^ 24 * 2 ^ 104 + rights % 2 ^ 8 * 2 ^ 96 + lower % 2 ^ 48 * 2 ^ 48 + upper % 2 ^ 48)
/-- The ObjectID of scratchpad capabilities (R93). -/
def spadId : Nat := 0xFFFFFF
/-- A scratchpad capability? (R93) -/
def isSpad (c : Cap) : Bool := capObj c = spadId

/-- RD, WR, AT, EX, LC, SC, OW, TM as masks of the rights field (R66). -/
def rRD : Nat := 1
/-- WR (R66). -/
def rWR : Nat := 2
/-- AT (R66). -/
def rAT : Nat := 4
/-- EX (R66). -/
def rEX : Nat := 8
/-- LC (R66). -/
def rLC : Nat := 16
/-- SC (R66). -/
def rSC : Nat := 32
/-- OW (R66). -/
def rOW : Nat := 64
/-- TM (R66). -/
def rTM : Nat := 128

/-- Are all the needed rights there? -/
def hasRights (need have_ : Nat) : Bool := need &&& have_ = need

/-- Steps 1 and 2 of R67, in the issuing unit; `o` may be negative. -/
def checkCap (k : Cap) (need : Nat) (o : Int) (n : Nat) : Option Nat :=
  if !hasRights need (capRights k) then some 0x080
  else if o < capLower k || (capUpper k : Int) < o + n then some 0x081
  else none

/-! ### Objects (R67, R71, R72, R483) -/

/-- What a check of R67 answers. -/
inductive Chk where
  | ok
  | bad (code : Nat)
  | park (port : Nat)
  deriving DecidableEq, Repr

/-- Bytes of a page-size code (R72); codes 6 and 7 cover one unit. -/
def pageBytes (z : Nat) : Nat :=
  if z = 0 then 2 ^ 12 else if z = 1 then 2 ^ 16 else if z = 2 then 2 ^ 21 else if z = 3 then 2 ^ 25
  else if z = 4 then 2 ^ 30 else if z = 5 then 2 ^ 34 else 2 ^ 12
/-- Units of 4 KiB that a segment covers (R72). -/
def segUnits (g : Seg) : Nat := pageBytes g.pageSize / 4096
/-- Does the segment cover unit u? -/
def segCovers (g : Seg) (u : Nat) : Bool := g.valid && g.unit ≤ u && u < g.unit + segUnits g

/-- The memory port whose window holds a physical address (R483). -/
def portOf (p : Nat) : Option Nat :=
  if p < 2 ^ 39 then some (p / 2 ^ 36)
  else if 2 ^ 40 ≤ p && p < 2 ^ 40 + 2 ^ 41 then some (8 + (p - 2 ^ 40) / 2 ^ 39)
  else none
/-- The tier of a port (R483). -/
def tierOfPort (p : Nat) : Nat := if p < 8 then 0 else 1
/-- InWindow of R67: the page lies in a window of the segment's own tier (R483). -/
def inWindow (g : Seg) : Bool :=
  match portOf g.base with
  | some p => tierOfPort p = g.tier
  | none => false
/-- Populated of R67: the page lies wholly in the populated part of its window (R483). -/
def populated (xk4m : Bool) (g : Seg) : Bool :=
  if g.base < 2 ^ 39 then g.base % 2 ^ 36 + pageBytes g.pageSize ≤ 48 * 2 ^ 30
  else xk4m && (g.base - 2 ^ 40) % 2 ^ 39 + pageBytes g.pageSize ≤ 384 * 2 ^ 30

/-- The entry of an object as the ports see it: while a change waits for its invalidation, the old or the new one, freely
(R74). -/
def State.entry (s : State) (id : Nat) : Option ObjEntry :=
  let p := tget none s.mem.port id
  let o := tget none s.mem.obj id
  if p = o then p else if s.freeNat (256 + id) % 2 = 0 then p else o

/-- The segment covering a unit. -/
def segOf (e : ObjEntry) (u : Nat) : Option Seg := e.segs.find? (fun g => segCovers g u)

/-- The unit checks of R67 from unit `u` to `u1`, one segment at a time; then Held. -/
def walkSegs (xk4m : Bool) (e : ObjEntry) (held : Option Nat) : Nat → Nat → Nat → Chk
  | 0, _, _ => .bad 0x086
  | f + 1, u, u1 =>
    if u1 < u then (match held with | some p => .park p | none => .ok)
    else match segOf e u with
      | none => .bad 0x086
      | some g =>
        if g.tier ≥ 2 || g.pageSize ≥ 6 || !inWindow g then .bad 0x086
        else if g.tier = 1 && !xk4m then .bad 0x087
        else if !populated xk4m g then .bad 0x086
        else walkSegs xk4m e (if g.held && held.isNone then some ((portOf g.base).getD 0) else held) f (g.unit + segUnits g) u1

/-- Do the islands of the Rosod die advance? Which of the 24 its links, shuttle engines and DDR5 ports belong to the spec does not
say: the model stops them with any (R7, R372, R440; DESIGN CHOICE, log entry 34). -/
def State.rosodTicks (s : State) : Bool := s.fw.islands.isEmpty || (List.range 24).all (fun i => s.ticks (104 + i))
/-- Does a memory port advance: an HBM4 one with the two islands of its die, a DDR5 one with the Rosod die (R7, R372, R440)? -/
def State.portTicks (s : State) (p : Nat) : Bool :=
  s.fw.islands.isEmpty || (if p < 8 then s.ticks (96 + 2 * (p / 2)) && s.ticks (97 + 2 * (p / 2)) else s.rosodTicks)

/-- The key that R84 chooses for an object, as the serial of the key drawn; 0 is a zeroed slot. -/
def State.keyOf (s : State) (e : ObjEntry) : Nat :=
  if e.kind = 2 then
    if e.state = 3 then (match s.mem.rels.find? (fun r => r.slot = e.keySlot) with | some r => r.key | none => 0)
    else tget 0 s.mem.keySlot e.keySlot
  else if e.worldID ≠ 0 then tget 0 s.mem.worldKey e.worldID
  else s.mem.pkgKey

/-- Steps 3 to 6 of R67, for one interface and world: the entry and its lease. -/
def checkLease (k : Cap) (vi world : Nat) (e : Option ObjEntry) : Option Nat :=
  match e with
  | none => some 0x083
  | some e =>
    if e.kind ≥ 3 || e.state = 0 || e.state ≥ 4 || e.ownerVI ≠ vi || e.worldID ≠ world then some 0x083
    else if e.state = 3 then some 0x088
    else if e.state ≠ 2 then some 0x084
    else if !hasRights (capRights k) e.maxRights.toNat then some 0x084
    else none
/-- Steps 3 to the size check of R67. -/
def checkEntry (k : Cap) (o n vi world : Nat) (e : Option ObjEntry) : Option Nat :=
  match checkLease k vi world e, e with
  | some c, _ => some c
  | none, some e => if e.size < o + n then some 0x085 else none
  | none, none => some 0x083

/-- The part of R67 at the memory port. A range of no byte touches no unit. -/
def State.checkObj (s : State) (k : Cap) (o n vi world : Nat) : Chk :=
  let e := s.entry (capObj k)
  match checkEntry k o n vi world e with
  | some c => .bad c
  | none =>
    match e with
    | none => .bad 0x083
    | some e =>
      let w := if n = 0 then Chk.ok else walkSegs s.mem.xk4m e none (e.segs.length + 1) (o / 4096) ((o + n - 1) / 4096)
      match w with
      | .ok => if n ≠ 0 && s.keyOf e = 0 then .bad 0x088 else .ok
      | r => r

/-- Does a read of the range find an uncorrectable error (R65)? -/
def badIn (bad : List Nat) (e : ObjEntry) (o n : Nat) : Bool :=
  bad.any (fun p => e.segs.any (fun g => g.valid && g.base ≤ p && p < g.base + pageBytes g.pageSize &&
    o ≤ g.unit * 4096 + (p - g.base) && g.unit * 4096 + (p - g.base) < o + n))

/-! ### Cluster SRAM (R93, R100, R106) -/

/-- Key of a bank of the core's cluster. -/
def State.bankKey (s : State) (b : Nat) : Nat := 256 * s.cluster + b
/-- BANKCFG of a bank of the core's cluster (R98). -/
def State.bank (s : State) (b : Nat) : BankCfg := tget .reset s.sram.cfg (s.bankKey b)
/-- The code with which a bank refuses an untimed scratchpad access: BANK_MODE, then WORLD_FENCE (R100, R106). -/
def BankCfg.refuses (c : BankCfg) (world : Nat) : Option Nat :=
  if c.mode ≠ 1 || c.changing then some 0x08F
  else if c.worldTag ≠ world then some 0x092
  else none
/-- The same for a bank of the core's cluster. An address past the 24 bits of a cluster address lies in no bank. -/
def State.bankCheck (s : State) (world b : Nat) : Option Nat := if b ≥ 256 then some 0x08F else (s.bank b).refuses world
/-- The banks of a range, checked in rising order, each wholly. Which code wins where two banks fail differently R93 does not say; the
router and the shuttles test every mode before any world (DESIGN CHOICE, log entry 109). -/
def State.banksCheck (s : State) (world : Nat) : Nat → Nat → Option Nat
  | 0, _ => none
  | k + 1, b =>
    match s.bankCheck world b with
    | some c => some c
    | none => s.banksCheck world k (b + 1)
/-- A scratchpad range (R93). -/
def State.checkSpad (s : State) (o n world : Nat) : Chk :=
  if n = 0 then .ok
  else if 2 ^ 24 < o + n then .bad 0x08F
  else match s.banksCheck world ((o + n - 1) / 65536 - o / 65536 + 1) (o / 65536) with
    | some c => .bad c
    | none => .ok

/-- The whole of CheckAccess: R67 for objects, R93 for the scratchpad. -/
def State.checkAcc (s : State) (k : Cap) (need : Nat) (o : Int) (n : Nat) : Chk :=
  match checkCap k need o n with
  | some c => .bad c
  | none =>
    if isSpad k then
      if need &&& (rEX ||| rOW) ≠ 0 then .bad 0x080 else s.checkSpad o.toNat n s.ctl.world
    else s.checkObj k o.toNat n s.ctl.vi s.ctl.world
/-- Would a read of object bytes find an uncorrectable error (R65)? -/
def State.badObj (s : State) (id o n : Nat) : Bool :=
  match s.entry id with | some e => badIn s.mem.bad e o n | none => false
/-- Would a read through a capability find an uncorrectable error (R65)? -/
def State.badAt (s : State) (k : Cap) (o n : Nat) : Bool := !isSpad k && s.badObj (capObj k) o n
/-- CheckAccess of an access that, where it needs RD, reads its whole range (R65, R67). -/
def State.check (s : State) (k : Cap) (need : Nat) (o : Int) (n : Nat) : Chk :=
  match s.checkAcc k need o n with
  | .ok => if need &&& rRD ≠ 0 && s.badAt k o.toNat n then .bad 0x08D else .ok
  | r => r

/-- Latency of the core to a cluster address: 6 near, 14 far (R6). -/
def State.spadLat (s : State) (a : Nat) : Nat := if a / 65536 / 32 = s.coreJ then 6 else 14
/-- Key of a byte of the core's cluster SRAM. A timed access at an offset of 2^24 or more, which no untimed check lets pass, is
taken modulo the 24 bits of a cluster address: the spec does not say (DESIGN CHOICE, log entry 70). -/
def State.spadKey (s : State) (a : Nat) : Nat := 2 ^ 24 * s.cluster + a % 2 ^ 24
/-- Read bytes of the core's cluster SRAM. -/
def State.spadRead (s : State) (a n : Nat) : List Byte := mreadN s.sram.bytes (s.spadKey a) n
/-- Write bytes of the core's cluster SRAM. -/
def State.spadWrite (s : State) (a : Nat) (b : List Byte) : State :=
  { s with sram := { s.sram with bytes := mwriteN s.sram.bytes (s.spadKey a) b } }

/-! ### Object bytes under their cipher (R84) -/

/-- The physical address of an object byte; none in a hole. -/
def physOf (e : ObjEntry) (o : Nat) : Option Nat :=
  match segOf e (o / 4096) with
  | some g => some (g.base + (o - g.unit * 4096))
  | none => none
/-- The cipher identity of an object byte (R84). -/
def State.tagFor (s : State) (id : Nat) (e : ObjEntry) (o : Nat) : BlkTag :=
  ⟨s.keyOf e, if e.kind = 2 then 2 else if e.worldID ≠ 0 then 1 else 0, id, o / 4096, o % 4096 / 16⟩
/-- The parts of a cipher identity. -/
def BlkTag.parts (t : BlkTag) : List Nat := [t.key, t.dom, t.obj, t.unit, t.blk]
/-- A byte of the 16-byte block at physical address 16 b as it decrypts under an identity: itself where the block was written
under it; otherwise what XTS makes of the whole block, of the writer's key and tweak and of the reader's (R84, R88). -/
def MainMem.decrypt (m : MainMem) (t : BlkTag) (b i : Nat) : Byte :=
  match tget none m.tags b with
  | some w => if w = t then mread m.phys (16 * b + i) else Config.wrongKeyByte t.parts w.parts (mreadN m.phys (16 * b) 16) i
  | none => Config.wrongKeyByte t.parts [] (mreadN m.phys (16 * b) 16) i
/-- Read one byte of an object. -/
def State.objByte (s : State) (id : Nat) (e : ObjEntry) (o : Nat) : Byte :=
  match physOf e o with
  | none => 0
  | some p => s.mem.decrypt (s.tagFor id e o) (p / 16) (p % 16)
/-- Read bytes of an object. -/
def State.objBytes (s : State) (id : Nat) (e : ObjEntry) (o : Nat) : Nat → List Byte
  | 0 => []
  | n + 1 => s.objByte id e o :: s.objBytes id e (o + 1) n
/-- Read `n` bytes of object `id` at offset `o`. -/
def State.objRead (s : State) (id o n : Nat) : List Byte :=
  match s.entry id with
  | some e => s.objBytes id e o n
  | none => List.replicate n 0
/-- Write one byte of an object: a block that another identity wrote is first taken over whole (R84). -/
def State.objPut (s : State) (id : Nat) (e : ObjEntry) (o : Nat) (b : Byte) : State :=
  match physOf e o with
  | none => s
  | some p =>
    let t := s.tagFor id e o
    let old := tget none s.mem.tags (p / 16)
    let ph := if old = some t then s.mem.phys
      else mwriteN s.mem.phys (p / 16 * 16) ((List.range 16).map (s.mem.decrypt t (p / 16)))
    { s with mem := { s.mem with phys := mwrite ph p b, tags := tset none s.mem.tags (p / 16) (some t) } }
/-- Write bytes of an object, lowest first. -/
def State.objPuts (s : State) (id : Nat) (e : ObjEntry) (o : Nat) : List Byte → State
  | [] => s
  | b :: t => (s.objPut id e o b).objPuts id e (o + 1) t
/-- A store that performs inside a watched range taints its launch (R429). -/
def Launch.taint (l : Launch) (id o n : Nat) : Launch :=
  if l.watch.any (fun w => w.1 = id && o < w.2.2 && w.2.1 < o + n) then { l with tainted := true } else l
/-- A store performs inside a range of an object: the launches that watch it are tainted (R429). -/
def State.taints (s : State) (id o n : Nat) : State :=
  { s with fw := { s.fw with launches := s.fw.launches.map (fun l => l.taint id o n) } }
/-- Place bytes of object `id` at offset `o`. -/
def State.objPlace (s : State) (id o : Nat) (b : List Byte) : State :=
  match s.entry id with
  | some e => s.objPuts id e o b
  | none => s
/-- Write bytes of object `id` at offset `o`. -/
def State.objWrite (s : State) (id o : Nat) (b : List Byte) : State := (s.taints id o b.length).objPlace id o b

/-- The tier of an object byte: 0 HBM4, 1 DDR5 (R62). -/
def State.objTier (s : State) (id o : Nat) : Nat :=
  match s.entry id with
  | some e => (match segOf e (o / 4096) with | some g => g.tier | none => 0)
  | none => 0
/-- Least read latency of an object byte (R62). -/
def State.readLat (s : State) (id o : Nat) : Nat := if s.objTier id o = 1 then 620 else 340
/-- Least write latency of an object byte (R62). -/
def State.writeLat (s : State) (id o : Nat) : Nat := if s.objTier id o = 1 then 580 else 300

/-- Does a range of an object touch a segment in DDR5 (R62)? -/
def State.objSlow (s : State) (id o n : Nat) : Bool :=
  match s.entry id with
  | some e => e.segs.any (fun g => g.valid && g.tier = 1 && g.unit * 4096 < o + n && o < (g.unit + segUnits g) * 4096)
  | none => false
/-- Least read latency of a range of an object: that of the slowest tier it touches (R62). -/
def State.readLatN (s : State) (id o n : Nat) : Nat := if s.objSlow id o n then 620 else 340
/-- Least write latency of a range of an object (R62). -/
def State.writeLatN (s : State) (id o n : Nat) : Nat := if s.objSlow id o n then 580 else 300

/-- Read through a destination. -/
def State.readDest (s : State) (d : Dest) (n : Nat) : List Byte :=
  match d with
  | .sram a => s.spadRead a n
  | .obj id o => s.objRead id o n
/-- Write through a destination. -/
def State.writeDest (s : State) (d : Dest) (b : List Byte) : State :=
  match d with
  | .sram a => s.spadWrite a b
  | .obj id o => s.objWrite id o b
/-- The destination that a capability and an offset name (R93). -/
def destOf (k : Cap) (o : Nat) : Dest := if isSpad k then .sram o else .obj (capObj k) o

/-! ### Register space (R190 to R198) -/

/-- Is the register cluster that holds an address ON (R197)? An address past the register space marks an access that has lost its
cluster (R198). -/
def State.regOn (s : State) (a : Nat) : Bool := a < 262144 && (tget (0, 0) s.rs.power (a / 32768)).1 = 0
/-- Are all clusters of a range ON? -/
def State.regOnRange (s : State) (a n : Nat) : Bool :=
  (List.range ((a + n - 1) / 32768 - a / 32768 + 1)).all (fun i => s.regOn (a + 32768 * i))
/-- Read register-space bytes. -/
def State.rsRead (s : State) (a n : Nat) : List Byte := mreadN s.rs.bytes a n
/-- Set bits of REGSTICKY (R210). -/
def State.stickyReg (s : State) (v : W64) : State := { s with ctl := { s.ctl with regsticky := s.ctl.regsticky ||| v } }
/-- Set bits of SSTICKY (R334). -/
def State.stickyS (s : State) (v : W64) : State := { s with ctl := { s.ctl with ssticky := s.ctl.ssticky ||| v } }
/-- Set bits of SRAMSTICKY (R96). -/
def State.stickySram (s : State) (v : W64) : State :=
  { s with ctl := { s.ctl with sramsticky := s.ctl.sramsticky ||| v } }
/-- Set bits of CSTICKY (R144). -/
def State.stickyC (s : State) (v : W64) : State := { s with ctl := { s.ctl with csticky := s.ctl.csticky ||| v } }
/-- Gather events of V into VSTICKY (R270). -/
def State.stickyV (s : State) (e : Ev) : State :=
  { s with ctl := { s.ctl with vsticky := s.ctl.vsticky ||| e.setWidth 64 } }
/-- The events of M in the bit order of MSTICKY (R260): Invalid, Overflow, Underflow, Inexact, Saturate. -/
def evM (e : Ev) : W64 := BitVec.ofNat 64 (e.toNat % 2 + 2 * (e.toNat / 4))
/-- Set bits of MSTICKY (R260). -/
def State.stickyM (s : State) (v : W64) : State := { s with ctl := { s.ctl with msticky := s.ctl.msticky ||| v } }
/-- Write one register-space byte as it lands: dropped, with RegOff, where its cluster has left ON since its issue (R198): it is
not ON, or the write has been marked by an address past the register space. -/
def State.rsPut (s : State) (a : Nat) (b : Byte) : State :=
  if s.regOn a then { s with rs := { s.rs with bytes := mwrite s.rs.bytes a b } } else s.stickyReg 1
/-- Write register-space cells as they land. -/
def State.rsPuts (s : State) : List Host.Cell → State
  | [] => s
  | (a, b) :: t => (s.rsPut a b).rsPuts t
/-- Write cluster-SRAM cells as they land. -/
def State.sramPuts (s : State) : List Host.Cell → State
  | [] => s
  | (a, b) :: t => { s with sram := { s.sram with bytes := mwrite s.sram.bytes a b } }.sramPuts t
/-- An address in a cluster that has left ON since the issue, marked (R198). -/
def lostAddr (n a : Nat) : Nat := if a / 32768 = n then a + 262144 else a
/-- A cell of a write in flight as its cluster leaves ON: marked as lost (R198). -/
def lostCell (n : Nat) (c : Host.Cell) : Host.Cell := (lostAddr n c.1, c.2)
/-- Register-space writes in flight to a cluster that leaves ON are lost (R198). -/
def Tgt.lose (n : Nat) : Tgt → Tgt
  | .rs cells => .rs (cells.map (lostCell n))
  | t => t
/-- The same for the writes of a command. -/
def CWrite.lose (n : Nat) : CWrite → CWrite
  | .rs cells => .rs (cells.map (lostCell n))
  | w => w
/-- A register cluster takes a state (R197): its bytes are lost as it leaves ON, and writes in flight to it with them. -/
def State.setPower (s : State) (n st till : Nat) : State :=
  let t := { s with rs := { s.rs with power := tset (0, 0) s.rs.power n (st, till) } }
  if (tget (0, 0) s.rs.power n).1 = 0 && st ≠ 0 then
    { t with
      rs := { t.rs with bytes := t.rs.bytes.filter (fun c => c.1 / 32768 ≠ n) }
      pend := t.pend.map (fun p => { p with tgt := p.tgt.lose n })
      cc := { t.cc with cmds := t.cc.cmds.map (fun c => { c with writes := c.writes.map (CWrite.lose n) }) }
      sram := { t.sram with timed := t.sram.timed.map (fun r => { r with act := match r.act with
        | .move k land dst num => .move k land (dst.lose n) num
        | .fetch c off k land dst num => .fetch c off k land (dst.lose n) num
        | x => x }) }
      dpend := t.dpend.map (fun x => { x with base := x.base.map (lostAddr n) })
      me := { t.me with
        stream := t.me.stream.map (fun x => { x with off := n :: x.off })
        drain := t.me.drain.map (fun x => { x with off := n :: x.off })
        rows := t.me.rows.map (fun r => { r with addr := lostAddr n r.addr }) } }
  else t
/-- Bytes from an address up as cells. -/
def cellsAt (a : Nat) : List Byte → List Host.Cell
  | [] => []
  | b :: t => (a, b) :: cellsAt (a + 1) t

/-- The parts of a range of cluster addresses that lie in one row each: offset in the range, address, bytes (R94). -/
def rowParts : Nat → Nat → Nat → Nat → List (Nat × Nat × Nat)
  | 0, _, _, _ => []
  | f + 1, o, a, n =>
    if n = 0 then []
    else
      let m := Nat.min n (256 - a % 256)
      (o, a, m) :: rowParts f (o + m) (a + m) (n - m)
/-- The rows of a range. -/
def rowsOf (a n : Nat) : List (Nat × Nat × Nat) := rowParts (n / 256 + 2) 0 a n
/-- Untimed requests come to their banks (R94). -/
def State.enqueue (s : State) (l : List BItem) : State := { s with sram := { s.sram with queue := s.sram.queue ++ l } }
/-- Does a unit still wait for a bank (R94)? -/
def State.waitingFor (s : State) (o : BOwner) : Bool := s.sram.queue.any (fun x => x.own = o)
/-- Requests of a unit and what they returned are forgotten. -/
def State.dropAsks (s : State) (o : BOwner) : State :=
  { s with sram := { s.sram with
      queue := s.sram.queue.filter (fun x => x.own ≠ o), got := s.sram.got.filter (fun x => x.1 ≠ o) } }
/-- A timed request of the core at a bank of its cluster (R95, R96). -/
def State.pushReq (s : State) (cycle num addr : Nat) (act : TReqDo) : State :=
  { s with sram := { s.sram with
    timed := s.sram.timed ++ [⟨cycle, num, s.sram.order, addr, true, act, s.now, true⟩], order := s.sram.order + 1 } }

/-- Each pair once. -/
def onceEach (l : List (Nat × Nat)) : List (Nat × Nat) := l.foldl (fun a x => if a.contains x then a else a ++ [x]) []
/-- The package key of the byte that a request names. -/
def State.reqKey (s : State) (r : TReq) : Nat := if r.core then s.spadKey r.addr else r.addr
/-- The physical core of this package bound to a logical core of a launch, by number (R383). -/
def State.boundIn (s : State) (no logical : Nat) : Option Nat :=
  if no = s.ctl.launchNo && logical = s.ctl.lcore then some s.ctl.coreId
  else (s.fw.bind.find? (fun b => bitsOf b.2.toNat 0 8 = no && bitsOf b.2.toNat 8 17 = logical)).map Prod.fst
/-- The physical core of this package bound to a logical core of the core's launch. -/
def State.boundCore (s : State) (logical : Nat) : Option Nat := s.boundIn s.ctl.launchNo logical
/-- The cluster in which fabric data lands: that of the target, or for a GET that of its sender. -/
def State.fabCluster (s : State) (d : FabData) : Nat :=
  (s.boundIn d.launch (if d.form = 2 then d.sender else d.target)).getD 0 / 8
/-- Is it a request at no bank: a read of an object, or the departure of a GET's request? -/
def TReq.isFetch (r : TReq) : Bool :=
  match r.act with
  | .fetch _ _ _ _ _ _ => true
  | .ask _ _ _ _ => true
  | _ => false

/-! ### Landing (R9, R55) -/

/-- One write lands. -/
def State.land (s : State) (p : Pend) : State :=
  match p.tgt with
  | .sreg r v => s.setS r v
  | .creg r v => s.setC r v
  | .breg r v => s.setB r v
  | .mreg r keep v => s.setM r ((s.mreg r &&& keep) ||| (v &&& ~~~keep))
  | .rs cells => s.rsPuts cells
  | .sram cells => s.sramPuts cells
  | .obj id off b => s.objWrite id off b
  | .fifo k => { s with sram := { s.sram with fifo := tset ⟨0, 0, 0⟩ s.sram.fifo k ⟨0, 0, 0⟩ } }
  | .power n st till => s.setPower n st till
  | .vsticky v => { s with ctl := { s.ctl with vsticky := s.ctl.vsticky ||| v } }
  | .msticky v => s.stickyM v
  | .ssticky v => s.stickyS v
  | .csticky v => s.stickyC v
/-- Writes land in order. -/
def State.lands (s : State) : List Pend → State
  | [] => s
  | p :: t => (s.land p).lands t
/-- Put a write behind every one issued no later. -/
def insPend (p : Pend) : List Pend → List Pend
  | [] => [p]
  | q :: t => if p.iss < q.iss then p :: q :: t else q :: insPend p t
/-- Writes in the order of their issue (R55). -/
def byIssue (ps : List Pend) : List Pend := ps.foldl (fun l p => insPend p l) []
/-- The writes of one engine that are due, in the order of their issue (R55). -/
def dueOf (ps : List Pend) (t : Nat) (e : Engine) : List Pend := byIssue (ps.filter (fun p => p.due ≤ t && p.eng = e))
/-- The register of S that a write changes, numbered as in LoadRec. -/
def Tgt.sdst : Tgt → Option Nat
  | .sreg r _ => some r
  | .creg r _ => some (32 + r)
  | _ => none
/-- The S registers that writes change, with the cycle of issue of each (R302). -/
def landedOf (ps : List Pend) : List (Nat × Nat) := ps.filterMap (fun p => p.tgt.sdst.map (fun r => (r, p.iss)))
/-- Every write due by cycle `t` lands, in the order S, V, M, C and then of issue (R55, R302). -/
def State.landDue (s : State) (t : Nat) : State :=
  let ps := s.pend
  let ss := dueOf ps t .s
  { s with pend := ps.filter (fun p => t < p.due), sx := { s.sx with landed := landedOf ss } }.lands
    (ss ++ dueOf ps t .v ++ dueOf ps t .m ++ dueOf ps t .c)

/-! ### Tokens (R117) -/

/-- Issue a producer of a token: its ticket, and the state. -/
def State.issueTok (s : State) (id : Nat) : W32 × State :=
  let k := tget 0 s.iss id + 1
  (k, { s with iss := tset 0 s.iss id k })
/-- Complete a ticket. -/
def State.completeTok (s : State) (id : Nat) (k : W32) : State := { s with cmp := tset 0 s.cmp id k }
/-- May the ticket complete: is its predecessor complete? -/
def State.tokTurn (s : State) (id : Nat) (k : W32) : Bool := id = 0 || tget 0 s.cmp id = k - 1
/-- Have the captured producers completed? -/
def State.tokMet (s : State) (id : Nat) (need : W32) : Bool := (tget 0 s.cmp id - need).toNat < 2 ^ 31

/-! ### Counters (R10, R180) -/

/-- The package counter that index `i` of interface `vi` names; none beyond its partition (R180). -/
def State.counterOf (s : State) (vi i : Nat) : Option Nat :=
  let p := (tget 0 s.fab.dcPart vi).toNat
  let base := bitsOf p 0 12
  let cnt := bitsOf p 12 13
  if i < cnt && base + i < 4096 then some (base + i) else none
/-- Read a package counter. -/
def State.counter (s : State) (i : Nat) : W64 := tget 0 s.fab.counters i
/-- Write a package counter. -/
def State.setCounter (s : State) (i : Nat) (v : W64) : State :=
  { s with fab := { s.fab with counters := tset 0 s.fab.counters i v } }

end Sys2Proof.Machine
end

