-- ==== Sys2Proof/Machine/Flags.lean ====
section
/-! DEFINITION. Sticky bits and the special registers that SRD and SWR reach (R17, R332, R334). -/

namespace Sys2Proof.Machine

/-- A W1C write: ones clear (R17). -/
def w1c (old v mask : W64) : W64 := old &&& ~~~(v &&& mask)

/-- SAccMiss of SSTICKY (R334). -/
def bSAccMiss : W64 := 1
/-- DeadlineMiss of SSTICKY (R334). -/
def bDeadlineMiss : W64 := 2
/-- DivZero of SSTICKY (R334). -/
def bDivZero : W64 := 4
/-- BankMiss of SRAMSTICKY (R96). -/
def bBankMiss : W64 := 1
/-- BankCollide of SRAMSTICKY (R96). -/
def bBankCollide : W64 := 2
/-- RegOff, PortEarly, PortDry, GathWrap, GathBad of REGSTICKY (R210). -/
def bRegOff : W64 := 1
/-- PortEarly (R210). -/
def bPortEarly : W64 := 2
/-- PortDry (R210). -/
def bPortDry : W64 := 4
/-- GathWrap (R210). -/
def bGathWrap : W64 := 8
/-- GathBad (R210). -/
def bGathBad : W64 := 16
/-- AGWrap of generator n (R210). -/
def bAGWrap (n : Nat) : W64 := BitVec.ofNat 64 (2 ^ (8 + n))
/-- FmtMismatch of MSTICKY (R260). -/
def bFmtMismatch : W64 := 32
/-- PathOverlap of MSTICKY (R260). -/
def bPathOverlap : W64 := 64
/-- CWrap, CCollide, CvtSat, RedOvf of CSTICKY (R144). -/
def bCWrap : W64 := 1
/-- CCollide (R144). -/
def bCCollide : W64 := 2
/-- CvtSat (R144). -/
def bCvtSat : W64 := 4
/-- RedOvf (R144). -/
def bRedOvf : W64 := 8

/-- The profile in force for V (R240, R269). -/
def State.vProf (s : State) : Nat :=
  let p := bitsOf s.ctl.vctl.toNat 16 16
  if p = 0 then s.ctl.defProf else p

/-- The COMPSEQ of a chain (R119). -/
def Chain.compReg (c : Chain) : W64 := BitVec.ofNat 64 (c.compSeq % 2 ^ 24 + c.compCount % 2 ^ 32 * 2 ^ 24)

/-- The register that a selector names (R332). -/
def State.srdVal (s : State) (sel : Nat) : W64 :=
  if sel = 0x00 then BitVec.ofNat 64 s.ctl.coreId
  else if sel = 0x01 then BitVec.ofNat 64 s.ctl.lcore
  else if sel = 0x02 then BitVec.ofNat 64 s.ctl.panel
  else if sel = 0x03 then BitVec.ofNat 64 s.ctl.launchNo
  else if sel = 0x04 then BitVec.ofNat 64 s.ctl.vi
  else if sel = 0x05 then BitVec.ofNat 64 s.ctl.world
  else if sel = 0x10 then s.ctl.vctl
  else if sel = 0x11 then s.ctl.vsticky
  else if sel = 0x12 then s.ctl.msticky
  else if sel = 0x13 then s.ctl.csticky
  else if sel = 0x14 then s.ctl.regsticky
  else if sel = 0x15 then s.ctl.sramsticky
  else if sel = 0x16 then s.ctl.ssticky
  else if sel = 0x17 then s.ctl.qblkctl
  else if sel = 0x18 then s.ctl.dqctl
  else if sel = 0x19 then s.ctl.slicesel
  else if sel = 0x20 then s.cv.compReg
  else if sel = 0x21 then s.cm.compReg
  else if sel = 0x22 then s.cc.compReg
  else if sel = 0x23 then s.ctl.cboundinfo
  else 0

/-- A write of DQCTL: the staging of a queue whose field changes is discarded (R289). -/
def State.setDqctl (s : State) (v : W64) : State :=
  let new := v &&& 0x7FFF7FFF7FFF7FFF#64
  let drop (dq : Table DQueue) (q : Nat) : Table DQueue :=
    if bitsOf new.toNat (16 * q) 16 = bitsOf s.ctl.dqctl.toNat (16 * q) 16 then dq else tdel dq q
  { s with ctl := { s.ctl with dqctl := new }, dq := [0, 1, 2, 3].foldl drop s.dq }

/-- SWR under the access codes of R332. None: ILL_PROFILE (R269). A read-only register ignores the write (R17). -/
def State.swrTo (s : State) (sel : Nat) (v : W64) : Option State :=
  if sel = 0x10 then
    let p := bitsOf v.toNat 16 16
    if p = 0 || (profOf p).isSome then some { s with ctl := { s.ctl with vctl := v &&& 0xFFFF0003#64 } } else none
  else if sel = 0x11 then some { s with ctl := { s.ctl with vsticky := w1c s.ctl.vsticky v 0x3F } }
  else if sel = 0x12 then some { s with ctl := { s.ctl with msticky := w1c s.ctl.msticky v 0x7F } }
  else if sel = 0x13 then some { s with ctl := { s.ctl with csticky := w1c s.ctl.csticky v 0xF } }
  else if sel = 0x14 then some { s with ctl := { s.ctl with regsticky := w1c s.ctl.regsticky v 0xFF1F } }
  else if sel = 0x15 then some { s with ctl := { s.ctl with sramsticky := w1c s.ctl.sramsticky v 3 } }
  else if sel = 0x16 then some { s with ctl := { s.ctl with ssticky := w1c s.ctl.ssticky v 7 } }
  else if sel = 0x17 then some { s with ctl := { s.ctl with qblkctl := v &&& 0xF } }
  else if sel = 0x18 then some (s.setDqctl v)
  else some s

end Sys2Proof.Machine
end

