-- ==== Sys2Proof/Machine/Slices.lean ====
section
/-! DEFINITION. Cluster cache slices (R101 to R104, R344) and the performing of S stores at their point of coherence,
with the conflict detector (R339, R353 to R356). -/

namespace Sys2Proof.Machine

/-- The ways of a slice of a cluster that are present and not changing: way and bank key (R101, R103). -/
def State.waysOf (s : State) (cl sl : Nat) : List (Nat × Nat) :=
  (s.sram.cfg.filter (fun kc => kc.1 / 256 = cl && kc.2.mode = 2 && kc.2.slice = sl && !kc.2.changing)).map
    (fun kc => (kc.2.way, kc.1))

/-- The slice that an access of the core to an object uses: none with Enable 0, for a bolt, or when a bank of the slice
carries another world (R102). -/
def State.sliceFor (s : State) (id : Nat) : Option Nat :=
  let ss := s.ctl.slicesel.toNat
  let sl := bitsOf ss 0 2
  let bolt := match s.entry id with | some e => e.kind = 2 | none => false
  let foreign := s.sram.cfg.any (fun kc => kc.1 / 256 = s.cluster && kc.2.mode = 2 && kc.2.slice = sl &&
    kc.2.worldTag ≠ s.ctl.world)
  if bitsOf ss 2 1 = 1 && !bolt && !foreign then some sl else none

/-- Does one of the ordering classes of a mask look up without filling (R102)? A drained combining line that covers several does not
fill where any of them is in NoAlloc, which R102 leaves open (DESIGN CHOICE, log entry 110). -/
def State.noAlloc (s : State) (classes : Nat) : Bool := bitsOf s.ctl.slicesel.toNat 16 16 &&& classes ≠ 0
/-- The core's tenant number (R102). -/
def State.tenant (s : State) : Nat := bitsOf s.ctl.slicesel.toNat 3 2

/-- The line that holds a byte of an object, in a way that is not changing (R101). -/
def State.lineAt (s : State) (sl id o : Nat) : Option Line :=
  s.sram.lines.find? (fun l => l.cluster = s.cluster && l.slice = sl && l.id = id && l.line = o / 128 &&
    (s.waysOf s.cluster sl).any (fun w => w.1 = l.way))

/-- Two lines in one place: cluster, slice, way and set (R101). -/
def Line.samePlace (a b : Line) : Bool :=
  a.cluster = b.cluster && a.slice = b.slice && a.way = b.way && a.line % 512 = b.line % 512

/-- Put a line in its place. -/
def State.putLine (s : State) (l : Line) : State :=
  { s with sram := { s.sram with lines := s.sram.lines.filter (fun x => !x.samePlace l) ++ [l] } }

/-- A request of the slices at the way that holds a line: a fill or a write-back occupies its bank for a cycle (R94, R95). -/
def State.touchWay (s : State) (l : Line) : State :=
  match (s.waysOf l.cluster l.slice).find? (fun w => w.1 = l.way) with
  | some w => { s with sram := { s.sram with
      queue := s.sram.queue ++ [⟨129, 65536 * w.2 + l.line % 512 * 128, .touch, .none, none⟩] } }
  | none => s
/-- The memory port of an object byte (R483). -/
def State.portAt (s : State) (id o : Nat) : Nat :=
  match s.entry id with
  | some e => (match physOf e o with | some p => (portOf p).getD 0 | none => 0)
  | none => 0

/-- The mask of 8-byte words of a 128-byte line that bytes at an offset touch (R355). -/
def wordMask (o n : Nat) : W16 :=
  (List.range 16).foldl (fun (m : W16) i =>
    if o % 128 < 8 * i + 8 ∧ 8 * i < o % 128 + n then m ||| (1#16 <<< i) else m) 0

/-- Does the detector check this launch? (R353) -/
def State.detOn (s : State) : Bool := s.grp.detGroup.isSome

/-- Is a signature at a port that of a line, for the stores of a launch (R355)? -/
def Sig.isOf (x : Sig) (launch port id line : Nat) : Bool := x.launch = launch && x.port = port && x.id = id && x.line = line
/-- Take a signature in at a port; with 65,536 in use the oldest is evicted, and DetLost set of its launch (R356). -/
def State.putSig (s : State) (g : Sig) : State :=
  let rest := s.mem.sigs.filter (fun x => !x.isOf g.launch g.port g.id g.line)
  let here := rest.filter (fun x => x.port = g.port)
  let same := s.mem.sigs.any (fun x => x.isOf g.launch g.port g.id g.line)
  let mem := { s.mem with sigOrder := s.mem.sigOrder + 1 }
  if !same && here.length ≥ 65536 then
    let old := here.foldl (fun (a : Option Sig) x => match a with
      | none => some x
      | some y => if x.epoch < y.epoch || (x.epoch = y.epoch && x.order < y.order) then some x else some y) none
    { s with mem := { mem with sigs := rest.filter (fun x => some x ≠ old) ++ [g], detLost :=
      (old.toList.map (fun x => x.launch)).foldl (fun l n => if l.contains n then l else l ++ [n]) s.mem.detLost } }
  else { s with mem := { mem with sigs := rest ++ [g] } }

/-- The detector at a port (R355): the signature that refuses plain stores of a core to words of a line, or the state with its
signature. -/
def State.detectWords (s : State) (core id o : Nat) (w : W16) (epoch : Nat) : Except Sig State :=
  let port := s.portAt id o
  let sig := s.mem.sigs.find? (fun x => x.isOf s.ctl.launchNo port id (o / 128))
  let fresh : Sig := ⟨port, id, o / 128, w, core, epoch, s.mem.sigOrder, s.ctl.launchNo⟩
  match sig with
  | some g =>
    if g.epoch = epoch && g.core ≠ core && g.words &&& w ≠ 0 then .error g
    else if g.epoch < epoch then .ok (s.putSig fresh)
    else if g.core = core then .ok (s.putSig { g with words := g.words ||| w, order := s.mem.sigOrder })
    else .ok s
  | none => .ok (s.putSig fresh)
/-- The same for a store of n bytes. -/
def State.detectOf (s : State) (core id o n epoch : Nat) : Except Sig State := s.detectWords core id o (wordMask o n) epoch
/-- The same for a store of this core. -/
def State.detect (s : State) (id o n epoch : Nat) : Except Sig State := s.detectOf s.ctl.lcore id o n epoch

/-- The frame's Info of a DET_CONFLICT (R401). -/
def detInfo (g : Sig) : W64 := BitVec.ofNat 64 (g.core % 2 ^ 17 + g.epoch % 2 ^ 32 * 2 ^ 32)

/-- Is a plain store to an object checked: not a bolt (R354)? -/
def State.detects (s : State) (plain : Bool) (id : Nat) : Bool :=
  s.detOn && plain && (match s.entry id with | some e => e.kind ≠ 2 | none => false)

/-- The bytes of a line but those of some words, as runs: offset in the line and bytes. -/
def Line.runsBut (l : Line) (w : W16) : List (Nat × List Byte) :=
  (List.range 16).filterMap (fun i => if w.getLsbD i then none else some (8 * i, (l.bytes.drop (8 * i)).take 8))
/-- A dirty line reaches its port (R103, R344, R355): its plain stores are checked there and leave their signature. Where one of them
conflicts they are refused, none of their words is written, and the core faults with DET_CONFLICT, imprecisely; else the whole
line is written. -/
def State.portLine (s : State) (l : Line) : State :=
  let o := l.line * 128
  let t := l.stored.foldl (fun (u : State) x => u.taints l.id (o + x.1) x.2) s
  if l.plain ≠ 0 && s.detects true l.id then
    match t.detectWords s.ctl.lcore l.id o l.plain l.epoch with
    | .ok u => u.objPlace l.id o l.bytes
    | .error g => ((l.runsBut l.plain).foldl (fun (u : State) r => u.objPlace l.id (o + r.1) r.2) t).raiseF
        ⟨s.now, 0x093, 0, 0, mkCap l.id 0 0 0, BitVec.ofNat 64 o, detInfo g, false, true⟩
  else t.objPlace l.id o l.bytes
/-- Write a dirty line back to its object (R103, R344). -/
def State.writeBack (s : State) (l : Line) : State := if l.dirty then (s.touchWay l).portLine l else s

/-- A line that has been written back. -/
def Line.clean (l : Line) : Line := { l with dirty := false, classes := 0, first := none, stored := [], plain := 0 }
/-- Write back the lines that a test selects; they stay valid and clean. -/
def State.cleanLines (s : State) (p : Line → Bool) : State :=
  let t := (s.sram.lines.filter (fun l => p l && l.dirty)).foldl State.writeBack s
  { t with sram := { t.sram with lines := t.sram.lines.map (fun l => if p l then l.clean else l) } }

/-- Invalidate the lines that a test selects; Occ falls with them (R104). -/
def State.dropLines (s : State) (p : Line → Bool) : State :=
  { s with sram := { s.sram with lines := s.sram.lines.filter (fun l => !p l) } }

/-- The age after the present one (R103, step 2). -/
def State.tick (s : State) : State := { s with sram := { s.sram with age := s.sram.age + 1 } }

/-- A hit updates the LRU order (R103). -/
def State.touch (s : State) (l : Line) : State := (s.putLine { l with age := s.sram.age }).tick

/-- Key of a slice counter. -/
def State.sliceKey (s : State) (sl : Nat) : Nat := 4 * s.cluster + sl
/-- Count a lookup (R104). -/
def State.countLookup (s : State) (sl : Nat) (hit : Bool) : State :=
  let k := s.sliceKey sl
  if hit then { s with sram := { s.sram with hits := tset 0 s.sram.hits k (tget 0 s.sram.hits k + 1) } }
  else { s with sram := { s.sram with misses := tset 0 s.sram.misses k (tget 0 s.sram.misses k + 1) } }

/-- The way in which a fill of the core's tenant places a line: the invalid way of lowest number, else the least recently
used (R103). -/
def State.victim (s : State) (sl line : Nat) : Option Nat :=
  let m := (tget (0, 0) s.sram.way (16 * s.cluster + 4 * sl + s.tenant)).1
  let ways := (s.waysOf s.cluster sl).filter (fun w => bitsOf m w.1 1 = 1)
  let held (w : Nat) : Option Line := s.sram.lines.find? (fun l =>
    l.cluster = s.cluster && l.slice = sl && l.way = w && l.line % 512 = line % 512)
  let free := (ways.map Prod.fst).filter (fun w => (held w).isNone)
  match free with
  | w :: t => some (t.foldl Nat.min w)
  | [] =>
    (ways.foldl (fun (best : Option (Nat × Nat)) w =>
      match held w.1, best with
      | some l, some b => if l.age < b.1 then some (l.age, w.1) else some b
      | some l, none => some (l.age, w.1)
      | none, b => b) none).map Prod.snd

/-- Fill a line, after writing back a dirty victim; none where no way is eligible (R103). -/
def State.fill (s : State) (sl id o : Nat) : Option (State × Line) :=
  match s.victim sl (o / 128) with
  | none => none
  | some w =>
    let l : Line := ⟨s.cluster, sl, w, id, o / 128, s.objRead id (o / 128 * 128) 128, false, 0, none, s.tenant, s.sram.age, [], 0, 0⟩
    let t := (s.sram.lines.filter (fun x => x.samePlace l)).foldl State.writeBack s
    let l' := { l with bytes := t.objRead id (o / 128 * 128) 128 }
    some (((t.putLine l').touchWay l').tick, l')
/-- Does an access hit a line, or fill one (R102, R103)? -/
def State.hits (s : State) (id o : Nat) : Bool :=
  match s.sliceFor id with | some sl => (s.lineAt sl id o).isSome | none => false
/-- Would it fill a line (R102, R103)? -/
def State.fills (s : State) (id o classes : Nat) : Bool :=
  match s.sliceFor id with
  | some sl => (s.lineAt sl id o).isNone && !s.noAlloc classes && (s.victim sl (o / 128)).isSome
  | none => false
/-- Does a line fill find an uncorrectable error (R65, R103)? -/
def State.fillBad (s : State) (id o classes : Nat) : Bool := s.fills id o classes && s.badObj id (o / 128 * 128) 128
/-- Does a load find an uncorrectable error as it performs (R65)? A hit reads no memory. -/
def State.loadBad (s : State) (id o n classes : Nat) : Bool :=
  s.fillBad id o classes || (!s.hits id o && s.badObj id o n)

/-- Bytes of a line. -/
def Line.part (l : Line) (o n : Nat) : List Byte := (l.bytes.drop (o % 128)).take n
/-- A line with bytes replaced by the store of a number that covers some classes, dirty; `plain`: the epoch of a store that the
detector checks. -/
def Line.with (l : Line) (o seq : Nat) (classes : W16) (b : List Byte) (plain : Option Nat) : Line :=
  { l with stored := l.stored ++ [(o % 128, b.length)], plain := if plain.isSome then l.plain ||| wordMask o b.length else l.plain
           epoch := plain.getD l.epoch
           bytes := l.bytes.take (o % 128) ++ b ++ l.bytes.drop (o % 128 + b.length), dirty := true,
           classes := l.classes ||| classes, first := some (match l.first with | some n => Nat.min n seq | none => seq) }

/-- A load of an object that missed reads memory as it performs, filling a line where it may (R102, R103). -/
def State.loadMiss (s : State) (id o n cls : Nat) : State × List Byte :=
  match s.sliceFor id with
  | none => (s, s.objRead id o n)
  | some sl =>
    match s.lineAt sl id o with
    | some l => ((s.countLookup sl true).touch l, l.part o n)
    | none =>
      let s := s.countLookup sl false
      if s.noAlloc (2 ^ cls) then (s, s.objRead id o n)
      else match s.fill sl id o with
        | some (t, l) => (t, l.part o n)
        | none => (s, s.objRead id o n)

/-- A store of an object as it performs, through the slice where it may (R102, R344). -/
def State.storeObj (s : State) (id o seq : Nat) (classes : W16) (b : List Byte) (bypass : Bool)
    (plain : Option Nat) : State :=
  match if bypass then none else s.sliceFor id with
  | none => s.objWrite id o b
  | some sl =>
    match s.lineAt sl id o with
    | some l => (s.countLookup sl true).touch (l.with o seq classes b plain)
    | none =>
      let s := s.countLookup sl false
      if s.noAlloc classes.toNat then s.objWrite id o b
      else match s.fill sl id o with
        | some (t, l) => t.putLine (l.with o seq classes b plain)
        | none => s.objWrite id o b

/-- Is a store to an object taken by a line of the slice, so that it reaches its port only as the line is written back (R102, R344)? -/
def State.inSlice (s : State) (id o : Nat) (classes : W16) (bypass : Bool) : Bool :=
  !bypass && (s.hits id o || s.fills id o classes.toNat)
/-- The conflict that refuses a store in one of its parts (R355). -/
def State.conflict (s : State) : List StoreRec → Option (StoreRec × Nat × Nat × Sig)
  | [] => none
  | r :: t =>
    match r.dest with
    | .sram _ => s.conflict t
    | .obj id o =>
      if s.detects r.plain id && !s.inSlice id o r.mask r.bypass then
        match s.detect id o r.bytes.length r.epoch with
        | .error g => some (r, id, o, g)
        | .ok _ => s.conflict t
      else s.conflict t

/-- Write the bytes of one store at its point of coherence, leaving its signature where that is its port (R339, R355). -/
def State.performOne (s : State) (r : StoreRec) : State :=
  match r.dest with
  | .sram a => s.spadWrite a r.bytes
  | .obj id o =>
    let det := s.detects r.plain id
    let t := if det && !s.inSlice id o r.mask r.bypass then
        (match s.detect id o r.bytes.length r.epoch with | .ok t => t | .error _ => s) else s
    t.storeObj id o r.seq r.mask r.bytes r.bypass (if det then some r.epoch else none)

/-- The part of a store whose line fill finds an uncorrectable error (R65, R103). -/
def State.badFill (s : State) (rs : List StoreRec) : Option StoreRec :=
  rs.find? (fun r => match r.dest with
    | .sram _ => false
    | .obj id o => !r.bypass && s.fillBad id o r.mask.toNat)
/-- The parts of one posted store perform together (R312, R315, R339): refused by the detector with DET_CONFLICT, ended by an
error that their line fill finds, or written. -/
def State.perform (s : State) (rs : List StoreRec) : State :=
  match s.conflict rs with
  | some (r, _, o, g) => s.fault 0 0x093 r.cap (BitVec.ofNat 64 (o / 128 * 128)) (detInfo g)
  | none => match s.badFill rs with
    | some r => s.raiseF ⟨s.now, 0x08D, 0, 0, r.cap, BitVec.ofNat 64 r.off, 0, false, false⟩
    | none => rs.foldl State.performOne s

end Sys2Proof.Machine
end

