-- ==== Sys2Proof/Machine/LoadStore.lean ====
section
/-! DEFINITION. S loads, stores, capability loads and stores, MEMX, AMO and fences (R70, R310 to R317), the rows that
carry posted accesses to their banks and ports (R94, R312, R315, R482), and parked accesses (R83). -/

namespace Sys2Proof.Machine

/-- The byte offset of an S.M form (R310). -/
def smOff (k : Cap) (o : BitVec 13) : Int :=
  if o.msb then (capUpper k : Int) + o.toInt else (capLower k : Int) + o.toInt

/-- Do two byte ranges share an 8-byte word? -/
def sameWord (a n b m : Nat) : Bool := a / 8 * 8 < (b + m + 7) / 8 * 8 && b / 8 * 8 < (a + n + 7) / 8 * 8

/-- The bytes that an untimed request writes in its bank cycle. -/
def BItem.writes (x : BItem) : Nat :=
  match x.act with
  | .write b => b.length
  | .atom _ _ => 8
  | .red _ _ b _ => b.length
  | .add _ => 8
  | .touch => 0
  | .read _ _ _ => 0
/-- Does fabric data write a word of a range of a cluster? -/
def State.fabPending (s : State) (cluster a n : Nat) (d : FabData) : Bool :=
  isSpad d.cap && s.fabCluster d = cluster && d.elems.any (fun e => sameWord a n e.1 e.2.length)
/-- The data of this core's GETs in flight to other packages. -/
def State.getsOut (s : State) : List FabData :=
  s.fab.sent.filter (fun d => d.form = 2 && s.cc.cmds.any (fun c => !c.finished && c.doneAt.isNone && c.call = some (d.group, d.call)))
/-- Is a write to a word of a range of a cluster in flight at its banks, or on its way by the fabric to cores of this package? -/
def State.pendingFab (s : State) (cluster a n : Nat) : Bool :=
  s.sram.queue.any (fun x => x.writes ≠ 0 && sameWord (2 ^ 24 * cluster + a) n x.addr x.writes) ||
  (s.fab.held ++ s.fab.landing.map (fun l => l.data) ++ s.fab.leaving.map (fun l => l.data) ++ s.getsOut).any
    (s.fabPending cluster a n)
/-- Is a write to a word of the range in flight in the core's cluster (R107): of S, of C, the router or the fabric, of a write
generator, or by address of its own? -/
def State.pendingSpad (s : State) (a n : Nat) : Bool :=
  s.pend.any (fun p => match p.tgt with
    | .sram cells => !s.inPast p.iss && cells.any (fun c => sameWord (s.spadKey a) n c.1 1)
    | _ => false) ||
  s.pendingFab s.cluster a n ||
  s.sx.blk.any (fun b => isSpad b.cap && b.need &&& rWR ≠ 0 && sameWord a n b.a.toNat b.n) ||
  s.cx.migs.any (fun x => sameWord a n x.addr 4) ||
  s.rs.ags.any (fun g => 6 ≤ g.1 && g.2.beats.any (fun b => sameWord a n b.2.1 b.2.2.length)) ||
  s.cc.cmds.any (fun c => !c.finished && c.writes.any (fun w => match w with
    | .sram b x => sameWord a n b x.length
    | .atom (.sram b) _ _ => sameWord a n b 8
    | _ => false)) ||
  s.sx.stores.any (fun r => match r.dest with
    | .sram b => sameWord a n b r.bytes.length
    | .obj _ _ => false) ||
  s.sx.comb.any (fun l => match l.dest with
    | .sram _ => l.cells.any (fun c => sameWord a n c.1 1)
    | .obj _ _ => false)

/-- Bytes of a load as the register value (R310). -/
def loadVal (signed : Bool) (b : List Byte) : W64 :=
  if signed then BitVec.ofInt 64 (sgn (leNat b) (8 * b.length)) else BitVec.ofNat 64 (leNat b)
/-- Bytes of a load as a capability (R15, R70). -/
def loadCap (b : List Byte) : Cap := BitVec.ofNat 128 (leNat b)

/-- The write of a load's value. -/
def LoadRec.write (l : LoadRec) (b : List Byte) : Tgt :=
  if l.dst < 32 then .sreg l.dst (loadVal l.signed b) else .creg (l.dst - 32) (loadCap b)
/-- A late load's value is seen at once, unless a later-issued write of its register has landed in this cycle (R302). -/
def State.putLoad (s : State) (l : LoadRec) (b : List Byte) : State :=
  if s.sx.landed.any (fun x => x.1 = l.dst && l.at_ < x.2) then s
  else { s with sx := { s.sx with landed := s.sx.landed ++ [(l.dst, l.at_)] } }.land ⟨s.now, .s, l.write b, l.at_⟩

/-- Does a port hold 256 parked accesses: it holds a further requester back (R83)? -/
def State.portFull (s : State) (port : Nat) : Bool := 256 ≤ (s.mem.parked.filter (fun p => p.port = port)).length
/-- An access to park: ParkedTotal counts it and its first retry is 64 cycles on (R75, R83). -/
def State.park (s : State) (who : ParkWho) (port : Nat) : State :=
  { s with mem := { s.mem with
      parked := s.mem.parked ++ [⟨who, s.now + 64, 64, port⟩]
      parkedTotal := tset 0 s.mem.parkedTotal port ((tget 0 s.mem.parkedTotal port + 1) % 2 ^ 32) } }

/-- Take the number of an S access. -/
def State.nextSeq (s : State) : State := { s with sx := { s.sx with seq := s.sx.seq + 1 } }

/-! ### Order among accesses of one class (R314, R340) -/

/-- Has every earlier access of the class performed? STS and STCB order nothing. -/
def State.classFree (s : State) (cls seq : Nat) : Bool :=
  s.sx.stores.all (fun r => !(r.seq < seq && r.cls = cls && !r.loose)) &&
  s.sx.loads.all (fun l => !(l.seq < seq && l.cls = cls && l.data.isNone))

/-- Have all accesses of the core in the classes of a mask, issued before cycle `t`, performed (R315, R317, R343)? The commands of
C count by the class they carry (R118). -/
def State.drained (s : State) (m t : Nat) : Bool :=
  s.sx.stores.all (fun r => r.mask.toNat &&& m = 0) &&
  s.sx.loads.all (fun l => !(bitsOf m l.cls 1 = 1 && l.data.isNone)) &&
  s.sx.comb.all (fun l => l.classes.toNat &&& m = 0) &&
  s.cc.cmds.all (fun c => c.finished || t ≤ c.iss || (match c.cls with | some k => bitsOf m k 1 = 0 | none => true))

/-! ### The combining buffer (R315) -/

/-- The runs of adjacent bytes of a line: offset and bytes. -/
def cellRuns : List Host.Cell → List (Nat × List Byte)
  | [] => []
  | (a, b) :: t =>
    match cellRuns t with
    | (c, bs) :: u => if c = a + 1 then (a, b :: bs) :: u else (a, [b]) :: (c, bs) :: u
    | [] => [(a, [b])]

/-- The destination of a line's bytes at an offset. -/
def CombLine.at (l : CombLine) (o : Nat) : Dest :=
  match l.dest with
  | .sram _ => .sram o
  | .obj id _ => .obj id o

/-- From the draining of a line to its performing, at the least (R6, R62). -/
def State.lineLat (s : State) (l : CombLine) : Nat :=
  match l.dest with
  | .sram a => s.spadLat a
  | .obj id o => 1 + s.writeLat id o + s.delay
/-- The answers of a port to the parts of a drained line: refused or parked as a whole (R67, R82, R83). -/
def State.lineCheck (s : State) (l : CombLine) : List (Nat × List Byte) → Chk
  | [] => .ok
  | r :: t =>
    match s.checkObj l.cap r.1 r.2.length s.ctl.vi s.ctl.world with
    | .ok => s.lineCheck l t
    | x => x
/-- A line leaves the buffer for the store queue, to perform whole (R315): at its bank, or at its port, where a held segment
parks it, or, where the port is full, is held back, and a refusal is a fault of S after its instructions have issued. -/
def State.drainLine (s : State) (l : CombLine) : State :=
  let rs := cellRuns l.cells
  let spad : Bool := match l.dest with | .sram _ => true | .obj _ _ => false
  let c := if spad then .ok else s.lineCheck l rs
  let u := { s with sx := { s.sx with comb := s.sx.comb.filter (fun x => x.seq ≠ l.seq) } }
  let add (s : State) (due : Option Nat) (parked : Bool) : State :=
    { s with sx := { s.sx with
        stores := s.sx.stores ++ rs.map (fun r =>
          { seq := l.seq, dest := l.at r.1, bytes := r.2, cls := 0, mask := l.classes, cap := l.cap, off := r.1, loose := true,
            bypass := false, plain := true, epoch := l.epoch, at_ := s.now, due := due, parked := parked }) } }
  match c with
  | .bad e => u.raiseF ⟨s.now, e, 0, 0, l.cap, BitVec.ofNat 64 (match rs with | r :: _ => r.1 | [] => 0), 0, false, false⟩
  | .park p => add (if u.portFull p then u else u.park (.store l.seq) p) none true
  | .ok => if spad then add u none false
      else add u.popDelay (some (Nat.min (s.now + s.lineLat l) (Nat.max (l.first + 4096) s.now))) false
/-- Every line that covers a class of the mask leaves the buffer. -/
def State.flushComb (s : State) (m : Nat) : State :=
  (s.sx.comb.filter (fun l => l.classes.toNat &&& m ≠ 0)).foldl State.drainLine s

/-! ### Loads (R310 to R313) -/

/-- The line of a slice that answers a load at its issue, where nothing of its class is before it. -/
def State.hitAtIssue (s : State) (cls id o : Nat) : Option (Nat × Line) :=
  match s.sliceFor id with
  | some sl => if s.classFree cls s.sx.seq then (s.lineAt sl id o).map (fun l => (sl, l)) else none
  | none => none

/-- An untimed load whose check has passed, or that parks (R83, R312). -/
def State.postLoad (s : State) (dst size : Nat) (signed : Bool) (cls : Nat) (k : Cap) (o : Nat) (park : Option Nat) : State :=
  let l : LoadRec := ⟨s.sx.seq, dst, size, signed, destOf k o, cls, k, o, s.now, 14, none, none, park.isSome⟩
  let add (s : State) (l : LoadRec) : State := { s with sx := { s.sx with loads := s.sx.loads ++ [l] } }
  if isSpad k then (add s { l with lat := s.spadLat o }).nextSeq
  else match park with
    | some p => (add (s.park (.load s.sx.seq) p) l).nextSeq
    | none =>
      match s.hitAtIssue cls (capObj k) o with
      | some (sl, ln) =>
        (add ((s.countLookup sl true).touch ln) { l with due := some (s.now + 14), data := some (ln.part o size) }).nextSeq
      | none => (add s { l with due := some (s.now + 1 + s.readLat (capObj k) o + s.delay) }).popDelay.nextSeq

/-- A load inside a run (R313, R348): a request at its bank in its issue cycle, or zeros and SAccMiss. -/
def State.timedLoad (s : State) (dst size : Nat) (signed : Bool) (k : Cap) (o : Int) (need : Nat) : State :=
  let a := o.toNat
  if isSpad k && (checkCap k need o size).isNone && o % size = 0 then
    let land := s.now + s.spadLat a
    let act := if dst < 32 then TReqDo.readS dst size signed land else TReqDo.readC (dst - 32) land
    s.pushReq s.now (16 * s.coreJ) a act
  else
    let t := s.pushPend (s.now + 14) .s (.ssticky bSAccMiss)
    if dst < 32 then t.wrS dst 0 14 else t.wrC (dst - 32) 0 14

/-- Would an untimed read through a capability find an uncorrectable error (R65)? A load of a class looks up the slice. -/
def State.readBad (s : State) (k : Cap) (o n : Nat) (cls : Option Nat) : Bool :=
  !isSpad k && (match cls with
    | some c => s.loadBad (capObj k) o n (2 ^ c)
    | none => s.badObj (capObj k) o n)
/-- The check of an untimed read, at its issue and again where it performs (R65, R67, R93). -/
def State.checkRead (s : State) (k : Cap) (need : Nat) (o : Int) (n : Nat) (cls : Option Nat) : Chk :=
  match s.checkAcc k need o n with
  | .ok => if s.readBad k o.toNat n cls then .bad 0x08D else .ok
  | r => r
/-- S holds: the instruction is tried again in the next cycle (R301). -/
def State.retry (s : State) : State := { s with sx := { s.sx with next := s.now + 1 } }
/-- A load form (R310, R311): alignment, then the check, then the access. -/
def State.loadForm (s : State) (dst size : Nat) (signed : Bool) (c cls : BitVec 4) (off : BitVec 13) (need : Nat) : Out :=
  let k := s.creg c.toNat
  let o := smOff k off
  if s.timed then .next (s.timedLoad dst size signed k o need).advS
  else s.reading [.c c.toNat]
    (if o % size ≠ 0 then .next (s.fault 0 (if size = 16 then 0x081 else 0x200) k (BitVec.ofInt 64 o) 0)
     else match s.checkRead k need o size (some cls.toNat) with
       | .bad code => .next (s.fault 0 code k (BitVec.ofInt 64 o) 0)
       | .park p => if s.portFull p then .next s.retry else .next (s.postLoad dst size signed cls.toNat k o.toNat (some p)).advS
       | .ok =>
         if s.pendEn && isSpad k && s.pendingSpad o.toNat size then s.trapAcc 0x002 k o.toNat
         else .next (s.postLoad dst size signed cls.toNat k o.toNat none).advS)

/-- LDB (R310). -/
def execLdb (d : BitVec 5) (c k : BitVec 4) (o : BitVec 13) (s : State) : Out := s.loadForm d.toNat 1 true c k o rRD
/-- LDH (R310). -/
def execLdh (d : BitVec 5) (c k : BitVec 4) (o : BitVec 13) (s : State) : Out := s.loadForm d.toNat 2 true c k o rRD
/-- LDW (R310). -/
def execLdw (d : BitVec 5) (c k : BitVec 4) (o : BitVec 13) (s : State) : Out := s.loadForm d.toNat 4 true c k o rRD
/-- LDD (R310). -/
def execLdd (d : BitVec 5) (c k : BitVec 4) (o : BitVec 13) (s : State) : Out := s.loadForm d.toNat 8 true c k o rRD
/-- LDBN (R310). -/
def execLdbn (d : BitVec 5) (c k : BitVec 4) (o : BitVec 13) (s : State) : Out := s.loadForm d.toNat 1 false c k o rRD
/-- LDHN (R310). -/
def execLdhn (d : BitVec 5) (c k : BitVec 4) (o : BitVec 13) (s : State) : Out := s.loadForm d.toNat 2 false c k o rRD
/-- LDWN (R310). -/
def execLdwn (d : BitVec 5) (c k : BitVec 4) (o : BitVec 13) (s : State) : Out := s.loadForm d.toNat 4 false c k o rRD
/-- LDC (R70). -/
def execLdc (d c k : BitVec 4) (o : BitVec 13) (s : State) : Out :=
  s.loadForm (32 + d.toNat) 16 false c k o (rRD ||| rLC)

/-! ### Stores (R310 to R313) -/

/-- Post a store whose check has passed, or that parks (R83, R312). -/
def State.postStore (s : State) (bytes : List Byte) (cls : Nat) (k : Cap) (o : Nat) (loose plain : Bool) (park : Option Nat) :
    State :=
  let r : StoreRec := ⟨s.sx.seq, destOf k o, bytes, cls, BitVec.ofNat 16 (2 ^ cls), k, o, loose, loose, plain, s.sx.epoch, s.now,
    none, park.isSome⟩
  let add (s : State) (r : StoreRec) : State := { s with sx := { s.sx with stores := s.sx.stores ++ [r] } }
  if isSpad k then (add s r).nextSeq
  else match park with
    | some p => (add (s.park (.store s.sx.seq) p) r).nextSeq
    | none => (add s { r with due := some (s.now + 1 + s.writeLat (capObj k) o + s.delay) }).popDelay.nextSeq

/-- A store inside a run (R313, R348): a request at its bank 6 or 14 cycles on, or nothing and SAccMiss, 14 cycles on as for a load
(R22; DESIGN CHOICE, log entry 112). -/
def State.timedStore (s : State) (bytes : List Byte) (k : Cap) (o : Int) (need : Nat) : State :=
  let a := o.toNat
  if isSpad k && (checkCap k need o bytes.length).isNone && o % bytes.length = 0 then
    s.pushReq (s.now + s.spadLat a) (16 * s.coreJ) a (.write bytes)
  else s.pushPend (s.now + 14) .s (.ssticky bSAccMiss)

/-- Is the port at which an access would park full (R83)? -/
def State.held (s : State) (c : Chk) : Bool := match c with | .park p => s.portFull p | _ => false
/-- A posted store of an untimed form: a full queue holds S (R312). -/
def State.storeUntimed (s : State) (bytes : List Byte) (cls : Nat) (k : Cap) (o : Int) (need misal : Nat)
    (loose plain : Bool) : Out :=
  if o % bytes.length ≠ 0 then .next (s.fault 0 misal k (BitVec.ofInt 64 o) 0)
  else match s.check k need o bytes.length with
    | .bad code => .next (s.fault 0 code k (BitVec.ofInt 64 o) 0)
    | r =>
      if 16 ≤ s.sx.stores.length || s.held r then .next s.retry
      else .next (s.postStore bytes cls k o.toNat loose plain (match r with | .park p => some p | _ => none)).advS

/-- A store form (R310, R311). -/
def State.storeForm (s : State) (data : RegRef) (bytes : List Byte) (c cls : BitVec 4) (off : BitVec 13) (need : Nat) : Out :=
  let k := s.creg c.toNat
  let o := smOff k off
  if s.timed then .next (s.timedStore bytes k o need).advS
  else s.reading [.c c.toNat, data]
    (s.storeUntimed bytes cls.toNat k o need (if bytes.length = 16 then 0x081 else 0x200) false true)

/-- STB (R310). -/
def execStb (d : BitVec 5) (c k : BitVec 4) (o : BitVec 13) (s : State) : Out :=
  s.storeForm (.s d.toNat) (leBytes 1 (s.sreg d.toNat).toNat) c k o rWR
/-- STH (R310). -/
def execSth (d : BitVec 5) (c k : BitVec 4) (o : BitVec 13) (s : State) : Out :=
  s.storeForm (.s d.toNat) (leBytes 2 (s.sreg d.toNat).toNat) c k o rWR
/-- STW (R310). -/
def execStw (d : BitVec 5) (c k : BitVec 4) (o : BitVec 13) (s : State) : Out :=
  s.storeForm (.s d.toNat) (leBytes 4 (s.sreg d.toNat).toNat) c k o rWR
/-- STD (R310). -/
def execStd (d : BitVec 5) (c k : BitVec 4) (o : BitVec 13) (s : State) : Out :=
  s.storeForm (.s d.toNat) (leBytes 8 (s.sreg d.toNat).toNat) c k o rWR
/-- STC (R70). -/
def execStc (d c k : BitVec 4) (o : BitVec 13) (s : State) : Out :=
  s.storeForm (.c d.toNat) (leBytes 16 (s.creg d.toNat).toNat) c k o (rWR ||| rSC)

/-! ### Blocking forms (R315 to R317) -/

/-- The offset of a MEMX or AMO form (R314, R316). -/
def memxOff (k : Cap) (b : W64) : Nat := capLower k + b.toNat % 2 ^ 48
/-- The covered classes: those of sb[63:48] and the access's own (R315). -/
def coveredMask (b : W64) (cls : Nat) : Nat := b.toNat / 2 ^ 48 ||| 2 ^ cls

/-- Write back the lines of the selected slice that hold a byte of a covered store (R344). -/
def State.releaseLines (s : State) (m : Nat) : State :=
  let ss := s.ctl.slicesel.toNat
  if bitsOf ss 2 1 = 1 then
    s.cleanLines (fun l => l.cluster = s.cluster && l.slice = bitsOf ss 0 2 && (l.classes.toNat &&& m ≠ 0))
  else s

/-- Does a launch use a cluster: is one of its cores bound there, or the core of this model one of them (R379)? -/
def State.usesCluster (s : State) (launch cluster : Nat) : Bool :=
  (launch = s.ctl.launchNo && cluster = s.cluster) || s.fw.bind.any (fun b => b.1 / 8 = cluster && b.2.toNat % 256 = launch)
/-- Is the slot of a bank in this cycle marked for timed traffic by a launch that uses its cluster (R94, R379)? -/
def State.barred (s : State) (b : Nat) : Bool :=
  s.fab.xbar.any (fun x => x.2.contains (256 * (s.now % 256) + b % 256) && s.usesCluster x.1 (b / 256))
/-- Is a bank, by its package key, free for one untimed request in this tape cycle (R94)? -/
def State.bankFree (s : State) (b : Nat) : Bool :=
  s.ticks (64 + b / 256) && !s.barred b && !s.sram.served.contains b &&
  !s.sram.timed.any (fun r => r.cycle = s.now && !r.isFetch && s.reqKey r / 65536 = b)
/-- A bank serves an untimed request of a number in this cycle: its pointer stands just after it (R94). -/
def State.serve (s : State) (b num : Nat) : State :=
  { s with sram := { s.sram with served := s.sram.served ++ [b], rr := tset 0 s.sram.rr b ((num + 1) % 130) } }

/-- The latency of a blocking access (R62, R312, R316). -/
def State.blkLat (s : State) (k : Cap) (o : Nat) : Nat :=
  if isSpad k then s.spadLat o else 1 + s.readLat (capObj k) o + s.delay
/-- A blocking form that holds from cycle `t` on with its captured operands. -/
def holding (d d1 a b : W64) (cap : Cap) (t ready : Nat) : Blk := ⟨d, d1, a, b, cap, t, ready, 0, 0, false, false, false, false⟩

/-- A blocking access captures its operands, after its checks; a parked one waits (R83, R107, R311, R316). -/
def State.capture (s : State) (d d1 b : W64) (k : Cap) (o n need misal : Nat) (cls : Option Nat) : Out :=
  let x : Blk := { holding d d1 (BitVec.ofNat 64 o) b k s.now (s.now + s.blkLat k o) with n := n, need := need }
  if misal ≠ 0 && o % n ≠ 0 then .next (s.fault 0 misal k (BitVec.ofNat 64 o) 0)
  else match s.checkRead k need o n cls with
    | .bad c => .next (s.fault 0 c k (BitVec.ofNat 64 o) 0)
    | .park p => if s.portFull p then .next s.retry else .next ((s.park .blk p).block { x with parked := true })
    | .ok => if s.pendEn && isSpad k && s.pendingSpad o n then .next (s.fault 0 0x002 k (BitVec.ofNat 64 o) 0)
      else .next (s.popDelay.block x)

/-- Does a blocking access still wait for its latency or for a retry (R62, R83)? -/
def State.waits (s : State) (x : Blk) : Bool := decide (s.now < x.ready) || x.parked
/-- A blocking access whose latency has elapsed: it asks its bank and performs once served, refused as R482 says; or it performs
at its port, where it may have to park (R83, R90). -/
def State.finish (s : State) (x : Blk) (n need : Nat) (cls : Option Nat) (k : State → Out) : Out :=
  let o := x.a.toNat
  if isSpad x.cap then
    if !x.granted then .next (s.block { x with ask := true })
    else match s.bankCheck s.ctl.world (o / 65536) with
      | some c => .next (s.advS.raiseF ⟨s.now, c, 0, 0, x.cap, x.a, 0, false, false⟩)
      | none => k s
  else match s.checkRead x.cap need o n cls with
    | .bad c => .next (s.unblock.fault 0 c x.cap x.a 0)
    | .park p => if s.portFull p then .next s.retry else .next ((s.park .blk p).block { x with parked := true })
    | .ok => k s

/-- Bytes of a store operand. -/
def sizeOf (z : BitVec 2) : Nat := 2 ^ z.toNat

/-- LDAQ (R314, R315): S holds until the value has come. -/
def execLdaq (d : BitVec 5) (a : BitVec 4) (b : BitVec 5) (c : BitVec 4) (_p : BitVec 3) (z : BitVec 2) (s : State) : Out :=
  match s.sx.blk with
  | none => s.reading [.c a.toNat, .s b.toNat]
      (s.capture 0 0 (s.sreg b.toNat) (s.creg a.toNat) (memxOff (s.creg a.toNat) (s.sreg b.toNat)) (sizeOf z) rRD 0x200
        (some c.toNat))
  | some x =>
    if s.waits x || !s.classFree c.toNat s.sx.seq then .next s.retry
    else s.finish x (sizeOf z) rRD (some c.toNat) (fun s =>
      let r := match destOf x.cap x.a.toNat with
        | .sram o => (s, s.spadRead o (sizeOf z))
        | .obj id o => s.loadMiss id o (sizeOf z) c.toNat
      .next (r.1.wrS d.toNat (loadVal false r.2) 1).nextSeq.advS)

/-- STRL (R314, R315): S holds until every covered access has performed at the scope, then posts the store. -/
def execStrl (d : BitVec 5) (a : BitVec 4) (b : BitVec 5) (c : BitVec 4) (p : BitVec 3) (z : BitVec 2) (s : State) : Out :=
  match s.sx.blk with
  | none => s.reading [.c a.toNat, .s b.toNat, .s d.toNat]
      (let o := memxOff (s.creg a.toNat) (s.sreg b.toNat)
       if o % sizeOf z ≠ 0 then .next (s.fault 0 0x200 (s.creg a.toNat) (BitVec.ofNat 64 o) 0)
       else match s.check (s.creg a.toNat) rWR o (sizeOf z) with
         | .bad e => .next (s.fault 0 e (s.creg a.toNat) (BitVec.ofNat 64 o) 0)
         | _ => .next ((s.flushComb (coveredMask (s.sreg b.toNat) c.toNat)).block
             (holding (s.sreg d.toNat) 0 (BitVec.ofNat 64 o) (s.sreg b.toNat) (s.creg a.toNat) s.now s.now)))
  | some x =>
    let m := coveredMask x.b c.toNat
    if !s.drained m x.at_ || 16 ≤ s.sx.stores.length then .next s.retry
    else
      let s := if 2 ≤ p.toNat then s.releaseLines m else s
      match s.check x.cap rWR x.a.toNat (sizeOf z) with
      | .bad e => .next (s.unblock.fault 0 e x.cap x.a 0)
      | r => if s.held r then .next s.retry else .next (s.postStore (leBytes (sizeOf z) x.d.toNat) c.toNat x.cap x.a.toNat false false
          (match r with | .park q => some q | _ => none)).advS

/-- STS (R314, R315). -/
def execSts (d : BitVec 5) (a : BitVec 4) (b : BitVec 5) (c : BitVec 4) (z : BitVec 2) (s : State) : Out :=
  s.reading [.c a.toNat, .s b.toNat, .s d.toNat]
    (s.storeUntimed (leBytes (sizeOf z) (s.sreg d.toNat).toNat) c.toNat (s.creg a.toNat)
      (memxOff (s.creg a.toNat) (s.sreg b.toNat)) rWR 0x200 true true)

/-- Is the line of the combining buffer the one of a destination? -/
def CombLine.holds (l : CombLine) (d : Dest) : Bool :=
  match l.dest, d with
  | .sram x, .sram y => x = y / 128 * 128
  | .obj i x, .obj j y => i = j && x = y / 128 * 128
  | _, _ => false
/-- Merge bytes into a line (R315). -/
def CombLine.merge (l : CombLine) (cls o : Nat) (b : List Byte) : CombLine :=
  { l with classes := l.classes ||| BitVec.ofNat 16 (2 ^ cls)
           cells := (cellsAt o b).foldl (fun m c => tins m c.1 c.2) l.cells }
/-- Lines that have left the combining buffer for the store queue and have not performed: they are still in use (R315). -/
def State.leavingLines (s : State) : Nat :=
  (onceEach ((s.sx.stores.filter (fun r => r.loose && !r.bypass)).map (fun r => (r.seq, 0)))).length
/-- Does a store to a new line find all eight lines in use (R315)? -/
def State.combFull (s : State) (k : Cap) (o : Nat) : Bool :=
  !s.sx.comb.any (fun l => l.holds (destOf k o)) && 8 ≤ s.sx.comb.length + s.leavingLines
/-- The oldest line is to perform first: it leaves the buffer, unless one does already, and S holds (R315). -/
def State.evict (s : State) : State :=
  if s.leavingLines = 0 then (match s.sx.comb with | l :: _ => s.drainLine l | [] => s) else s
/-- Merge a store into the combining buffer (R315). -/
def State.combine (s : State) (cls : Nat) (k : Cap) (o : Nat) (b : List Byte) : State :=
  let d := destOf k o
  match s.sx.comb.find? (fun l => l.holds d) with
  | some _ => { s with sx := { s.sx with comb := s.sx.comb.map (fun l => if l.holds d then l.merge cls o b else l) } }
  | none =>
    let dest := match d with | .sram a => Dest.sram (a / 128 * 128) | .obj id a => .obj id (a / 128 * 128)
    let l : CombLine := ⟨dest, s.now, 0, [], k, s.sx.epoch, s.sx.seq⟩
    { s with sx := { s.sx with comb := s.sx.comb ++ [l.merge cls o b] } }.nextSeq

/-- STCB (R314, R315). -/
def execStcb (d : BitVec 5) (a : BitVec 4) (b : BitVec 5) (c : BitVec 4) (z : BitVec 2) (s : State) : Out :=
  let k := s.creg a.toNat
  let o := memxOff k (s.sreg b.toNat)
  s.reading [.c a.toNat, .s b.toNat, .s d.toNat]
    (if o % sizeOf z ≠ 0 then s.trapAcc 0x200 k o
     else match s.check k rWR o (sizeOf z) with
       | .bad e => s.trapAcc e k o
       | _ => if s.combFull k o then .next s.evict.retry
           else .next (s.combine c.toNat k o (leBytes (sizeOf z) (s.sreg d.toNat).toNat)).advS)

/-- The new value of an atomic of `w` bits (R316): old value, operand, the pair's second operand. -/
def amoOp (op w : Nat) (old x y : Nat) : Nat :=
  if op = 0 then (old + x) % 2 ^ w
  else if op = 1 then old &&& x
  else if op = 2 then old ||| x
  else if op = 3 then old ^^^ x
  else if op = 4 then (if sgn x w < sgn old w then x else old)
  else if op = 5 then (if sgn old w < sgn x w then x else old)
  else if op = 6 then (if x < old then x else old)
  else if op = 7 then (if old < x then x else old)
  else if op = 8 then x
  else if old = x then y else old

/-- Read and write in one step: an atomic writes back and drops a slice line that holds its address (R102, R316). It is
performed at the memory controller and counts as no lookup, in Hits or Misses: the spec does not say (DESIGN CHOICE, log
entry 71). -/
def State.atomic (s : State) (x : Blk) (n op : Nat) : State × Nat :=
  let d := x.d.toNat % 2 ^ (8 * n)
  let d1 := x.d1.toNat % 2 ^ (8 * n)
  match destOf x.cap x.a.toNat with
  | .sram o =>
    let old := leNat (s.spadRead o n)
    (s.spadWrite o (leBytes n (amoOp op (8 * n) old d d1)), old)
  | .obj id o =>
    let s := match s.sliceFor id with
      | some sl =>
        let here (l : Line) : Bool := l.cluster = s.cluster && l.slice = sl && l.id = id && l.line = o / 128
        (s.cleanLines here).dropLines here
      | none => s
    let old := leNat (s.objRead id o n)
    (s.objWrite id o (leBytes n (amoOp op (8 * n) old d d1)), old)

/-- AMO (R316). -/
def execAmo (d : BitVec 5) (a : BitVec 4) (b : BitVec 5) (c : BitVec 4) (r : BitVec 2) (z : BitVec 1) (o : BitVec 4)
    (s : State) : Out :=
  let n := if z = 1 then 8 else 4
  let need := rRD ||| rWR ||| rAT
  match s.sx.blk with
  | none => s.reading ([.c a.toNat, .s b.toNat, .s d.toNat] ++ (if o = 9 then [.s (d.toNat + 1)] else []))
      ((if 2 ≤ r.toNat then s.flushComb (coveredMask (s.sreg b.toNat) c.toNat) else s).capture
        (s.sreg d.toNat) (s.sreg (d.toNat + 1)) (s.sreg b.toNat) (s.creg a.toNat)
        (memxOff (s.creg a.toNat) (s.sreg b.toNat)) n need 0x08E none)
  | some x =>
    let m := coveredMask x.b c.toNat
    if s.waits x || !s.classFree c.toNat s.sx.seq || (2 ≤ r.toNat && !s.drained m x.at_) then .next s.retry
    else
      let s := if 2 ≤ r.toNat && !isSpad x.cap then s.releaseLines m else s
      s.finish x n need none (fun s =>
        let t := s.atomic x n o.toNat
        .next (t.1.wrS d.toNat (BitVec.ofNat 64 t.2) 1).nextSeq.advS)

/-- FENCE (R317, R344). -/
def execFence (a : BitVec 5) (p : BitVec 4) (s : State) : Out :=
  let go (s : State) (m at_ : Nat) (t : State) : Out :=
    if s.drained m at_ then .next (if 2 ≤ p.toNat then s.releaseLines m else s).advS else .next t
  match s.sx.blk with
  | none => s.reading [.s a.toNat]
      (let m := (s.sreg a.toNat).toNat % 2 ^ 16
       let s := s.flushComb m
       go s m s.now (s.block (holding (BitVec.ofNat 64 m) 0 0 0 0 s.now s.now)))
  | some x => go s x.d.toNat x.at_ s.retry

/-- A line of the slice that SLICESEL selects. -/
def State.selected (s : State) (l : Line) : Bool := l.cluster = s.cluster && l.slice = bitsOf s.ctl.slicesel.toNat 0 2
/-- Is a slice selected at all? -/
def State.sliceEn (s : State) : Bool := bitsOf s.ctl.slicesel.toNat 2 1 = 1
/-- SLWB (R317). -/
def execSlwb (s : State) : Out := .next (if s.sliceEn then s.cleanLines s.selected else s).advS
/-- SLINV (R317). -/
def execSlinv (s : State) : Out :=
  .next (if s.sliceEn then (s.cleanLines s.selected).dropLines (fun l => s.selected l && l.tenant = s.tenant) else s).advS

/-! ### The rows that carry posted accesses -/

/-- The cluster address of a load that waits at its bank (R94, R340). -/
def State.loadAtBank (s : State) (l : LoadRec) : Option Nat :=
  match l.src with
  | .sram a => if l.due.isNone && s.classFree l.cls l.seq then some a else none
  | .obj _ _ => none
/-- The cluster address of a store that waits at its bank (R94, R312). -/
def State.storeAtBank (s : State) (r : StoreRec) : Option Nat :=
  match r.dest with
  | .sram a => if r.due.isNone && (r.loose || s.classFree r.cls r.seq) && r.at_ + s.spadLat a ≤ s.now then some a else none
  | .obj _ _ => none

/-- An access refused at its bank after its instruction had issued (R482). -/
def State.refused (s : State) (code : Nat) (k : Cap) (o : Nat) : State :=
  s.raiseF ⟨s.now, code, 0, 0, k, BitVec.ofNat 64 o, 0, false, false⟩
/-- Drop a load. -/
def State.dropLoad (s : State) (n : Nat) : State := { s with sx := { s.sx with loads := s.sx.loads.filter (fun l => l.seq ≠ n) } }
/-- Drop a store. -/
def State.dropStore (s : State) (n : Nat) : State :=
  { s with sx := { s.sx with stores := s.sx.stores.filter (fun r => r.seq ≠ n) } }

/-- A bank serves a load: the bytes of its bank cycle, 6 or 14 cycles before they land (R95, R312, R482). -/
def State.serveLoad (s : State) (l : LoadRec) (a : Nat) : State :=
  match s.bankCheck s.ctl.world (a / 65536) with
  | some c => (s.dropLoad l.seq).refused c l.cap l.off
  | none =>
    let d := s.spadRead a l.size
    { s with sx := { s.sx with loads := s.sx.loads.map (fun x =>
        if x.seq = l.seq then { x with due := some (s.now + l.lat), data := some d } else x) } }
/-- A bank serves a store: it may perform in this cycle (R95, R312, R482). -/
def State.serveStore (s : State) (r : StoreRec) (a : Nat) : State :=
  match s.bankCheck s.ctl.world (a / 65536) with
  | some c => (s.dropStore r.seq).refused c r.cap r.off
  | none => { s with sx := { s.sx with stores := s.sx.stores.map (fun x =>
      if x.seq = r.seq then { x with due := some s.now } else x) } }
/-- A bank serves the blocking form of S: it performs in this cycle. -/
def State.serveBlk (s : State) : State :=
  { s with sx := { s.sx with next := s.now, blk := s.sx.blk.map (fun x => { x with granted := true }) } }

/-- Is a load's value late, and ready to land (R312)? -/
def State.lateReady (s : State) (l : LoadRec) : Bool :=
  match l.due with
  | some d => d ≤ s.now && (l.data.isSome || s.classFree l.cls l.seq) && l.at_ + l.lat < s.now + 1 &&
      !(d ≤ l.at_ + l.lat && s.now < l.at_ + l.lat)
  | none => false
/-- The bytes of a load as it lands (R340). -/
def State.loadBytes (s : State) (l : LoadRec) : State × List Byte :=
  match l.data with
  | some b => (s, b)
  | none =>
    match l.src with
    | .sram a => (s, s.spadRead a l.size)
    | .obj id o => s.loadMiss id o l.size l.cls
/-- UNTIMED_LOAD_LANDS (R312): the value lands and S goes on in the next cycle. -/
def execUntimedLoadLands (s : State) : Out :=
  match s.sx.loads.find? s.lateReady with
  | some l =>
    if l.data.isNone && s.readBad l.cap l.off l.size (some l.cls) then .next ((s.dropLoad l.seq).refused 0x08D l.cap l.off)
    else
      let r := s.loadBytes l
      let t := (r.1.dropLoad l.seq).putLoad l r.2
      .next { t with sx := { t.sx with next := Nat.max t.sx.next (s.now + 1) } }
  | none => .next s
/-- Loads that land on time, in the cycle t + L, among the other writes of S (R302, R312). -/
def State.landLoads (s : State) : State :=
  (s.sx.loads.filter (fun l => match l.due, l.data with
    | some d, some _ => d ≤ l.at_ + l.lat && l.at_ + l.lat ≤ s.now
    | _, _ => false)).foldl (fun s l => (s.dropLoad l.seq).pushIss l.at_ s.now .s (l.write (l.data.getD []))) s
/-- Is S frozen by a late load (R312)? -/
def State.frozen (s : State) : Bool := s.sx.loads.any (fun l => l.at_ + l.lat ≤ s.now)

/-- A store that may perform now (R312, R314). -/
def State.storeReady (s : State) (r : StoreRec) : Bool :=
  match r.due with
  | some d => d ≤ s.now && (r.loose || s.classFree r.cls r.seq)
  | none => false
/-- Has every store of the core before number `n` performed at PACKAGE (R321, R339, R344)? Bytes in a dirty line have not. -/
def State.storesDone (s : State) (n : Nat) : Bool :=
  s.sx.stores.all (fun r => n ≤ r.seq) && s.sx.comb.all (fun l => n ≤ l.seq) &&
  s.sram.lines.all (fun l => match l.first with | some k => n ≤ k | none => true)
/-- Complete a TKSIG ticket whose earlier stores have performed, each token in ticket order (R321). -/
def State.sigTurn (s : State) : State :=
  match s.sx.sigs.find? (fun x => s.storesDone x.2.2 && s.tokTurn x.1 x.2.1) with
  | some x => { s with sx := { s.sx with sigs := s.sx.sigs.filter (fun y => y ≠ x) } }.completeTok x.1 x.2.1
  | none => s
/-- A form of S that holds, and is past its `ready`, looks again in the cycle in which an access has performed, for it completes in
that cycle (R317, R325). -/
def State.lookAgain (s : State) : State :=
  match s.sx.blk with
  | some x => if x.ready ≤ s.now then { s with sx := { s.sx with next := Nat.min s.sx.next s.now } } else s
  | none => s
/-- STORE_PERFORM (R312, R339, R355): a posted store leaves the queue and performs. -/
def execStorePerform (s : State) : Out :=
  match s.sx.stores.find? s.storeReady with
  | some r => .next (((s.dropStore r.seq).perform (s.sx.stores.filter (fun x => x.seq = r.seq))).lookAgain)
  | none => .next s
/-- A combining line that has to leave now to have performed 4,096 cycles after its first store (R315). One of the scratchpad leaves
1,024 cycles before, for its bank has still to serve it: when a line leaves of itself the spec leaves open (DESIGN CHOICE, log
entry 93). -/
def State.oldLine (s : State) : Option CombLine :=
  s.sx.comb.find? (fun l => l.first + 4096 ≤ s.now + s.lineLat l + (match l.dest with | .sram _ => 1024 | .obj _ _ => 0))
/-- STCB_LINE_TIMEOUT (R315). -/
def execStcbLineTimeout (s : State) : Out :=
  match s.oldLine with
  | some l => .next (s.drainLine l)
  | none => .next s

/-- The parked access after a retry that parks again (R83). -/
def Parked.again (p : Parked) (now ceil : Nat) : Parked :=
  let w := min (2 * p.wait) (2 ^ ceil)
  { p with wait := w, retryAt := now + w }
/-- Replace or drop a parked access. -/
def State.setParked (s : State) (p : Parked) (q : Option Parked) : State :=
  { s with mem := { s.mem with parked := s.mem.parked.filter (fun x => x.who ≠ p.who) ++ q.toList } }
/-- Is an access parked? -/
def State.isParked (s : State) (w : ParkWho) : Bool := s.mem.parked.any (fun p => p.who = w)
/-- An access that has gone parks no more. -/
def State.unpark (s : State) (w : ParkWho) : State :=
  { s with mem := { s.mem with parked := s.mem.parked.filter (fun x => x.who ≠ w) } }
/-- What a retry does with the answer of its check (R83, R90). -/
def State.retryWith (s : State) (p : Parked) (c : Chk) (k : Cap) (o : Nat) (go drop : State → State) : State :=
  match c with
  | .ok => go (s.setParked p none)
  | .park q => s.setParked p (some ({ p with port := q }.again s.now (tget 20 s.mem.retryCeil q)))
  | .bad e => (drop (s.setParked p none)).fault 0 e k (BitVec.ofNat 64 o) 0
/-- The check of a posted store, of all its parts (R67). -/
def State.lineAsk (s : State) (seq : Nat) : Chk :=
  (s.sx.stores.filter (fun r => r.seq = seq)).foldl (fun (c : Chk) x => match c with
    | .ok => s.checkObj x.cap x.off x.bytes.length s.ctl.vi s.ctl.world
    | c => c) .ok
/-- The retry of a posted store: all its parts go on together (R83, R315). -/
def State.retryStore (s : State) (p : Parked) (seq : Nat) : State :=
  match s.sx.stores.filter (fun r => r.seq = seq) with
  | [] => s.setParked p none
  | r :: _ =>
    s.retryWith p (s.lineAsk seq) r.cap r.off (fun s => { s with sx := { s.sx with stores := s.sx.stores.map (fun (x : StoreRec) =>
      if x.seq = seq then { x with parked := false, due := some (s.now + s.writeLat (capObj r.cap) r.off + s.delay) } else x) } }.popDelay)
      (fun s => s.dropStore seq)
/-- A drained line that a full port has held back comes to it (R83). -/
def State.heldBack1 (s : State) (seq : Nat) : State :=
  match s.sx.stores.find? (fun r => r.seq = seq) with
  | none => s
  | some r => match s.lineAsk r.seq with
    | .park q => if s.portFull q then s else s.park (.store seq) q
    | _ => s.retryStore ⟨.store seq, s.now, 64, 0⟩ seq
/-- Every store that a full port holds back, in turn. -/
def State.heldBack (s : State) : State :=
  (onceEach ((s.sx.stores.filter (fun r => r.parked && !s.isParked (.store r.seq))).map (fun r => (r.seq, 0)))).foldl
    (fun (t : State) x => t.heldBack1 x.1) s
/-- The retry of an untimed load (R83). -/
def State.retryLoad (s : State) (p : Parked) (seq : Nat) : State :=
  match s.sx.loads.find? (fun l => l.seq = seq) with
  | none => s.setParked p none
  | some l => s.retryWith p (s.checkObj l.cap l.off l.size s.ctl.vi s.ctl.world) l.cap l.off
      (fun s => { s with sx := { s.sx with loads := s.sx.loads.map (fun (x : LoadRec) =>
        if x.seq = seq then { x with parked := false, due := some (s.now + s.readLat (capObj l.cap) l.off + s.delay) } else x) } }.popDelay)
      (fun s => s.dropLoad seq)
/-- The retry of the blocking form of S: translated, its access has a memory latency still before it (R62, R83). -/
def State.retryBlk (s : State) (p : Parked) : State :=
  match s.sx.blk with
  | none => s.setParked p none
  | some x => s.retryWith p (s.checkObj x.cap x.a.toNat x.n s.ctl.vi s.ctl.world) x.cap x.a.toNat
      (fun s => { s with sx := { s.sx with blk := some { x with parked := false, ready := s.now + s.readLat (capObj x.cap) x.a.toNat + s.delay } } }.popDelay)
      State.unblock
/-- The retry of another requester, which makes its own access again when it is no longer parked (R83). -/
def State.retryOther (s : State) (p : Parked) (c : Chk) : State :=
  match c with
  | .park q => s.setParked p (some ({ p with port := q }.again s.now (tget 20 s.mem.retryCeil q)))
  | _ => s.setParked p none
/-- A parked access whose retry is due (R83). -/
def State.retryDue (s : State) : Option Parked := s.mem.parked.find? (fun p => p.retryAt ≤ s.now)

end Sys2Proof.Machine
end

