-- ==== Sys2Proof/Machine/Operands.lean ====
section
/-! DEFINITION. Where operands stand: views, register clusters, ports and address generators, the gather unit, and the S
forms that set them (R190 to R214). -/

namespace Sys2Proof.Machine

/-! ### Views (R192 to R196) -/

/-- View register w. -/
def State.view (s : State) (w : Nat) : View := tget .reset s.rs.views w
/-- Write view register w. -/
def State.setView (s : State) (w : Nat) (v : View) : State :=
  { s with rs := { s.rs with views := tset .reset s.rs.views w v } }
/-- The address of Wv[i] (R193). -/
def View.addr (v : View) (i : Nat) : Nat := v.base + (v.rot + 256 * i) % v.span
/-- The address of byte b of a view's window (R193). -/
def View.at (v : View) (b : Nat) : Nat := v.base + (v.rot + b) % v.span

/-- A well-formed view descriptor (R192). -/
def viewOk (v : View) (res : List Byte) : Bool :=
  v.base % 256 = 0 && v.base < 2 ^ 18 && v.kind < 3 && v.type < 14 && 1 ≤ v.rows && v.rows ≤ 128 &&
  (v.kind ≠ 0 || v.rows = 1) && v.span % 256 = 0 && 256 ≤ v.span && v.span ≤ 262144 &&
  v.rotStep % 256 = 0 && v.rotStep + 256 ≤ v.span && res.all (fun b => b = 0) && v.base + v.span ≤ 262144 &&
  (32768 ≤ v.span || v.base / 32768 = (v.base + v.span - 1) / 32768)
/-- The n bytes of a descriptor at an offset, as a number. -/
def fieldAt (b : List Byte) (o n : Nat) : Nat := leNat ((b.drop o).take n)
/-- A view descriptor of 32 bytes; none where it is malformed (R192). -/
def viewOf (b : List Byte) : Option View :=
  let v : View := ⟨fieldAt b 0 4, fieldAt b 4 1, fieldAt b 5 1, fieldAt b 6 2, fieldAt b 8 4, fieldAt b 12 4, 0⟩
  if viewOk v (b.drop 16) then some v else none
/-- The rotating base of a view advances (R196). -/
def View.turn (v : View) : View := { v with rot := (v.rot + v.rotStep) % v.span }
/-- Rotate (R196). -/
def State.rotate (s : State) : State :=
  [0, 1, 2, 3, 4, 5, 6, 7].foldl (fun s w => s.setView w (s.view w).turn) s

/-! ### Register space (R190, R198, R407) -/

/-- The accumulator rows that commands of M issued before command `id` have still to write (R407). -/
def State.mTargets (s : State) (id : Nat) : List Nat :=
  let on (c : Nat) : Bool := c ≠ 0 && c < id
  (match s.me.stream with
   | some x => if on x.cmd then ((List.range x.rows).drop x.row).map x.view.addr else []
   | none => []) ++
  (s.me.rows.filter (fun r => on r.cmd)).map (fun r => r.addr) ++
  (match s.me.drain with
   | some d => if on d.cmd && (d.kind = 1 || d.kind = 3) then ((List.range d.rows).drop d.row).map d.view.addr else []
   | none => [])
/-- Is a write to an 8-byte word of the range in flight (R407): one that has issued untimed, a CCPYR, a DRAIN that waits, or one
of M issued before command `id`? -/
def State.pendingRsBy (s : State) (id a n : Nat) : Bool :=
  s.pend.any (fun p => match p.tgt with
    | .rs cells => !s.inPast p.iss && cells.any (fun c => sameWord a n c.1 1)
    | _ => false) ||
  s.cc.cmds.any (fun c => !c.finished && c.writes.any (fun w => match w with
    | .rs cells => cells.any (fun x => sameWord a n x.1 1)
    | _ => false)) ||
  s.dpend.any (fun x => x.base.any (fun b => sameWord a n b 256)) ||
  (s.mTargets id).any (fun b => sameWord a n b 256)
/-- Is a write to an 8-byte word of the range in flight (R407)? -/
def State.pendingRs (s : State) (a n : Nat) : Bool := s.pendingRsBy (s.cm.ids + 1) a n
/-- Read 256 bytes of the register space for a consumer: a fault code untimed, zeros and RegOff in a run (R198, R407). -/
def State.rsVec (s : State) (a : Nat) : Except Nat (State × List Byte) :=
  if s.regOn a then
    if s.pendEn && !s.timed && s.pendingRs a 256 then .error 0x002 else .ok (s, s.rsRead a 256)
  else if s.timed then .ok (s.stickyReg bRegOff, List.replicate 256 0)
  else .error 0x143
/-- May the range be written at this issue? Untimed: a code; in a run: dropped, with RegOff (R198). -/
def State.rsDst (s : State) (a n : Nat) : Except Nat (State × Bool) :=
  if s.regOnRange a n then .ok (s, true)
  else if s.timed then .ok (s.stickyReg bRegOff, false)
  else .error 0x143

/-- The state of the eight clusters as REGPWR (R199). -/
def State.regpwr (s : State) : W64 :=
  BitVec.ofNat 64 ((List.range 8).foldl (fun n i =>
    let p := (tget (0, 0) s.rs.power i).1
    n + (if p = 0 then 2 ^ i else 0) + (if p = 2 then 2 ^ (8 + i) else 0)) 0)
/-- REGMODE on one cluster (R197): the change takes effect in the next cycle. -/
def State.regmode1 (s : State) (v n : Nat) : State :=
  let on := bitsOf v n 1 = 1
  let off := bitsOf v (8 + n) 1 = 1
  let p := (tget (0, 0) s.rs.power n).1
  if on && !off && p = 1 then s.pushPend (s.now + 1) .s (.power n 2 (s.now + 64))
  else if off && !on && p ≠ 1 then s.pushPend (s.now + 1) .s (.power n 1 0)
  else s
/-- REGMODE (R197). -/
def execRegmode (a : BitVec 5) (s : State) : Out :=
  s.reading [.s a.toNat]
    (.next ((List.range 8).foldl (fun t n => t.regmode1 (s.sreg a.toNat).toNat n) s).advS)
/-- REGSTAT (R214). -/
def execRegstat (d : BitVec 5) (s : State) : Out := .next (s.wrS d.toNat s.regpwr 1).advS
/-- A cluster whose waking is over. -/
def State.waking (s : State) : Option Nat :=
  (List.range 8).find? (fun n => (tget (0, 0) s.rs.power n).1 = 2 && (tget (0, 0) s.rs.power n).2 ≤ s.now)
/-- REGCLUSTER_WAKE (R197): a waking cluster becomes ON, every byte zero. -/
def execRegclusterWake (s : State) : Out :=
  match s.waking with
  | some n => .next { s.setPower n 0 0 with rs := { (s.setPower n 0 0).rs with
      bytes := s.rs.bytes.filter (fun c => c.1 / 32768 ≠ n) } }
  | none => .next s

/-! ### Address generators (R200 to R207) -/

/-- Address generator n. -/
def State.agen (s : State) (n : Nat) : AGen := tget .reset s.rs.ags n
/-- Write address generator n. -/
def State.setAgen (s : State) (n : Nat) (g : AGen) : State :=
  { s with rs := { s.rs with ags := tset .reset s.rs.ags n g } }
/-- Beats of one walk. -/
def Nest.total (n : Nest) : Nat := n.counts.foldl (fun a c => a * c) 1
/-- The byte step of beat k from Base: level 0 innermost (R202). -/
def nestStep : Nat → List Nat → List Int → Int
  | k, c :: cs, x :: xs => ((k % c : Nat) : Int) * x + nestStep (k / c) cs xs
  | _, _, _ => 0
/-- The address of beat k, and whether it left a window that is not circular (R202). -/
def Nest.addr (n : Nest) (k : Nat) : Nat × Bool :=
  let d := (n.base : Int) + nestStep (k % n.total) n.counts n.strides - n.winLo
  let out := d < 0 || (n.winSize : Int) ≤ d
  let a := n.winLo + (d % (n.winSize : Int)).toNat
  (a / 2 ^ n.widthLog * 2 ^ n.widthLog, out && !n.circular)
/-- Has a walk that does not repeat passed its last beat? -/
def AGen.past (g : AGen) (k : Nat) : Bool :=
  match g.nest with
  | some n => !n.rep && n.total ≤ k
  | none => true
/-- AGGET's state: exhausted once its last beat has left (R202, R214). -/
def AGen.state (g : AGen) : Nat := if g.st = 1 && g.past g.k then 2 else g.st
/-- λ of a window: 6 with every bank near the core (R204). -/
def State.lambda (s : State) (n : Nest) : Nat :=
  if n.winLo / 65536 / 32 = s.coreJ && (n.winLo + n.winSize - 1) / 65536 / 32 = s.coreJ then 6 else 14
/-- The cycle from which beat kf may be read; none until beat kf − 16 has been popped (R204). -/
def AGen.readAt (g : AGen) : Option Nat :=
  if g.kf < 16 then some g.nextR
  else if g.k ≤ g.kf - 16 then none
  else match g.pops[g.k - 1 - (g.kf - 16)]? with
    | some p => some (Nat.max g.nextR (p + 1))
    | none => some g.nextR

/-- A cluster bank as a timed access or a beat meets it: usable? (R96, R203) -/
def State.bankUsable (s : State) (b : Nat) : Bool := (s.bankCheck s.ctl.world b).isNone
/-- Set AGWrap where a beat left its window (R202). -/
def State.agWrap (s : State) (n : Nat) (w : Bool) : State := if w then s.stickyReg (bAGWrap n) else s
/-- Does a read generator have a beat to read in this cycle (R204)? -/
def State.agReads (s : State) (n : Nat) : Bool :=
  let g := s.agen n
  g.st = 1 && n < 6 && !g.off && !g.past g.kf && (match g.readAt with | some r => r ≤ s.now | none => false)
/-- Does a write generator have a pushed beat due (R204)? -/
def State.agWrites (s : State) (n : Nat) : Bool :=
  6 ≤ n && (s.agen n).beats.any (fun b => b.1 ≤ s.now)
/-- Read the next beat of generator n (R203, R204): at once, or as a timed request in a run. -/
def State.agRead (s : State) (n : Nat) (g : AGen) (ne : Nest) : State :=
  let w := 2 ^ ne.widthLog
  let a := (ne.addr g.kf).1
  let s := s.agWrap n (ne.addr g.kf).2
  let put (s : State) (b : List Byte) : State :=
    s.setAgen n { g with kf := g.kf + 1, nextR := s.now + 1, beats := g.beats ++ [(s.now, g.kf, b)] }
  if s.timed then
    put (s.pushReq s.now (16 * s.coreJ + 2 + n) a (.readAG n g.kf)) []
  else if s.bankUsable (a / 65536) then put s (fitBytes 256 (s.spadRead a w))
  else put (s.stickySram bBankMiss) (List.replicate 256 0)
/-- Write a pushed beat that is due (R203, R204). -/
def State.agWrite (s : State) (n : Nat) : State :=
  let g := s.agen n
  match g.beats with
  | (_, a, b) :: t =>
    let s := s.setAgen n { g with beats := t }
    if s.bankUsable (a / 65536) then s.spadWrite a b else s.stickySram bBankMiss
  | [] => s
/-- The cluster address of the untimed beat that generator n has to read or write in this cycle (R203, R204). -/
def State.agWants (s : State) (n : Nat) : Option Nat :=
  if s.agWrites n then (match (s.agen n).beats with | b :: _ => some b.2.1 | [] => none)
  else if s.agReads n && !s.timed then (s.agen n).nest.map (fun ne => (ne.addr (s.agen n).kf).1)
  else none
/-- Its bank serves a generator's beat in this cycle (R94). -/
def State.agTurn (s : State) (n : Nat) (b : Bool) : State := s.setAgen n { s.agen n with turn := b }
/-- Does generator n make a beat now: at once in a run, otherwise as its bank serves it (R94, R203)? -/
def State.agGoes (s : State) (n : Nat) : Bool := (s.agen n).turn || (s.timed && s.agReads n)
/-- AG_BEAT (R203, R204): the first generator that makes a beat. -/
def execAgBeat (s : State) : Out :=
  match [6, 7, 0, 1, 2, 3, 4, 5].find? s.agGoes with
  | some n =>
    let t := s.agTurn n false
    if t.agWrites n then .next (t.agWrite n)
    else if t.agReads n then (match (t.agen n).nest with | some ne => .next (t.agRead n (t.agen n) ne) | none => .next t)
    else .next t
  | none => .next s

/-- How a pop or push at a port stands (R205). -/
inductive PortSt where
  | ready | early | dry
  deriving DecidableEq, Repr

/-- Has a beat left or entered the port in this cycle (R200)? In a run nothing waits, and the next engine takes beat k + 1 in
the same cycle (log entry 68). -/
def State.portUsed (s : State) (g : AGen) : Bool := !s.timed && g.pops.head? = some s.now
/-- May a consumer pop port n in this cycle (R200, R205)? -/
def State.popSt (s : State) (n : Nat) : PortSt :=
  let g := s.agen n
  if g.st ≠ 1 || g.past g.k then .dry
  else if s.portUsed g then .early
  else match g.beats with
    | (r, _, _) :: _ => if r + g.lam ≤ s.now then .ready else .early
    | [] => .early
/-- May a producer push to port n (R200, R205)? -/
def State.pushSt (s : State) (n : Nat) : PortSt :=
  let g := s.agen n
  if g.st ≠ 1 || g.past g.k then .dry else if s.portUsed g then .early else .ready
/-- The generator passes its beat k (R204, R206). A beat that was not read keeps its read cycle r_k: the next one is read after
it. -/
def AGen.pop (g : AGen) (t : Nat) : AGen :=
  { g with
    k := g.k + 1, kf := Nat.max g.kf (g.k + 1), beats := g.beats.drop 1, pops := (t :: g.pops).take 16
    nextR := if g.kf ≤ g.k then g.readAt.getD g.nextR + 1 else g.nextR }
/-- Pop port n: the beat, or zeros with the sticky bit that R205 names for a run. -/
def State.portPop (s : State) (n : Nat) : State × List Byte :=
  let g := s.agen n
  match s.popSt n with
  | .ready => (s.setAgen n (g.pop s.now), (match g.beats with | (_, _, b) :: _ => b | [] => List.replicate 256 0))
  | .early => ((s.setAgen n (g.pop s.now)).stickyReg bPortEarly, List.replicate 256 0)
  | .dry => (s.stickyReg bPortDry, List.replicate 256 0)
/-- Push a beat to port n; dropped with PortDry where it is dry (R204, R205). -/
def State.portPush (s : State) (n : Nat) (b : List Byte) : State :=
  let g := s.agen n
  match s.pushSt n, g.nest with
  | .ready, some ne =>
    let a := (ne.addr g.k).1
    let w := 2 ^ ne.widthLog
    let s := s.agWrap n (ne.addr g.k).2
    let g' := { g with k := g.k + 1, pops := (s.now :: g.pops).take 16 }
    if s.timed then
      (s.pushReq (s.now + g.lam) (16 * s.coreJ + 2 + n) a (.write (b.take w))).setAgen n g'
    else s.setAgen n { g' with beats := g.beats ++ [(s.now + g.lam, a, b.take w)] }
  | _, _ => s.stickyReg bPortDry

/-- A loop-nest descriptor of 64 bytes for generator n; none where it is malformed (R201). -/
def nestOf (n : Nat) (b : List Byte) : Option (Nest × Nat) :=
  let f := fieldAt b 12 1
  let ne : Nest :=
    { base := fieldAt b 0 4, winLo := fieldAt b 4 4, winSize := fieldAt b 8 4, circular := bitsOf f 0 1 = 1,
      rep := bitsOf f 1 1 = 1, write := bitsOf f 2 1 = 1, widthLog := fieldAt b 13 1,
      counts := (List.range 6).map (fun k => fieldAt b (16 + 2 * k) 2),
      strides := (List.range 6).map (fun k => sgn (fieldAt b (32 + 4 * k) 4) 32), cap := 0 }
  if ne.base < 2 ^ 24 && ne.winLo < 2 ^ 24 && ne.winLo % 256 = 0 && ne.winSize % 256 = 0 && 256 ≤ ne.winSize &&
     ne.winLo + ne.winSize ≤ 2 ^ 24 && f < 8 && (ne.write == decide (6 ≤ n)) && 5 ≤ ne.widthLog && ne.widthLog ≤ 8 &&
     fieldAt b 14 1 < 16 && fieldAt b 15 1 = 0 && ne.counts.all (fun c => c ≠ 0) && fieldAt b 28 4 = 0 && fieldAt b 56 8 = 0
  then some (ne, fieldAt b 14 1) else none
/-- The capability test of AGSET and GSET (R201, R208). -/
def winCapOk (k : Cap) (need lo n : Nat) : Bool := isSpad k && (checkCap k need lo n).isNone

/-- A form that loads a descriptor (R213): checks, the read, then `f` on the bytes, a code where they are malformed. -/
def State.loadDesc (s : State) (c : BitVec 4) (b : BitVec 5) (size : Nat) (f : State → List Byte → Except Nat State) : Out :=
  match s.sx.blk with
  | none => s.reading [.c c.toNat, .s b.toNat]
      (let o := (s.sreg b.toNat).toNat
       if o % size ≠ 0 then s.trapAcc 0x081 (s.creg c.toNat) o
       else s.capture 0 0 0 (s.creg c.toNat) o size rRD 0 none)
  | some x =>
    if s.waits x then .next s.retry
    else s.finish x size rRD none (fun t =>
      match f t (t.readDest (destOf x.cap x.a.toNat) size) with
      | .ok u => .next u.advS
      | .error e => s.trapAcc e x.cap x.a.toNat)

/-- VIEWLD (R192, R213). -/
def execViewld (d : BitVec 3) (a : BitVec 4) (b : BitVec 5) (s : State) : Out :=
  s.loadDesc a b 32 (fun s by' => match viewOf by' with
    | some v => .ok (s.setView d.toNat v)
    | none => .error 0x140)
/-- The field that VIEWGET selects (R214). -/
def View.get (v : View) (f : Nat) : Nat :=
  if f = 0 then v.base else if f = 1 then v.span else if f = 2 then v.rot else if f = 3 then v.rotStep
  else v.kind + 256 * v.type + 65536 * v.rows
/-- VIEWGET (R214). -/
def execViewget (d : BitVec 5) (a : BitVec 3) (f : BitVec 5) (s : State) : Out :=
  .next (s.wrS d.toNat (BitVec.ofNat 64 ((s.view a.toNat).get f.toNat)) 1).advS
/-- AGSET (R201, R207, R213). -/
def execAgset (g : BitVec 3) (a : BitVec 4) (b : BitVec 5) (s : State) : Out :=
  s.loadDesc a b 64 (fun s by' => match nestOf g.toNat by' with
    | some (ne, c) =>
      if winCapOk (s.creg c) (if ne.write then rWR else rRD) ne.winLo ne.winSize then
        .ok (s.setAgen g.toNat { s.agen g.toNat with shadow := some { ne with cap := s.creg c } })
      else .error 0x141
    | none => .error 0x141)
/-- The timed requests of generator n, for beats of its present walk, are discarded (R204). -/
def State.dropBeats (s : State) (n : Nat) : State :=
  { s with sram := { s.sram with timed := s.sram.timed.filter (fun r => !(r.core && r.num = 16 * s.coreJ + 2 + n)) } }
/-- GO on one generator (R204): beats fetched or pending from the former walk are discarded. -/
def State.go1 (s : State) (n : Nat) : State :=
  let g := s.agen n
  match g.shadow with
  | some ne => (s.dropBeats n).setAgen n
      { g with nest := some ne, st := 1, k := 0, kf := 0, nextR := s.now, halt := false, pops := [], beats := [],
               lam := s.lambda ne, turn := false, off := false }
  | none => s.setAgen n { g with st := 0 }
/-- The generators that a mask names. -/
def named (v : W64) : List Nat := (List.range 8).filter (fun n => bitsOf v.toNat n 1 = 1)
/-- GO (R204). -/
def execGo (a : BitVec 5) (s : State) : Out :=
  s.reading [.s a.toNat] (.next ((named (s.sreg a.toNat)).foldl State.go1 s).advS)
/-- AGSTOP (R207). -/
def execAgstop (a : BitVec 5) (s : State) : Out :=
  s.reading [.s a.toNat]
    (.next ((named (s.sreg a.toNat)).foldl (fun s n => s.setAgen n { s.agen n with halt := true }) s).advS)
/-- A stopped generator becomes idle; beats that were pushed still land (R207). -/
def AGen.stop (n : Nat) (g : AGen) : AGen :=
  { g with st := 0, halt := false, beats := if 6 ≤ n then g.beats else [], turn := decide (6 ≤ n) && g.turn }
/-- The stops of the last cycle take effect (R207). -/
def State.agStops (s : State) : State :=
  (List.range 8).foldl (fun s n => if (s.agen n).halt then s.setAgen n ((s.agen n).stop n) else s) s
/-- A generator that a fault stops in its walk: the beats read and not popped are discarded (R211, R402). -/
def AGen.pause (n : Nat) (g : AGen) : AGen := if n < 6 && g.st = 1 then { g with beats := [], turn := false, off := true } else g
/-- A generator that was stopped in its walk reads on from its beat K, as if GO had issued in cycle t (R211, R402). -/
def AGen.unpause (t : Nat) (g : AGen) : AGen :=
  if g.off then { g with kf := g.k, nextR := t, pops := [], off := false } else g
/-- Change every generator. -/
def State.mapAgs (s : State) (f : Nat → AGen → AGen) : State :=
  { s with rs := { s.rs with ags := s.rs.ags.map (fun x => (x.1, f x.1 x.2)) } }
/-- The field that AGGET selects (R214). -/
def AGen.get (g : AGen) (f : Nat) : Nat :=
  if f = 0 then g.state else if f = 1 then g.k
  else if f = 2 then (match g.nest with | some ne => (ne.addr g.k).1 | none => 0)
  else if g.shadow.isSome then 1 else 0
/-- AGGET (R214). -/
def execAgget (d : BitVec 5) (g : BitVec 3) (f : BitVec 5) (s : State) : Out :=
  .next (s.wrS d.toNat (BitVec.ofNat 64 ((s.agen g.toNat).get f.toNat)) 1).advS

/-! ### The gather unit (R208, R209) -/

/-- A gather descriptor of 32 bytes; none where it is malformed (R208). -/
def gdescOf (b : List Byte) : Option (GDesc × Nat) :=
  let g : GDesc := ⟨fieldAt b 0 4, fieldAt b 4 4, fieldAt b 8 4, fieldAt b 12 1, 0⟩
  if g.winLo < 2 ^ 24 && g.winLo % 256 = 0 && g.winSize % 256 = 0 && 256 ≤ g.winSize && g.winLo + g.winSize ≤ 2 ^ 24 &&
     1 ≤ g.stride && g.stride ≤ 2 ^ 24 && 5 ≤ g.rowLog && g.rowLog ≤ 8 && fieldAt b 13 1 < 16 && fieldAt b 14 18 = 0
  then some (g, fieldAt b 13 1) else none
/-- GSET (R208, R213). -/
def execGset (a : BitVec 4) (b : BitVec 5) (s : State) : Out :=
  s.loadDesc a b 32 (fun s by' => match gdescOf by' with
    | some (g, c) =>
      if winCapOk (s.creg c) rRD g.winLo g.winSize then
        .ok { s with rs := { s.rs with gdesc := some { g with cap := s.creg c } } }
      else .error 0x142
    | none => .error 0x142)
/-- The address of a row, and whether its index wrapped (R209). -/
def GDesc.rowAddr (g : GDesc) (i : Nat) : Nat × Bool :=
  let d := i * g.stride
  let a := g.winLo + d % g.winSize
  (a / 2 ^ g.rowLog * 2 ^ g.rowLog, g.winSize ≤ d)
/-- Is lane k active under mask field m: 0 names no mask (R36, R209)? -/
def State.lane (s : State) (m k : Nat) : Bool := m = 0 || (s.mreg m).getLsbD k
/-- The rows of a gather: address and wrap, none where its lane is off (R209). -/
def State.gatherRows (s : State) (g : GDesc) (m : Nat) (idx : List Byte) (n : Nat) : List (Option (Nat × Bool)) :=
  (List.range n).map (fun k => if s.lane m k then some (g.rowAddr (fieldAt idx (4 * k) 4)) else none)
/-- The timed requests of a gather issued in a run (R95: row k at t + 1 + k). -/
def State.gatherReqs (s : State) (id : Nat) (rows : List (Option (Nat × Bool))) : List TReq :=
  ((List.range rows.length).zip rows).filterMap (fun kr => kr.2.map (fun ra =>
    (⟨s.now + 1 + kr.1, 16 * s.coreJ + 10, s.sram.order, ra.1, true, .readG id kr.1, s.now, true⟩ : TReq)))
/-- An earlier fill of a latch is discarded, with the requests of its rows (R209). -/
def State.dropFill (s : State) (lam : Nat) : State :=
  let old := s.rs.fills.filter (fun (x : GFill) => x.latch = lam)
  { s with
    rs := { s.rs with fills := s.rs.fills.filter (fun (x : GFill) => x.latch ≠ lam) }
    sram := { s.sram with timed := s.sram.timed.filter (fun r => match r.act with
      | .readG id _ => !old.any (fun f => f.id = id)
      | _ => true) } }
/-- Start a fill of a latch (R209), whose rows keep the length that the descriptor gives at the issue. -/
def State.startFill (s : State) (lam : Nat) (rows : List (Option (Nat × Bool))) : State :=
  let n := rows.length
  let id := s.rs.fillNo
  let wraps := ((List.range n).zip rows).filterMap (fun x => match x.2 with
    | some (_, true) => some (s.now + 1 + x.1)
    | _ => none)
  let f : GFill := ⟨id, lam, match s.rs.gdesc with | some g => 2 ^ g.rowLog | none => 256,
    if s.timed then [] else rows, if s.timed then wraps else [], if s.timed then List.replicate n [] else [], s.now + 1,
    s.now + n + 14⟩
  let s := s.dropFill lam
  let s := { s with rs := { s.rs with fills := s.rs.fills ++ [f], fillNo := id + 1 } }
  if s.timed then { s with sram := { s.sram with timed := s.sram.timed ++ s.gatherReqs id rows, order := s.sram.order + 1 } }
  else s
/-- GGO (R209): in untimed code it waits for an earlier fill of its latch. -/
def execGgo (m v : BitVec 3) (b : BitVec 5) (i : BitVec 3) (s : State) : Out :=
  s.reading ([.s b.toNat] ++ (if m = 0 then [] else [.m m.toNat]))
    (let sb := (s.sreg b.toNat).toNat
     let n := bitsOf sb 0 6
     let lam := bitsOf sb 6 1
     if !s.timed && s.rs.fills.any (fun f => f.latch = lam) then .next s.retry
     else match s.rsVec ((s.view v.toNat).addr i.toNat) with
       | .error c => s.trapS c
       | .ok (s, idx) =>
         if n = 0 || 32 < n then .next (s.stickyReg bGathBad).advS
         else match s.rs.gdesc with
           | none => .next ((s.startFill lam (List.replicate n none))).advS
           | some g => .next (s.startFill lam (s.gatherRows g m.toNat idx n)).advS)
/-- GSTAT (R214). -/
def execGstat (d : BitVec 5) (s : State) : Out :=
  let b (x : Bool) (n : Nat) : Nat := if x then n else 0
  let v := b (s.rs.fills.any (fun f => f.latch = 0)) 1 + b (s.rs.fills.any (fun f => f.latch = 1)) 2 +
    b s.rs.gdesc.isSome 4
  .next (s.wrS d.toNat (BitVec.ofNat 64 v) 1).advS

/-- An untimed fill passes its next row, which its bank serves in this cycle or whose lane is off (R203, R209): GathWrap is set with
the row that left the window. The latch takes its rows 14 cycles after the last of them. -/
def State.fillRow (s : State) (f : GFill) : State :=
  match f.todo with
  | [] => s
  | r :: t =>
    let x : State × List Byte := match r with
      | none => (s, [])
      | some (a, w) =>
        let s := if w then s.stickyReg bGathWrap else s
        if s.bankUsable (a / 65536) then (s, s.spadRead a f.width) else (s.stickySram bBankMiss, [])
    let f' := { f with todo := t, rows := f.rows ++ [x.2], nextAt := s.now + 1, endAt := Nat.max f.endAt (s.now + t.length + 14) }
    { x.1 with rs := { x.1.rs with fills := x.1.rs.fills.map (fun (y : GFill) => if y.id = f.id then f' else y) } }
/-- The cluster address of the row that an untimed fill waits for (R203, R209). -/
def State.fillWants (s : State) (f : GFill) : Option Nat :=
  if s.now < f.nextAt then none else match f.todo with | some (a, _) :: _ => some a | _ => none
/-- The rows of the cycle that ends whose lanes are off (R209). -/
def State.fillRows (s : State) : State :=
  (s.rs.fills.filter (fun f => decide (f.nextAt ≤ s.now) && (match f.todo with | none :: _ => true | _ => false))).foldl State.fillRow s
/-- A filled latch: 32 rows of 256 bytes. -/
def latchOf (rows : List (List Byte)) : List (List Byte) :=
  (rows.map (fitBytes 256) ++ List.replicate 32 (List.replicate 256 0)).take 32
/-- Rows of a fill in a run that left the window set GathWrap in the cycle of their read (R209). -/
def State.wrapFills (s : State) : State :=
  if s.rs.fills.any (fun f => f.wraps.any (fun c => c ≤ s.now)) then
    { s.stickyReg bGathWrap with rs := { s.rs with fills := s.rs.fills.map (fun (f : GFill) =>
      { f with wraps := f.wraps.filter (fun c => s.now < c) }) } }
  else s
/-- Latches whose fill ends in this cycle take their rows (R209). -/
def State.landFills (s : State) : State :=
  let s := s.wrapFills
  let ends (f : GFill) : Bool := f.endAt ≤ s.now && f.todo.isEmpty
  let done := s.rs.fills.filter ends
  let s := { s with rs := { s.rs with fills := s.rs.fills.filter (fun f => !ends f) } }
  done.foldl (fun s f =>
    if f.latch = 0 then { s with rs := { s.rs with latch0 := latchOf f.rows } }
    else { s with rs := { s.rs with latch1 := latchOf f.rows } }) s

end Sys2Proof.Machine
end

