-- ==== Sys2Proof/Machine/Links.lean ====
section
/-! DEFINITION. Where packages and members stand, routes, and what leaves by the links: queues, replay buffers, detours (R140,
R146, R150, R153 to R160). -/

namespace Sys2Proof.Machine

/-! ### Where a member stands (R140, R150) -/

/-- The coordinates of the package that holds a logical core (R378). -/
def State.packageOf (s : State) (logical : Nat) : Nat :=
  match s.grp.panel.find? (fun p => p.2.2 ≤ logical && logical < p.2.2 + p.2.1) with
  | some p => p.1
  | none => s.fab.coord
/-- Is a logical core on this package? -/
def State.localCore (s : State) (logical : Nat) : Bool := s.packageOf logical = s.fab.coord
/-- Links crossed in one dimension by the shorter way, the plus direction on a tie (R150): hops and direction. -/
def ringHops (n a b : Nat) : Nat × Bool :=
  if n = 0 then (0, true)
  else
    let f := (b + n - a) % n
    if f ≤ n - f then (f, true) else (n - f, false)
/-- Loom size in dimension i. -/
def State.loomSize (s : State) (i : Nat) : Nat := bitsOf s.fab.dims (4 * i) 4
/-- The default route to a package: links in order, X, Y, Z (R150). -/
def State.defaultRoute (s : State) (dest : Nat) : List Nat :=
  [0, 1, 2].flatMap (fun i =>
    let r := ringHops (s.loomSize i) (bitsOf s.fab.coord (3 * i) 3) (bitsOf dest (3 * i) 3)
    List.replicate r.1 (2 * i + if r.2 then 0 else 1))
/-- The route to a package: ease and links (R149, R150). -/
def State.route (s : State) (dest : Nat) : Nat × List Nat :=
  if dest = s.fab.coord then (0, [])
  else match s.fab.routes.find? (fun r => r.1 = dest) with
    | some r => (r.2.1, r.2.2)
    | none => (0, s.defaultRoute dest)

/-! ### Links and detours (R153 to R160) -/

/-- A link direction. With no neighbour, the loom being of size 1 in its dimension, it is ABSENT (R154). -/
def State.link (s : State) (k : Nat) : Link :=
  let l := tget .reset s.fab.links k
  if s.loomSize (k / 2) = 1 then { l with st := 4 } else l
/-- Write a link direction. -/
def State.setLink (s : State) (k : Nat) (l : Link) : State :=
  { s with fab := { s.fab with links := tset .reset s.fab.links k l } }
/-- Links on which a bypass of link k may begin: those of another dimension that are UP, the lowest first (R157). -/
def State.sideLinks (s : State) (k : Nat) : List Nat :=
  [0, 1, 2, 3, 4, 5].filter (fun b => b / 2 ≠ k / 2 && 1 < s.loomSize (b / 2) && (s.link b).st = 0)
/-- The bypass of a failed link (R157): across another dimension, else the other way around its ring. R157 speaks of the ring where no
other dimension has size greater than 1; with such a dimension, none of whose links is UP, the model goes round the ring too (DESIGN
CHOICE, log entry 96). -/
def State.bypass (s : State) (k : Nat) : Option (List Nat) :=
  match s.sideLinks k with
  | b :: _ => some [b, k, b ^^^ 1]
  | [] =>
    if 1 < s.loomSize (k / 2) && (s.link (k ^^^ 1)).st < 2 then some (List.replicate (s.loomSize (k / 2) - 1) (k ^^^ 1)) else none
/-- The link by which a flit meant for link k leaves, and the further links of its detour; none where no path leaves here (R154,
R156, R157, R160). -/
def State.way (s : State) (k : Nat) : Option (Nat × List Nat) :=
  if (s.link k).st < 2 then some (k, [])
  else match s.bypass k with
    | some (b :: t) => some (b, t)
    | _ => none
/-- Can an untimed flit leave for a package (R160)? -/
def State.reaches (s : State) (pkg : Nat) : Bool :=
  pkg = s.fab.coord || (match s.defaultRoute pkg with | k :: _ => (s.way k).isSome | [] => true)
/-- Untimed flits are queued for a link, or for its bypass; with no path they stay with the link (R157, R160). -/
def State.queueOut (s : State) (k : Nat) (ls : List Load) : State :=
  let w := (s.way k).getD (k, [])
  let l := s.link w.1
  s.setLink w.1 { l with out := l.out ++ ls.map (fun x => (⟨x, k, w.2.length, none⟩ : Flit)) }
/-- Untimed flits for a package leave by its default route (R160). -/
def State.sendTo (s : State) (pkg : Nat) (ls : List Load) : State :=
  match s.defaultRoute pkg with
  | k :: _ => s.queueOut k ls
  | [] => s
/-- The flits of fabric data: one for every 64 bytes begun of each element, and one for what a GET asks (log entry 77). -/
def fabLoads (d : FabData) : List Load :=
  let n := if d.form = 2 then 0 else (d.elems.map (fun e => (e.2.length + 63) / 64)).foldl (fun a b => a + b) 0
  (List.range (Nat.max 1 n)).map (fun i => Load.data d i)
/-- The flits of a shuttle: header, code, payload (R10, R166). -/
def shLoads (sh : Shuttle) : List Load := (List.range (2 + sh.flits)).map (fun i => Load.shuttle sh i)
/-- How many more flits may be sent unacknowledged (R153). -/
def Link.room (l : Link) : Nat := 4095 - l.buffer.length
/-- A flit leaves by a link: numbered, and kept in the replay buffer (R153, R155). -/
def Link.send (l : Link) (f : Flit) : Link :=
  { l with nextSeq := l.nextSeq + 1, txNo := l.txNo + 1, buffer := l.buffer ++ [⟨l.nextSeq, l.txEpoch, l.txNo, f⟩] }
/-- The nonce of a flit's block: the key epoch and the 64-bit block counter (R155, R417). -/
def SentFlit.nonce (f : SentFlit) : BitVec 96 := f.epoch ++ BitVec.ofNat 64 (f.no / 16)

/-- Does every link with Valid = 1 keep within 2 tape cycles of its neighbour (R363)? -/
def State.near (s : State) : Bool := [0, 1, 2, 3, 4, 5].all (fun k => !(s.link k).valid || (s.link k).offset.natAbs ≤ 128)
/-- Has every link that is UP a valid exchange, and every valid one its limit (R363)? -/
def State.inStep (s : State) : Bool := s.near && [0, 1, 2, 3, 4, 5].all (fun k => (s.link k).st ≠ 0 || (s.link k).valid)
/-- Aligned is set as soon as every link that is still UP has a valid exchange (R363): a link that leaves UP may have been the last
one that lacked it. -/
def State.alignAgain (s : State) : State :=
  if s.clk.loaded && s.inStep then { s with clk := { s.clk with aligned := true } } else s

/-! ### Timed pieces on their way (R151, R153, R156, R157) -/

/-- Does a timed piece of this package take a link's slot of 4 × cycle + lane? -/
def State.slotTaken (s : State) (b x : Nat) : Bool :=
  (s.link b).wait.any (fun w => w.1 = x) ||
  s.env.rivals.any (fun r => r.1 = x / 4 && r.2.1 = b && r.2.2.1 = 4 * (x / 4 % 256) + x % 4) ||
  s.sram.timed.any (fun r => r.cycle = x / 4 && (match r.act with
    | .send _ _ _ k p => k = b && p.lane = x % 4
    | .ask _ _ k p => k = b && p.lane = x % 4
    | _ => false))
/-- The pattern in force of a resource: slots with their kinds (R147, R158). -/
def State.patternOf (s : State) (res : Nat) : List (Nat × Nat) :=
  tget [] (if s.grp.failover then s.fab.failPattern else s.fab.pattern) res
/-- The slot of a link that a detoured or late timed piece takes from this cycle on: the first of kind 2 within the frame; else the
first that carries no timed piece (R157). The frame is the 1,024 slots from the piece's arrival on, where R157 could also mean what is
left of the present one; and of a late piece on a link of its own route it does not speak (DESIGN CHOICE, log entry 96). -/
def State.detourSlot (s : State) (b : Nat) : Nat :=
  let pat := s.patternOf b
  let xs := (List.range 1024).map (fun i => 4 * s.now + i)
  match xs.find? (fun x => pat.contains (x % 1024, 2) && !s.slotTaken b x) with
  | some x => x
  | none => (xs.find? (fun x => !s.slotTaken b x)).getD (4 * s.now)
/-- The cycle of a piece's slot on the link that it is to cross, with the links of its path behind it (R151). -/
def pieceCut (p : Piece) : Nat := p.nominal - 8 - 24 * (1 + p.path.length)
/-- Is it a part of the same piece, meant for the same slot? -/
def sameSlot (p q : Piece) : Bool :=
  p.nominal = q.nominal && p.lane = q.lane && p.core = q.core && p.issuer = q.issuer && p.red = q.red && p.path = q.path
/-- Add the parts of another piece of the same slot to a piece. -/
def joinPiece (p q : Piece) : Piece :=
  { p with more := p.more ++ [(q.addr, (match q.get with | some x => x.2.2.1 | none => 0), q.data.getD [])] ++ q.more }
/-- A flit put into the list of those that wait, the earliest slot first. -/
def insFlit (x : Nat × Flit) : List (Nat × Flit) → List (Nat × Flit)
  | [] => [x]
  | y :: t => if x.1 < y.1 then x :: y :: t else y :: insFlit x t
/-- A timed piece for another package comes to leave by link k, as the flit that had a number there before or as a new one: by the
link in its own slot where that is still to come, else in the first slot of R157; or by the bypass of a link that has failed (R153,
R156, R157). The parts of one piece are one flit. -/
def State.launchTimed (s : State) (k pkg core : Nat) (p : Piece) (seq : Option (BitVec 12)) : State :=
  let w := (s.way k).getD (k, [])
  let l := s.link w.1
  let straight : Bool := w.2.isEmpty && p.around = 0
  let cut := if p.around = 0 then pieceCut p else s.now
  let same (x : Flit) : Bool := match x.load with
    | .piece a b c q => a = pkg && b = core && c = cut && sameSlot p { q with path := q.path.drop w.2.length }
    | _ => false
  if l.wait.any (fun x => same x.2) then
    s.setLink w.1 { l with wait := l.wait.map (fun x => if same x.2 then (x.1, { x.2 with load := (match x.2.load with
      | .piece a b c q => .piece a b c (joinPiece q p)
      | y => y) }) else x) }
  else
    let at_ := if straight && s.now ≤ cut then 4 * cut + p.lane else s.detourSlot w.1
    let q := { p with path := w.2 ++ p.path, around := w.2.length + (p.around - 1) }
    s.setLink w.1 { l with wait := insFlit (at_, ⟨.piece pkg core cut q, k, w.2.length, seq⟩) l.wait }
/-- The record of a timed piece that leaves in this cycle (R156): late by what it waited here, resent or not, and by the links
added. -/
def State.sentOf (s : State) (f : Flit) : Option SentPiece :=
  match f.load with
  | .piece pkg core cut p => some ⟨pkg, core, f.link, f.added, s.now - cut + 24 * f.added, p⟩
  | _ => none
/-- A timed piece that left before leaves again: its record takes the new lateness. -/
def noteSent (l : List SentPiece) (x : SentPiece) : List SentPiece :=
  l.filter (fun y => !(y.pkg = x.pkg && y.core = x.core && y.piece = x.piece)) ++ [x]

/-! ### What leaves in a cycle (R146, R148, R153) -/

/-- The interface whose flit it is (R148). -/
def loadVi : Load → Nat
  | .sync _ _ => 0
  | .req r => r.vi
  | .answer r _ => r.vi
  | .data d _ => d.vi
  | .piece _ _ _ _ => 0
  | .shuttle sh _ => sh.tenant.toNat
/-- An untimed flit that goes before the turns of the interfaces: one resent over a detour, and the router's own sync flit (R154,
R362; log entry 97). -/
def goesFirst (f : Flit) : Bool := f.seq.isSome || (match f.load with | .sync _ _ => true | _ => false)
/-- A sync flit takes its stamps as it leaves (R362). -/
def stampFlit (f : Flit) (t : Nat) (arr : Int) : Flit :=
  match f.load with
  | .sync _ _ => { f with load := .sync (64 * (t : Int)) arr }
  | _ => f
/-- The next untimed flit, round-robin over the interfaces that have one queued, each for as many flits as firmware weighs it
(R148). -/
def Link.pick (l : Link) (weights : Table Nat) : Option (Flit × Link) :=
  match l.out.find? goesFirst with
  | some f => some (f, { l with out := l.out.erase f })
  | none =>
    let has (v : Nat) : Bool := l.out.any (fun f => loadVi f.load = v)
    let same : Bool := 0 < l.left && has l.turn
    match if same then some l.turn else ((List.range 64).map (fun i => (l.turn + 1 + i) % 64)).find? has with
    | none => none
    | some v =>
      let left := if same then l.left else Nat.max 1 (tget 0 weights v)
      (l.out.find? (fun f => loadVi f.load = v)).map (fun f => (f, { l with out := l.out.erase f, turn := v, left := left - 1 }))
/-- Send up to n untimed flits. -/
def Link.fill (weights : Table Nat) (t : Nat) : Nat → Link → Link
  | 0, l => l
  | n + 1, l =>
    match l.pick weights with
    | some (f, m) => Link.fill weights t n (m.send (stampFlit f t m.syncArr))
    | none => l
/-- Lanes of link k that timed pieces of other cores take in this cycle (R132, R148). -/
def State.rivalLanes (s : State) (k : Nat) : List (Nat × Nat) :=
  onceEach ((s.env.rivals.filter (fun r => r.1 = s.now && r.2.1 = k)).map (fun r => (0, r.2.2.1 % 4)))
/-- What leaves by link k in this cycle, at most one flit in each of its four lanes (R146, R147, R148, R153): the flits of a replay
first; then the timed flits whose slot has come; then, in the lanes that no timed piece takes, untimed ones. None passes the window,
and no new one a replay. -/
def State.sendLink (s : State) (k : Nat) : State :=
  let l := s.link k
  if 2 ≤ l.st || (l.again.isEmpty && l.out.isEmpty && !l.wait.any (fun w => w.1 / 4 ≤ s.now)) then s
  else
    let again := l.again.take 4
    let l0 := { l with again := l.again.drop 4 }
    let due := if l0.again.isEmpty then
        (l0.wait.filter (fun w => w.1 / 4 ≤ s.now)).take (Nat.min (4 - again.length) l0.room) else []
    let l1 := (due.map Prod.snd).foldl Link.send { l0 with wait := l0.wait.filter (fun w => !due.contains w) }
    let others := (s.rivalLanes k).filter (fun r => !due.any (fun w => w.1 = 4 * s.now + r.2))
    let free := if l0.again.isEmpty then Nat.min (4 - again.length - due.length - others.length) l1.room else 0
    let t := s.setLink k (Link.fill s.fab.weights s.now free l1)
    { t with fab := { t.fab with
        sentPieces := ((again.map (fun x => x.flit) ++ due.map Prod.snd).filterMap s.sentOf).foldl noteSent t.fab.sentPieces } }
/-- A flit of a link that no longer passes any goes to its bypass (R154, R157, R160). -/
def State.reroute1 (s : State) (k : Nat) (f : Flit) : State :=
  match f.load with
  | .piece pkg core _ p => s.launchTimed f.link pkg core { p with path := p.path.drop f.added, around := p.around - f.added } f.seq
  | _ =>
    let w := (s.way f.link).getD (k, [])
    let l := s.link w.1
    s.setLink w.1 { l with out := l.out ++ [{ f with added := w.2.length }] }
/-- Flits that wait for a link that passes none any more go to its bypass, where there is one: those of the replay buffer are resent
over it in sequence order, ahead of any new one, with the number of the link and their own (R154, R157, R160). -/
def State.reroute (s : State) (k : Nat) : State :=
  let l := s.link k
  if l.st < 2 || (s.way k).isNone || (l.out.isEmpty && l.wait.isEmpty && l.buffer.isEmpty) then s
  else
    let t := s.setLink k { l with out := [], wait := [], buffer := [], again := [] }
    let old := l.buffer.map (fun x => ({ x.flit with seq := some x.seq } : Flit))
    (old ++ l.wait.map Prod.snd ++ l.out).foldl (fun (t : State) f => t.reroute1 k f) t
/-- All that leaves the package by its links in this cycle. -/
def State.sendTurn (s : State) : State :=
  let t := [0, 1, 2, 3, 4, 5].foldl State.reroute s
  [0, 1, 2, 3, 4, 5].foldl State.sendLink t

end Sys2Proof.Machine
end

