-- ==== Sys2Proof/Machine/Chains.lean ====
section
/-! DEFINITION. Command chains of V, M and C: decoding entries, control entries, tokens, issue and completion (R47 to R50,
R113 to R120), and the S forms that set and publish chains (R321, R324, R325). -/

namespace Sys2Proof.Machine

/-- The number of an engine as frames and CBOUNDINFO code it (R121, R399). -/
def engNo : Engine → Nat
  | .s => 0
  | .v => 1
  | .m => 2
  | .c => 3
/-- The engine of a CHAIN form's field (R324). -/
def engOf (n : Nat) : Engine := if n = 1 then .v else if n = 2 then .m else .c
/-- A chain engine. -/
def State.chain (s : State) : Engine → Chain
  | .v => s.cv
  | .m => s.cm
  | .c => s.cc
  | .s => .reset
/-- Write a chain engine. -/
def State.setChain (s : State) (e : Engine) (c : Chain) : State :=
  match e with
  | .v => { s with cv := c }
  | .m => { s with cm := c }
  | .c => { s with cc := c }
  | .s => s
/-- A fault of a chain engine. -/
def State.faultAt (s : State) (e : Engine) (code : Nat) (cap : Cap) (off : Nat) : State :=
  s.fault (engNo e) code cap (BitVec.ofNat 64 off) 0

/-- Is the entry of the expected number published: does it lie in the 2^23 numbers before T (R50)? -/
def Chain.published (c : Chain) : Bool :=
  let d := (c.t + 2 ^ 24 - c.e) % 2 ^ 24
  0 < d && d ≤ 2 ^ 23
/-- TAIL or ACTIVE, by whether anything is published (R325). -/
def Chain.live (c : Chain) : Chain :=
  if c.st = 1 || c.st = 2 then { c with st := if !c.published && c.cur.isNone then 1 else 2 } else c
/-- Move past an entry: the next one has the next number (R50). -/
def Chain.past (c : Chain) (pos : Nat) : Chain := { c with pos := pos, e := (c.e + 1) % 2 ^ 24, cur := none }

/-! ### Reading an entry (R47 to R50) -/

/-- The code with which a word may not stand in a chain (R30, R44, R123). -/
def chainIllegal (i : Instr) : Option Nat :=
  match i with
  | .loop _ _ => some 0x45
  | .ccpyt _ _ _ _ _ _ => some 0x45
  | .ccpyrt _ _ _ _ _ => some 0x45
  | .cgatht _ _ _ _ _ _ => some 0x45
  | .cscatt _ _ _ _ _ _ => some 0x45
  | _ => none

/-- Where a chain engine reads n bytes of the core's scratchpad through a window, or the code that refuses it (R93, R325, R407). -/
def State.winAddr (s : State) (win : Cap) (off n : Nat) : Except Nat Nat :=
  let a := capLower win + off
  if capUpper win < a + n then .error 0x0CA
  else match s.check win rRD a n with
    | .bad c => .error c
    | .park _ => .error 0x0CA
    | .ok => if s.pendEn && s.pendingSpad a n then .error 0x002 else .ok a
/-- Read n bytes of the core's scratchpad for a chain engine through a window. -/
def State.winRead (s : State) (win : Cap) (off n : Nat) : Except Nat (List Byte) :=
  match s.winAddr win off n with
  | .error c => .error c
  | .ok a => .ok (s.spadRead a n)

/-- The code with which a profile does not take an F or K type (R240). -/
def profTakes (p : Option Prof) (t : Nat) : Option Nat :=
  match p with
  | none => some 0x46
  | some pr => if pr.types.contains t then none else some 0x43
/-- The test of the profile that a word takes from the state: VRSUM and VRDOT under VCTL.Prof, an M stream with imm16 = 0 under
the launch's default (R240, R257, R287). -/
def State.profCode (s : State) (e : Engine) (w : Nat) : Option Nat :=
  match e with
  | .v =>
    let op := bitsOf w 26 6
    let t := bitsOf w 22 4
    if (op = 48 || op = 51) && !tyInt t then profTakes (profOf s.vProf) t else none
  | .m =>
    let op := bitsOf w 27 5
    if 8 ≤ op && op ≤ 12 && bitsOf w 0 16 = 0 then profTakes (profOf s.ctl.defProf) (mType (bitsOf w 16 3)) else none
  | _ => none
/-- What a word of an engine is: its instruction, or the first code in table order that it meets, whose numbers rise in that
order (R28, R29, R240). -/
def State.legal (s : State) (e : Engine) (w : Nat) : Except Nat Instr :=
  match decodeFor e w, s.profCode e w with
  | .ok i, none => .ok i
  | .ok _, some c => .error c
  | .error c, none => .error c
  | .error c, some d => .error (Nat.min c d)
/-- The legality of a command entry's word (R28, R29, R49). -/
def State.wordCode (s : State) (e : Engine) (w : Nat) : Option Nat :=
  match s.legal e w with
  | .error c => some c
  | .ok i => chainIllegal i
/-- An entry's words: Word0, Token, Bound, Control (R47). -/
structure RawEntry where
  w0 : Nat
  tok : Nat
  bound : Nat
  ctl : Nat
  deriving DecidableEq, Repr
/-- The kind of an entry (R47). -/
def RawEntry.kind (r : RawEntry) : Nat := r.ctl / 2 ^ 28
/-- Its number (R47). -/
def RawEntry.seq (r : RawEntry) : Nat := r.ctl % 2 ^ 24
/-- Split 16 bytes (R47). -/
def rawOf (b : List Byte) : RawEntry := ⟨fieldAt b 0 4, fieldAt b 4 4, fieldAt b 8 4, fieldAt b 12 4⟩
/-- Does a loop entry open a level: it is not the innermost open one (R50)? -/
def Chain.opens (c : Chain) (seq : Nat) : Bool :=
  match c.loops with
  | (q, _) :: _ => q ≠ seq
  | [] => true
/-- Malformed under R49 or R116. -/
def Chain.malformed (c : Chain) (r : RawEntry) : Bool :=
  let arg := bitsOf r.ctl 24 4
  let k := r.kind
  5 ≤ k || (c.after.isSome && k ≠ 0) ||
  (if k = 2 then 2 ≤ arg else arg ≠ 0) ||
  (if k = 0 || k = 2 then r.bound = 0 else r.tok ≠ 0 || r.bound ≠ 0) ||
  (k = 1 && (r.w0 / 2 ^ 16 = 0 || r.w0 % 2 ^ 16 = 0 || (c.opens r.seq && 4 ≤ c.loops.length))) ||
  (k = 2 && r.w0 % 4 ≠ 0) || (k = 3 && r.w0 % 16 ≠ 0) || (k = 4 && r.w0 ≠ 0)
/-- The first code of R28 that an entry meets (R29, R49, R50). -/
def State.entryCode (s : State) (c : Chain) (e : Engine) (r : RawEntry) : Option Nat :=
  match (if r.kind = 0 then s.wordCode e r.w0 else none) with
  | some k => some k
  | none => if c.malformed r then some 0x47 else if r.seq ≠ c.e then some 0x48 else none
/-- The next entry of an engine, or the code with which it faults. -/
def State.peek (s : State) (e : Engine) : Except Nat RawEntry :=
  let c := s.chain e
  match s.winRead c.win c.pos 16 with
  | .error k => .error k
  | .ok b => match s.entryCode c e (rawOf b) with
    | some k => .error k
    | none => .ok (rawOf b)
/-- The fault of an engine at its next entry: where the window refuses it, the frame names the access (R399). -/
def State.entryFault (s : State) (e : Engine) (code : Nat) : State :=
  let c := s.chain e
  match s.winAddr c.win c.pos 16 with
  | .error _ => s.faultAt e code c.win (capLower c.win + c.pos)
  | .ok _ => s.faultAt e code 0 0
/-- May the engine decode (R50, R113)? -/
def State.decodes (s : State) (e : Engine) : Bool :=
  let c := s.chain e
  (c.st = 1 || c.st = 2) && !c.stopping && c.cur.isNone && c.published && c.next ≤ s.now

/-- The token fields of an entry (R48). -/
def consumes (tok : Nat) : List Nat := [bitsOf tok 8 8, bitsOf tok 16 8, bitsOf tok 24 8].filter (fun i => i ≠ 0)
/-- What a consumer captures at decode (R117). -/
def State.captures (s : State) (tok : Nat) : List (Nat × W32) := (consumes tok).map (fun i => (i, tget 0 s.iss i))
/-- Have the captured producers completed (R117)? -/
def State.needsMet (s : State) (en : Entry) : Bool := en.needs.all (fun n => s.tokMet n.1 n.2)

/-- The decoded form of a command or conditional entry (R113, R116, R117). -/
def State.entryOf (s : State) (c : Chain) (r : RawEntry) : Entry :=
  let skip := c.after = some false
  { word := BitVec.ofNat 32 r.w0, token := BitVec.ofNat 32 r.tok, bound := r.bound, seq := r.seq, pos := c.pos, loops := c.loops,
    at_ := s.now, needs := if skip then [] else s.captures r.tok, cond := if r.kind = 2 then some (bitsOf r.ctl 24 1 = 1) else none,
    skip := skip, ready := false, held := false }
/-- CHAIN_ENTRY_DECODE (R113): a published command or conditional entry is decoded, or the engine faults at it. -/
def execChainEntryDecode (s : State) : Out :=
  let e := s.actor
  let c := s.chain e
  if !s.decodes e then .next s
  else match s.peek e with
    | .error k => .next (s.entryFault e k)
    | .ok r =>
      if r.kind = 0 || r.kind = 2 then .next (s.setChain e { c with cur := some (s.entryOf c r), st := 2 })
      else .next s

/-- An executed entry enters the history behind COMPSEQ (R119). -/
def Chain.ran (c : Chain) (id seq : Nat) (done : Bool) : Chain := { c with hist := c.hist ++ [(id, seq, done)] }
/-- Take the completed prefix into COMPSEQ (R119). -/
def Chain.fold (c : Chain) : Chain :=
  let p := c.hist.takeWhile (fun h => h.2.2)
  match p.getLast? with
  | some h => { c with hist := c.hist.drop p.length, compSeq := h.2.1, compCount := (c.compCount + p.length) % 2 ^ 32 }
  | none => c

/-- CHAIN_LOOP_ENTRY (R50). -/
def execChainLoopEntry (s : State) : Out :=
  let e := s.actor
  let c := s.chain e
  if !s.decodes e then .next s
  else match s.peek e with
    | .error k => .next (s.entryFault e k)
    | .ok r =>
      if r.kind ≠ 1 then .next s
      else
        let back := r.w0 % 2 ^ 16
        let left := if c.opens r.seq then r.w0 / 2 ^ 16 - 1 else (match c.loops with | (_, n) :: _ => n - 1 | [] => 0)
        let rest := if c.opens r.seq then c.loops else c.loops.drop 1
        let c := (c.ran 0 r.seq true).fold
        if left = 0 then .next (s.setChain e { c.past (c.pos + 16) with loops := rest, next := s.now + 1 }.live)
        else .next (s.setChain e { c with
          loops := (r.seq, left) :: rest, pos := (c.pos + 2 ^ 32 - 16 * back) % 2 ^ 32
          e := (r.seq + 2 ^ 24 - back) % 2 ^ 24, next := s.now + 1 })
/-- CHAIN_LINK_ENTRY (R50). -/
def execChainLinkEntry (s : State) : Out :=
  let e := s.actor
  let c := s.chain e
  if !s.decodes e then .next s
  else match s.peek e with
    | .error k => .next (s.entryFault e k)
    | .ok r =>
      if r.kind ≠ 3 then .next s
      else .next (s.setChain e { ((c.ran 0 r.seq true).fold).past r.w0 with next := s.now + 1 }.live)
/-- CHAIN_END_ENTRY (R50, R325). -/
def execChainEndEntry (s : State) : Out :=
  let e := s.actor
  let c := s.chain e
  if !s.decodes e then .next s
  else match s.peek e with
    | .error k => .next (s.entryFault e k)
    | .ok r =>
      if r.kind ≠ 4 then .next s
      else .next (s.setChain e { (c.ran 0 r.seq true).fold with st := 0, loops := [], next := s.now + 1 })

/-! ### Issue and completion (R113, R117 to R119) -/

/-- How an issued command will end. -/
structure Fin where
  doneAt : Option Nat
  writes : List CWrite
  once : Bool
  busy : List (Nat × Nat)
  call : Option (Nat × Nat)
  fixed : Bool
  cls : Option Nat
  lat : Nat
  cvt : Option (Nat × Nat)
  src : Cap
  dst : Cap
  deriving DecidableEq, Repr
/-- A command that something else ends. -/
def Fin.open : Fin := ⟨none, [], false, [], none, false, none, 0, none, 0, 0⟩
/-- A command that only takes time. -/
def Fin.at (t : Nat) : Fin := { Fin.open with doneAt := some t }
/-- A command that has taken effect and cannot be cancelled (R294, R295). -/
def Fin.sure (t : Nat) : Fin := { Fin.at t with fixed := true }

/-- The stream of an engine in a run. -/
def Run.stream (r : Run) : Engine → Stream
  | .s => r.s
  | .v => r.v
  | .m => r.m
  | .c => r.c
/-- Write the stream of an engine. -/
def Run.setStream (r : Run) (e : Engine) (st : Stream) : Run :=
  match e with
  | .s => { r with s := st }
  | .v => { r with v := st }
  | .m => { r with m := st }
  | .c => { r with c := st }

/-- The entry that an issue belongs to; a bare one where a word issues with none decoded. -/
def State.curEntry (s : State) (e : Engine) : Entry :=
  let c := s.chain e
  match c.cur with
  | some en => en
  | none => ⟨0, 0, 2 ^ 32 - 1, c.e, c.pos, c.loops, s.now, [], none, false, true, false⟩

/-- What stays of an entry that has nothing more to do than to retire its ticket. -/
def tokenCmd (id : Nat) (en : Entry) (prod : Nat) (ticket : W32) (t : Nat) : Cmd :=
  { id := id, seq := en.seq, pos := en.pos, loops := en.loops, prod := prod, ticket := ticket, decodedAt := en.at_,
    bound := en.bound, doneAt := some t, writes := [], once := false, busy := [], call := none, finished := true, tokAt := 0,
    iss := t, fixed := false, cls := none, lat := 0, cvt := none, out := false, src := 0, dst := 0, port := 8 }
/-- A word of V, M or C has issued: its stream moves on in a run; in a chain its ticket is drawn and the command is in
flight (R113, R117). `k` is how long it holds the issue slot. Answers the command's number, 0 in a run. -/
def State.issued (s : State) (e : Engine) (k : Nat) (f : Fin) : State × Nat :=
  if s.timed then ({ s with run := s.run.setStream e ((s.run.stream e).adv s.now k) }, 0)
  else
    let c := s.chain e
    let en := s.curEntry e
    let prod := en.token.toNat % 256
    let r := if prod = 0 then ((0 : W32), s) else s.issueTok prod
    let id := c.ids + 1
    let cmd : Cmd := { tokenCmd id en prod r.1 s.now with
      doneAt := f.doneAt, writes := f.writes, once := f.once, busy := f.busy, call := f.call, finished := false, fixed := f.fixed,
      cls := f.cls, lat := f.lat, cvt := f.cvt, src := f.src, dst := f.dst }
    let c' := { (c.ran id en.seq false).past (c.pos + 16) with
      ids := id, cmds := c.cmds ++ [cmd], next := s.now + k, after := none }
    (r.2.setChain e c'.live, id)
/-- The same, as the outcome. -/
def State.done (s : State) (e : Engine) (k : Nat) (f : Fin) : Out := .next (s.issued e k f).1
/-- The engine tries the same word again in the next cycle. -/
def State.again (s : State) (e : Engine) : State := s.setChain e { s.chain e with next := s.now + 1 }

/-- Issue the token of a skipped entry and move past it (R116): in the cycle after its decode, and not of one that a stop has dropped
(DEDUCED, log entry 111). -/
def State.skipTurn1 (s : State) (e : Engine) : State :=
  let c := s.chain e
  match c.cur with
  | some en =>
    if en.skip && en.at_ < s.now then
      let prod := en.token.toNat % 256
      let r := if prod = 0 then ((0 : W32), s) else s.issueTok prod
      let id := c.ids + 1
      let cmd := tokenCmd id en prod r.1 s.now
      r.2.setChain e ({ c.past (c.pos + 16) with
        ids := id, cmds := if prod = 0 then c.cmds else c.cmds ++ [cmd], next := s.now, after := none }.live)
    else s
  | none => s
/-- All engines' skipped entries. -/
def State.skipTurn (s : State) : State := [Engine.v, .m, .c].foldl State.skipTurn1 s

/-- CHAIN_COND_ENTRY (R116, R325): with its tokens met, a conditional entry reads its word and completes. -/
def execChainCondEntry (s : State) : Out :=
  let e := s.actor
  let c := s.chain e
  match c.cur with
  | some en =>
    (match en.cond with
     | some arg =>
       if !(s.needsMet en) then .next s
       else match s.winRead c.win en.word.toNat 4 with
         | .error k => .next (s.faultAt e k c.win (capLower c.win + en.word.toNat))
         | .ok b =>
           let z := leNat b = 0
           let prod := en.token.toNat % 256
           let r := if prod = 0 then ((0 : W32), s) else s.issueTok prod
           let id := c.ids + 1
           let cmd := tokenCmd id en prod r.1 s.now
           .next (r.2.setChain e ({ (((c.ran id en.seq true).fold).past (c.pos + 16)) with
             ids := id, cmds := if prod = 0 then c.cmds else c.cmds ++ [cmd], next := s.now + 1
             after := some (if arg then !z else z) }.live))
     | none => .next s)
  | none => .next s

/-- Raise or lower the busy count of a segment (R81). -/
def busyAt (e : ObjEntry) (g : Nat) (up : Bool) : ObjEntry :=
  match e.segs[g]? with
  | some x => { e with segs := setNth e.segs g { x with busy := if up then x.busy + 1 else x.busy - 1 } }
  | none => e
/-- Raise or lower a busy count wherever the entry is held (R72, R81). -/
def State.busy1 (s : State) (up : Bool) (b : Nat × Nat) : State :=
  let f (t : Table (Option ObjEntry)) : Table (Option ObjEntry) :=
    tset none t b.1 ((tget none t b.1).map (fun e => busyAt e b.2 up))
  { s with mem := { s.mem with obj := f s.mem.obj, port := f s.mem.port } }

/-- A C store, one line at a time, and whether it met a conflict (R355): that line and those behind it are not written (R398). -/
def State.cStore (s : State) (id epoch : Nat) : Nat → Nat → List Byte → State × Bool
  | 0, _, _ => (s, false)
  | k + 1, o, b =>
    if b.isEmpty then (s, false)
    else
      let n := 128 - o % 128
      match s.detect id o (b.take n).length epoch with
      | .error g => (s.fault 3 0x093 (mkCap id 0 0 0) (BitVec.ofNat 64 (o / 128 * 128)) (detInfo g), true)
      | .ok t => (t.objWrite id o (b.take n)).cStore id epoch k (o + n) (b.drop n)
/-- A plain store of another core of the launch, one line at a time (R354, R355): a conflict refuses the line and is that core's
fault. -/
def State.farStore (s : State) (core id epoch : Nat) : Nat → Nat → List Byte → State
  | 0, _, _ => s
  | k + 1, o, b =>
    if b.isEmpty then s
    else
      let n := 128 - o % 128
      let s := match s.detectOf core id o (b.take n).length epoch with
        | .error _ => s
        | .ok t => t.objWrite id o (b.take n)
      s.farStore core id epoch k (o + n) (b.drop n)
/-- Is a write of a C command checked by the detector (R354, R355)? -/
def State.checks (s : State) (w : CWrite) : Bool :=
  match w with
  | .obj id _ _ (some _) => s.detects true id
  | _ => false
/-- One write of a C command takes effect (R118). -/
def State.applyWrite (s : State) (w : CWrite) : State :=
  match w with
  | .sram a b => s.spadWrite a b
  | .obj id o b ep =>
    if s.checks w then (s.cStore id (ep.getD 0) (b.length / 128 + 2) o b).1 else s.objWrite id o b
  | .rs cells => s.rsPuts cells
  | .raise c v => s.setCounter c (s.counter c + v)
  | .atom d op v => s.writeDest d (leBytes 8 (amoOp op 64 (leNat (s.readDest d 8)) v.toNat 0))
  | .inject sh =>
    ({ s with sh := { s.sh with departed := s.sh.departed ++ [(sh.dir, sh)] } }).queueOut sh.dir (shLoads sh)
  | .recSlot k c o b => { s with cx := { s.cx with recs := tset none s.cx.recs k (some ⟨c, o, b⟩) } }
  | .writeback id lo hi drop =>
    let hit (l : Line) : Bool := l.cluster = s.cluster && l.id = id &&
      lo < l.line * 128 + 128 && l.line * 128 < hi
    let s := s.cleanLines hit
    if drop then s.dropLines hit else s

/-- Does a write of a C command meet a conflict (R355)? -/
def State.conflicts (s : State) (w : CWrite) : Bool :=
  match w with
  | .obj id o b ep => s.checks w && (s.cStore id (ep.getD 0) (b.length / 128 + 2) o b).2
  | _ => false
/-- The writes of a command take effect in turn, up to one that meets a conflict; whether one does (R118, R398). -/
def State.applyWrites (s : State) : List CWrite → State × Bool
  | [] => (s, false)
  | w :: t => if s.conflicts w then (s.applyWrite w, true) else (s.applyWrite w).applyWrites t

/-- Mark an execution complete in the history (R119). -/
def Chain.finishHist (c : Chain) (id : Nat) : Chain :=
  ({ c with hist := c.hist.map (fun (h : Nat × Nat × Bool) => if h.1 = id && id ≠ 0 then (h.1, h.2.1, true) else h) } : Chain).fold
/-- Remove a command. -/
def Chain.dropCmd (c : Chain) (id : Nat) : Chain := { c with cmds := c.cmds.filter (fun x => x.id ≠ id) }
/-- Mark a command complete, its ticket still to come. -/
def Chain.markDone (c : Chain) (id : Nat) : Chain :=
  { c with cmds := c.cmds.map (fun x => if x.id = id then { x with finished := true } else x) }
/-- An engine that CHSTOP stopped becomes IDLE once nothing is in flight (R324). -/
def Chain.settle (c : Chain) : Chain :=
  if c.stopping && c.cmds.isEmpty then { c with st := 0, prev := 0, stopping := false, loops := [], after := none } else c
/-- Convert the bytes of one element (R133). -/
def cvtElem (a b : Nat) (x : List Byte) : List Byte × Bool :=
  let raw := if a = 13 then leNat x % 64 else leNat x
  let r := convertTy a b 0 raw
  (leBytes (tySize b) r.1, r.2 &&& evSaturate ≠ 0)
/-- Put bytes into a list at an offset. -/
def patch (o : Nat) (b l : List Byte) : List Byte := l.take o ++ b ++ l.drop (o + b.length)
/-- Put source bytes into a write at an offset. -/
def CWrite.patch (o : Nat) (b : List Byte) : CWrite → CWrite
  | .sram a x => .sram a (Machine.patch o b x)
  | .obj id a x ep => .obj id a (Machine.patch o b x) ep
  | .rs cells => .rs ((cells.map Prod.fst).zip (Machine.patch o b (cells.map Prod.snd)))
  | w => w
/-- Convert what a write carries; whether that saturated (R133). -/
def CWrite.convert (t : Nat × Nat) : CWrite → CWrite × Bool
  | .sram a x => (.sram a (cvtElem t.1 t.2 x).1, (cvtElem t.1 t.2 x).2)
  | .obj id a x ep => (.obj id a (cvtElem t.1 t.2 x).1 ep, (cvtElem t.1 t.2 x).2)
  | w => (w, false)
/-- The requests of C at the banks that a write makes; none where it goes elsewhere (R94, R95). -/
def State.bankWrites (s : State) (id : Nat) (w : CWrite) : List BItem :=
  let num := 16 * s.coreJ + 1
  match w with
  | .sram a b => (rowsOf a b.length).map (fun p =>
      ⟨num, s.spadKey p.2.1, .write ((b.drop p.1).take p.2.2), .cmd id, some s.ctl.world⟩)
  | .atom (.sram a) op v => [⟨num, s.spadKey a, .atom op v, .cmd id, some s.ctl.world⟩]
  | _ => []
/-- C's request for its fabric form is withdrawn or spent (R141); it parks at no port any more (R83), and what C's next word had
read is forgotten. -/
def State.unask (s : State) : State :=
  ({ s with cx := { s.cx with asked := false, granted := false, parked := false } }.unpark .ask).dropAsks .pre
/-- Does a write go to the scratchpad? -/
def CWrite.spad : CWrite → Bool
  | .sram _ _ => true
  | .atom (.sram _) _ _ => true
  | _ => false
/-- The writes of a command of C once its source has been read: source bytes in place and converted, and whether one saturated. -/
def State.sourced (s : State) (x : Cmd) : List CWrite × Bool :=
  let mine := s.sram.got.filter (fun g => g.1 = .cmd x.id)
  let ws := (List.range x.writes.length).zip x.writes |>.map (fun iw =>
    (mine.filter (fun g => g.2.1 = iw.1)).foldl (fun (w : CWrite) g => w.patch g.2.2.1 g.2.2.2) iw.2)
  match x.cvt with
  | some t => (ws.map (fun w => (w.convert t).1), ws.any (fun w => (w.convert t).2))
  | none => (ws, false)
/-- The scratchpad writes of a command of C come to their banks (R94, R118); its others wait for its completion. -/
def State.release (s : State) (x : Cmd) : State :=
  let r := s.sourced x
  let t := if r.2 then s.stickyC bCvtSat else s
  let t := (t.dropAsks (.cmd x.id)).enqueue (r.1.flatMap (s.bankWrites x.id))
  { t with cc := { t.cc with cmds := t.cc.cmds.map (fun c =>
      if c.id = x.id then { c with out := true, writes := r.1.filter (fun w => !w.spad) } else c) } }
/-- The commands in flight of an engine (R113). -/
def Chain.flying (c : Chain) : Nat := (c.cmds.filter (fun x => !x.finished)).length
/-- How many commands an engine holds (R113, R254, R266). -/
def roomOf : Engine → Nat
  | .v => 8
  | .m => 4
  | _ => 16

/-- IDLE k (R43). -/
def execIdle (k : BitVec 24) (s : State) : Out :=
  match s.actor with
  | .s =>
    if s.timed then .next { s with run := { s.run with s := s.run.s.adv s.now k.toNat } }
    else
      let t := s.advS
      .next { t with sx := { t.sx with next := s.now + k.toNat } }
  | e => s.done e k.toNat (.at (s.now + k.toNat))
/-- LOOP n, len (R44): in a stream it opens a level; elsewhere ILL_CONTEXT. -/
def execLoop (n l : BitVec 12) (s : State) : Out :=
  if s.timed then
    let st := s.run.stream s.actor
    let b := st.pos + 1
    .next { s with run := s.run.setStream s.actor { st with
      pos := b, loops := (b, b + l.toNat, n.toNat) :: st.loops, next := s.now + 1 } }
  else .next (s.fault (engNo s.actor) 0x45 0 0 0)

/-! ### S forms (R321, R324) -/

/-- A form that a handler may not issue (R404). -/
def State.outside (s : State) (k : Out) : Out := if s.trap.handler then s.trapS 0x45 else k
/-- CHWIN (R324). -/
def execChwin (a : BitVec 4) (e : BitVec 2) (s : State) : Out :=
  let c := s.chain (engOf e.toNat)
  let k := s.creg a.toNat
  s.outside (s.reading [.c a.toNat]
    (if c.st ≠ 0 then s.trapS 0x202
     else if !isSpad k || !hasRights rRD (capRights k) || capLower k % 16 ≠ 0 || capUpper k % 16 ≠ 0 ||
        capUpper k ≤ capLower k then s.trapS 0x0CA
     else .next (s.setChain (engOf e.toNat) { c with win := k }).advS))
/-- CHHEAD (R324). -/
def execChhead (a b : BitVec 5) (e : BitVec 2) (s : State) : Out :=
  let c := s.chain (engOf e.toNat)
  let v := (s.sreg a.toNat).toNat
  let q := (s.sreg b.toNat).toNat % 2 ^ 24
  s.outside (s.reading [.s a.toNat, .s b.toNat]
    (if c.st ≠ 0 then s.trapS 0x202
     else if v % 16 ≠ 0 || capUpper c.win ≤ capLower c.win + v then s.trapS 0x0CA
     else .next (s.setChain (engOf e.toNat)
       { c with pos := v, e := q, t := q, st := 1, loops := [], cur := none, after := none, next := s.now + 1, base := c.ids }).advS))
/-- Has every S store to the scratchpad performed (R325)? -/
def State.spadDrained (s : State) : Bool :=
  s.sx.stores.all (fun r => match r.dest with | .sram _ => false | .obj _ _ => true)
/-- The scratchpad lines of the combining buffer leave it. -/
def State.flushSpad (s : State) : State :=
  (s.sx.comb.filter (fun l => match l.dest with | .sram _ => true | .obj _ _ => false)).foldl State.drainLine s
/-- CHTAIL (R325): S holds until the core's scratchpad stores have performed, then the tail is published. -/
def execChtail (a : BitVec 5) (e : BitVec 2) (s : State) : Out :=
  let go (s : State) (v : W64) (hold : State) : Out :=
    if s.spadDrained then
      let c := s.chain (engOf e.toNat)
      .next (s.setChain (engOf e.toNat) { c with t := v.toNat % 2 ^ 24 }.live).advS
    else .next hold
  match s.sx.blk with
  | some x => go s x.d s.retry
  | none => s.outside (s.reading [.s a.toNat]
      (let s := s.flushSpad
       go s (s.sreg a.toNat) (s.block (holding (s.sreg a.toNat) 0 0 0 0 s.now s.now))))
/-- The value that CHSTAT selects (R324). -/
def Chain.stat (c : Chain) (f : Nat) : Nat :=
  if f = 0 then c.e else if f = 1 then c.t else if f = 2 then c.pos else c.st
/-- CHSTAT (R324). -/
def execChstat (d f : BitVec 5) (e : BitVec 2) (s : State) : Out :=
  .next (s.wrS d.toNat (BitVec.ofNat 64 ((s.chain (engOf e.toNat)).stat f.toNat)) 1).advS
/-- CHSTOP (R122, R324). -/
def execChstop (e : BitVec 2) (s : State) : Out :=
  let c := s.chain (engOf e.toNat)
  s.outside (.next (if c.st = 0 then s
    else (if engOf e.toNat = .c then s.unask else s).setChain (engOf e.toNat) { c with cur := none, stopping := true }.settle).advS)

/-- TKSIG (R321). -/
def execTksig (i : BitVec 8) (s : State) : Out :=
  let r := s.flushComb (2 ^ 16 - 1) |>.issueTok i.toNat
  .next { r.2 with sx := { r.2.sx with sigs := r.2.sx.sigs ++ [(i.toNat, r.1, s.sx.seq)] } }.advS
/-- TKWAIT (R321, R323). -/
def execTkwait (a : BitVec 5) (i : BitVec 8) (s : State) : Out :=
  s.reading [.s a.toNat]
    (.next (s.wait (.token i.toNat (tget 0 s.iss i.toNat) s.now ((s.sreg a.toNat).toNat % 2 ^ 32))))
/-- TKISS (R321). -/
def execTkiss (d : BitVec 5) (i : BitVec 8) (s : State) : Out :=
  .next (s.wrS d.toNat ((tget 0 s.iss i.toNat).setWidth 64) 1).advS
/-- TKCMP (R321). -/
def execTkcmp (d : BitVec 5) (i : BitVec 8) (s : State) : Out :=
  .next (s.wrS d.toNat ((tget 0 s.cmp i.toNat).setWidth 64) 1).advS

end Sys2Proof.Machine
end

