-- ==== Sys2Proof/Machine/Control.lean ====
section
/-! DEFINITION. Branches, counters, tape forms, waits of S and their rows, software traps, TRET and EXIT (R318 to R323,
R326, R332, R333, R346, R360, R404, R405). -/

namespace Sys2Proof.Machine

/-- S goes on at an offset in the next cycle (R319). -/
def State.jump (s : State) (v : W64) : State :=
  { s with
    regs := { s.regs with pc := v }
    sx := { s.sx with next := s.now + 1, blk := none, safe := none } }

/-- PBR (R318). -/
def execPbr (k : BitVec 2) (i : BitVec 24) (s : State) : Out :=
  .next (s.wrB k.toNat (s.regs.pc + (i.signExtend 64) * 4) 3).advS

/-- The condition of BR (R319). -/
def brCond (c : BitVec 3) (x : W64) : Bool :=
  if c = 0 then true else if c = 1 then x = 0 else if c = 2 then x ≠ 0 else if c = 3 then x.msb
  else if c = 4 then !x.msb else if c = 5 then (!x.msb && x ≠ 0) else (x.msb || x = 0)
/-- BR (R319). -/
def execBr (d a : BitVec 5) (k : BitVec 2) (l : BitVec 1) (c : BitVec 3) (s : State) : Out :=
  s.reading ((if c = 0 then [] else [.s a.toNat]) ++ [.b k.toNat])
    (if brCond c (s.sreg a.toNat) then
       .next ((if l = 1 then s.wrS d.toNat (s.regs.pc + 4) 1 else s).jump (s.breg k.toNat))
     else .next s.advS)
/-- LOOPEND (R196, R320). -/
def execLoopend (d : BitVec 5) (k : BitVec 2) (s : State) : Out :=
  let n := s.sreg d.toNat
  s.reading [.s d.toNat, .b k.toNat]
    (if n.toNat ≤ 1 then .next (s.rotate.wrS d.toNat 0 1).advS
     else .next ((s.rotate.wrS d.toNat (n - 1) 1).jump (s.breg k.toNat)))

/-- The package counter that a scalar names, under the interface's partition (R180, R322). -/
def State.counterIdx (s : State) (v : W64) : Option Nat :=
  if v.toNat < 2 ^ 12 then s.counterOf s.ctl.vi v.toNat else none
/-- COUNTER_RANGE, with the index in the frame (R322, R399). -/
def State.badCounter (s : State) (v : W64) : Out := .next (s.fault 0 0x0C5 0 v 0)
/-- CWAIT (R322, R323). -/
def execCwait (d a b : BitVec 5) (s : State) : Out :=
  s.reading [.s d.toNat, .s a.toNat, .s b.toNat]
    (match s.counterIdx (s.sreg a.toNat) with
     | none => s.badCounter (s.sreg a.toNat)
     | some i => .next (s.wait (.counter i (s.sreg a.toNat).toNat (s.sreg b.toNat) s.now ((s.sreg d.toNat).toNat % 2 ^ 32))))
/-- CREAD (R322): in a run an index out of range reads 0 and sets SAccMiss. -/
def execCread (d a : BitVec 5) (s : State) : Out :=
  s.reading [.s a.toNat]
    (match s.counterIdx (s.sreg a.toNat) with
     | some i => .next (s.wrS d.toNat (s.counter i) 1).advS
     | none => if s.timed then .next ((s.pushPend (s.now + 1) .s (.ssticky bSAccMiss)).wrS d.toNat 0 1).advS else s.badCounter (s.sreg a.toNat))
/-- CWRITE (R322). -/
def execCwrite (a b : BitVec 5) (s : State) : Out :=
  s.reading [.s a.toNat, .s b.toNat]
    (match s.counterIdx (s.sreg a.toNat) with
     | none => s.badCounter (s.sreg a.toNat)
     | some i => .next (s.setCounter i (s.sreg b.toNat)).advS)

/-- TREAD (R326). -/
def execTread (d : BitVec 5) (s : State) : Out := .next (s.wrS d.toNat (BitVec.ofNat 64 s.now) 1).advS
/-- TUNTIL (R326). -/
def execTuntil (a : BitVec 5) (s : State) : Out :=
  s.reading [.s a.toNat] (.next (s.wait (.tape (s.sreg a.toNat).toNat)))
/-- TADJ (R326, R360): SYS_PRIV outside a management launch, then TAPE_ARG, then the new rate and step. -/
def execTadj (a : BitVec 5) (s : State) : Out :=
  let v := (s.sreg a.toNat).toNat
  let keep := bitsOf v 63 1 = 1
  let step := s.clk.stepPending + sgn (v / 2 ^ 32) 16
  s.reading [.s a.toNat]
    (if !s.ctl.mgmt then s.trapS 0x203
     else if bitsOf v 48 15 ≠ 0 || (!keep && 2097152 < v % 2 ^ 32) || step < -32768 || 32767 < step then s.trapS 0x283
     else .next { s with clk := { s.clk with
       rate := if keep then s.clk.rate else BitVec.ofNat 32 (v % 2 ^ 32), stepPending := step } }.advS)

/-- TRAP n (R332, R402): it counts as issued. -/
def execTrap (n : BitVec 6) (s : State) : Out := .next (s.advS.fault 0 (0x240 + n.toNat) 0 0 0)
/-- TRET (R402, R405): the originals of s29 to s31 come back, S goes on at the handler's s31, and the generators read again from
their beat K; the resume cycle of R211 is that of TRET (DESIGN CHOICE, log entry 94). -/
def execTret (s : State) : Out :=
  if !s.trap.handler then s.trapS 0x45
  else s.reading [.s 31]
    (let t := ((s.wrS 29 (nthD 0 s.trap.orig 0) 1).wrS 30 (nthD 0 s.trap.orig 1) 1).wrS 31 (nthD 0 s.trap.orig 2) 1
     .next { (t.jump (s.sreg 31)).mapAgs (fun _ g => g.unpause s.now) with
       trap := { t.trap with handler := false, chainsOff := false, frame := none, orig := [] } })
/-- A chain engine that EXIT in a handler makes IDLE (R405). -/
def Chain.idle (c : Chain) : Chain := { c with st := 0, cur := none, loops := [], after := none }
/-- EXIT (R333): S issues nothing more; in a handler the stopped chain engines become IDLE (R405). -/
def execExit (s : State) : Out :=
  let s := if s.trap.handler then
      { s with cv := s.cv.idle, cm := s.cm.idle, cc := s.cc.idle, trap := { s.trap with handler := false, chainsOff := false } }
    else s
  .next (s.wait .exit)

/-- S leaves a wait and goes on in the next cycle (R301). -/
def State.resumeS (s : State) : State :=
  { s.advS with sx := { s.advS.sx with hold := .no } }
/-- TOKEN_WAIT_MET (R321). -/
def execTokenWaitMet (s : State) : Out :=
  match s.sx.hold with
  | .token id need _ _ => if s.tokMet id need then .next s.resumeS else .next s
  | _ => .next s
/-- COUNTER_WAIT_MET (R322, R346). -/
def execCounterWaitMet (s : State) : Out :=
  match s.sx.hold with
  | .counter i _ v _ _ => if v.toNat ≤ (s.counter i).toNat then .next s.resumeS else .next s
  | _ => .next s
/-- TAPE_WAIT_MET (R326): the next instruction issues at max(t + 1, sa). -/
def execTapeWaitMet (s : State) : Out :=
  match s.sx.hold with
  | .tape v => if v ≤ s.now + 1 then .next s.resumeS else .next s
  | _ => .next s

/-- Is the wait of S met now? -/
def State.waitMet (s : State) : Bool :=
  match s.sx.hold with
  | .token id need _ _ => s.tokMet id need
  | .counter i _ v _ _ => v.toNat ≤ (s.counter i).toNat
  | .tape v => v ≤ s.now + 1
  | _ => false
/-- The group with index g. -/
def State.group (s : State) (g : Nat) : Option Group := tget none s.grp.table g
/-- Write a group. -/
def State.setGroup (s : State) (g : Nat) (x : Group) : State :=
  { s with grp := { s.grp with table := tset none s.grp.table g (some x) } }
/-- The parent with whose seam the present seam of a group is joined (R381). -/
def Group.joined (x : Group) : Option Nat :=
  match x.parent with
  | some p => if x.ratio ≠ 0 && (x.released + 1) % x.ratio = 0 then some p else none
  | none => none
/-- The groups at which an arrival on g counts: itself, and while its seam is joined its parents, at most three steps up (R381). -/
def State.upward : Nat → State → Nat → List Nat
  | 0, _, g => [g]
  | f + 1, s, g =>
    g :: (match (s.group g).bind Group.joined with
      | some p => State.upward f s p
      | none => [])
/-- The group whose release an arrival on g waits for (R381). -/
def State.top (s : State) (g : Nat) : Nat := (State.upward 3 s g).getLastD g
/-- Is the last arrival of a group's seam counted (R323)? Of a joined seam, that of its parent's (R381). -/
def State.seamMet (s : State) (g : Nat) : Bool :=
  match s.group (s.top g) with
  | some x => x.met.isSome
  | none => false
/-- The bound of a wait that has elapsed: the info word of WAIT_BOUND (R323, R401). -/
def State.boundOver (s : State) : Option Nat :=
  let late (at_ b : Nat) : Bool := b ≠ 0 && at_ + b ≤ s.now
  match s.sx.hold with
  | .token id _ a b => if late a b && !s.waitMet then some id else none
  | .counter _ n _ a b => if late a b && !s.waitMet then some n else none
  | .seam g a b _ _ => if late a b && !s.seamMet g then some g else none
  | _ => none
/-- One group's count of this core's arrivals returns to its former value. -/
def State.withdraw1 (s : State) (g : Nat) : State :=
  match s.group g with
  | some x => s.setGroup g { x with arrived := tset 0 x.arrived s.ctl.lcore (Nat.min (tget 0 x.arrived s.ctl.lcore) x.released) }
  | none => s
/-- Withdraw the arrival of this core at a seam that is not met, at its group and the groups joined to it (R330, R381). -/
def State.withdraw (s : State) (g : Nat) : State :=
  if s.seamMet g then s else (State.upward 3 s g).foldl State.withdraw1 s
/-- A chain engine returns to the state it had (R329). -/
def Chain.leaveRun (c : Chain) (t : Nat) : Chain := if c.st = 3 then { c with st := c.prev, next := t } else c
/-- All chain engines leave a run. -/
def State.chainsBack (s : State) : State :=
  { s with cv := s.cv.leaveRun s.now, cm := s.cm.leaveRun s.now, cc := s.cc.leaveRun s.now }
/-- Withdraw the wait that S is in; the instruction counts as unissued (R323). -/
def State.withdrawWait (s : State) : State :=
  let s := match s.sx.hold with
    | .seam g _ _ _ run =>
      let t := s.withdraw g
      if run.isSome then { t.chainsBack with run := { t.run with phase := .off } } else t
    | _ => s
  { s with sx := { s.sx with hold := .no } }
/-- WAIT_BOUND (R323). -/
def execWaitBound (s : State) : Out :=
  match s.boundOver with
  | some i => .next (s.withdrawWait.fault 0 0x201 0 0 (BitVec.ofNat 64 i))
  | none => .next s

end Sys2Proof.Machine
end

