-- ==== Sys2Proof/Machine/Scalar.lean ====
section
/-! DEFINITION. S integer, move, mask, capability-register and system-register forms (R304 to R309, R68, R69, R332). -/

namespace Sys2Proof.Machine

/-- A register-to-register form: it reads registers, writes sd at the latency, and S goes on (R301, R304). -/
def State.aluOut (s : State) (rd : List RegRef) (d : Nat) (v : W64) (lat : Nat) : Out :=
  s.reading rd (.next (s.wrS d v lat).advS)

/-- A form of two scalar sources (R304, R306). -/
def State.alu2 (s : State) (d a b : BitVec 5) (f : W64 → W64 → W64) (lat : Nat) : Out :=
  s.aluOut [.s a.toNat, .s b.toNat] d.toNat (f (s.sreg a.toNat) (s.sreg b.toNat)) lat

/-- A form of one scalar source (R304, R305). -/
def State.alu1 (s : State) (d a : BitVec 5) (f : W64 → W64) : Out :=
  s.aluOut [.s a.toNat] d.toNat (f (s.sreg a.toNat)) 1

/-- shl of R304. -/
def shlOp (a b : W64) : W64 := if 64 ≤ b.toNat then 0 else a <<< b.toNat
/-- shr of R304. -/
def shrOp (a b : W64) : W64 := if 64 ≤ b.toNat then 0 else a >>> b.toNat
/-- sra of R304. -/
def sraOp (a b : W64) : W64 := if 64 ≤ b.toNat then (if a.msb then BitVec.allOnes 64 else 0) else a.sshiftRight b.toNat
/-- ror of R304. -/
def rorOp (a b : W64) : W64 := a.rotateRight (b.toNat % 64)
/-- A truth value as a scalar. -/
def bit64 (c : Bool) : W64 := if c then 1 else 0
/-- Clamp an exact sum to i64 (R304). -/
def clamp64 (x : Int) : W64 :=
  if x < -(2 ^ 63) then BitVec.ofNat 64 (2 ^ 63)
  else if 2 ^ 63 - 1 < x then BitVec.ofNat 64 (2 ^ 63 - 1)
  else BitVec.ofInt 64 x
/-- Leading zeros of a number in `w` bits. -/
def clzNat (w x : Nat) : Nat := if x = 0 then w else w - 1 - Nat.log2 x
/-- Number of one bits among the low `k`. -/
def popNat (x : Nat) : Nat → Nat
  | 0 => 0
  | k + 1 => bitsOf x k 1 + popNat x k

/-- ADD (R304). -/
def execAdd (d a b : BitVec 5) (s : State) : Out := s.alu2 d a b (fun x y => x + y) 1
/-- SUB (R304). -/
def execSub (d a b : BitVec 5) (s : State) : Out := s.alu2 d a b (fun x y => x - y) 1
/-- AND (R304). -/
def execAnd (d a b : BitVec 5) (s : State) : Out := s.alu2 d a b (fun x y => x &&& y) 1
/-- OR (R304). -/
def execOr (d a b : BitVec 5) (s : State) : Out := s.alu2 d a b (fun x y => x ||| y) 1
/-- XOR (R304). -/
def execXor (d a b : BitVec 5) (s : State) : Out := s.alu2 d a b (fun x y => x ^^^ y) 1
/-- ANDN (R304). -/
def execAndn (d a b : BitVec 5) (s : State) : Out := s.alu2 d a b (fun x y => x &&& ~~~y) 1
/-- SHL (R304). -/
def execShl (d a b : BitVec 5) (s : State) : Out := s.alu2 d a b shlOp 1
/-- SHR (R304). -/
def execShr (d a b : BitVec 5) (s : State) : Out := s.alu2 d a b shrOp 1
/-- SRA (R304). -/
def execSra (d a b : BitVec 5) (s : State) : Out := s.alu2 d a b sraOp 1
/-- ROR (R304). -/
def execRor (d a b : BitVec 5) (s : State) : Out := s.alu2 d a b rorOp 1
/-- SLT (R304). -/
def execSlt (d a b : BitVec 5) (s : State) : Out := s.alu2 d a b (fun x y => bit64 (x.slt y)) 1
/-- SLTU (R304). -/
def execSltu (d a b : BitVec 5) (s : State) : Out := s.alu2 d a b (fun x y => bit64 (x.ult y)) 1
/-- MIN (R304). -/
def execMin (d a b : BitVec 5) (s : State) : Out := s.alu2 d a b (fun x y => if x.slt y then x else y) 1
/-- MAX (R304). -/
def execMax (d a b : BitVec 5) (s : State) : Out := s.alu2 d a b (fun x y => if x.slt y then y else x) 1
/-- MINU (R304). -/
def execMinu (d a b : BitVec 5) (s : State) : Out := s.alu2 d a b (fun x y => if x.ult y then x else y) 1
/-- MAXU (R304). -/
def execMaxu (d a b : BitVec 5) (s : State) : Out := s.alu2 d a b (fun x y => if x.ult y then y else x) 1
/-- ADDS (R304). -/
def execAdds (d a b : BitVec 5) (s : State) : Out := s.alu2 d a b (fun x y => clamp64 (x.toInt + y.toInt)) 1
/-- SUBS (R304). -/
def execSubs (d a b : BitVec 5) (s : State) : Out := s.alu2 d a b (fun x y => clamp64 (x.toInt - y.toInt)) 1
/-- CLZ (R304). -/
def execClz (d a : BitVec 5) (s : State) : Out := s.alu1 d a (fun x => BitVec.ofNat 64 (clzNat 64 x.toNat))
/-- POPC (R304). -/
def execPopc (d a : BitVec 5) (s : State) : Out := s.alu1 d a (fun x => BitVec.ofNat 64 (popNat x.toNat 64))
/-- SEXTB (R304). -/
def execSextb (d a : BitVec 5) (s : State) : Out := s.alu1 d a (fun x => (x.setWidth 8).signExtend 64)
/-- SEXTH (R304). -/
def execSexth (d a : BitVec 5) (s : State) : Out := s.alu1 d a (fun x => (x.setWidth 16).signExtend 64)
/-- SEXTW (R304). -/
def execSextw (d a : BitVec 5) (s : State) : Out := s.alu1 d a (fun x => (x.setWidth 32).signExtend 64)

/-- ADDI (R305). -/
def execAddi (d a : BitVec 5) (i : BitVec 16) (s : State) : Out := s.alu1 d a (fun x => x + i.signExtend 64)
/-- ANDI (R305). -/
def execAndi (d a : BitVec 5) (i : BitVec 16) (s : State) : Out := s.alu1 d a (fun x => x &&& i.setWidth 64)
/-- ORI (R305). -/
def execOri (d a : BitVec 5) (i : BitVec 16) (s : State) : Out := s.alu1 d a (fun x => x ||| i.setWidth 64)
/-- XORI (R305). -/
def execXori (d a : BitVec 5) (i : BitVec 16) (s : State) : Out := s.alu1 d a (fun x => x ^^^ i.setWidth 64)
/-- The shift that SHI's kind names (R305). -/
def shiOp (k : BitVec 2) (n : BitVec 6) (x : W64) : W64 :=
  if k = 0 then shlOp x (n.setWidth 64) else if k = 1 then shrOp x (n.setWidth 64)
  else if k = 2 then sraOp x (n.setWidth 64) else rorOp x (n.setWidth 64)
/-- SHI (R305). -/
def execShi (d a : BitVec 5) (k : BitVec 2) (n : BitVec 6) (s : State) : Out := s.alu1 d a (shiOp k n)
/-- One 16-bit quarter replaced (R305). -/
def luiOp (q : BitVec 2) (i : BitVec 16) (x : W64) : W64 :=
  (x &&& ~~~((0xFFFF#64) <<< (16 * q.toNat))) ||| (i.setWidth 64 <<< (16 * q.toNat))
/-- LUI (R305). -/
def execLui (d : BitVec 5) (q : BitVec 2) (i : BitVec 16) (s : State) : Out := s.alu1 d d (luiOp q i)
/-- SLTI (R305). -/
def execSlti (d a : BitVec 5) (i : BitVec 16) (s : State) : Out := s.alu1 d a (fun x => bit64 (x.slt (i.signExtend 64)))

/-- MUL (R306). -/
def execMul (d a b : BitVec 5) (s : State) : Out := s.alu2 d a b (fun x y => x * y) 3
/-- MULH (R306). -/
def execMulh (d a b : BitVec 5) (s : State) : Out :=
  s.alu2 d a b (fun x y => BitVec.ofInt 64 (x.toInt * y.toInt / 2 ^ 64)) 3
/-- MULHU (R306). -/
def execMulhu (d a b : BitVec 5) (s : State) : Out :=
  s.alu2 d a b (fun x y => BitVec.ofNat 64 (x.toNat * y.toNat / 2 ^ 64)) 3
/-- A divide form: a divisor of zero sets DivZero and does not trap (R306). -/
def State.divForm (s : State) (d a b : BitVec 5) (f : W64 → W64 → W64) : Out :=
  s.reading [.s a.toNat, .s b.toNat]
    (.next ((if s.sreg b.toNat = 0 then s.pushPend (s.now + 20) .s (.ssticky bDivZero) else s).wrS d.toNat
      (f (s.sreg a.toNat) (s.sreg b.toNat)) 20).advS)
/-- DIV (R306). -/
def execDiv (d a b : BitVec 5) (s : State) : Out :=
  s.divForm d a b (fun x y => if y = 0 then BitVec.allOnes 64 else x.sdiv y)
/-- DIVU (R306). -/
def execDivu (d a b : BitVec 5) (s : State) : Out :=
  s.divForm d a b (fun x y => if y = 0 then BitVec.allOnes 64 else x.udiv y)
/-- REM (R306). -/
def execRem (d a b : BitVec 5) (s : State) : Out := s.divForm d a b (fun x y => if y = 0 then x else x.srem y)
/-- REMU (R306). -/
def execRemu (d a b : BitVec 5) (s : State) : Out := s.divForm d a b (fun x y => if y = 0 then x else x.umod y)

/-- The condition of SEL (R307). -/
def selCond (k : BitVec 2) (x : W64) : Bool :=
  if k = 0 then x ≠ 0 else if k = 1 then x = 0 else if k = 2 then x.msb else !x.msb
/-- SEL (R307). -/
def execSel (d a b : BitVec 5) (k : BitVec 2) (c : BitVec 5) (s : State) : Out :=
  s.aluOut [.s a.toNat, .s b.toNat, .s c.toNat] d.toNat
    (if selCond k (s.sreg c.toNat) then s.sreg a.toNat else s.sreg b.toNat) 1
/-- MOVB (R308). -/
def execMovb (d : BitVec 5) (a : BitVec 2) (s : State) : Out := s.aluOut [.b a.toNat] d.toNat (s.breg a.toNat) 1
/-- SETB (R308). -/
def execSetb (d : BitVec 2) (a : BitVec 5) (s : State) : Out :=
  s.reading [.s a.toNat] (.next (s.wrB d.toNat (s.sreg a.toNat) 3).advS)
/-- MGET (R309). -/
def execMget (d : BitVec 5) (a : BitVec 3) (q : BitVec 2) (s : State) : Out :=
  s.aluOut [.m a.toNat] d.toNat ((s.mreg a.toNat >>> (64 * q.toNat)).setWidth 64) 1
/-- The bits of one quarter of a mask register (R309). -/
def quarterMask (q : Nat) : Mask := (BitVec.allOnes 64).setWidth 256 <<< (64 * q)
/-- MPUT (R309). -/
def execMput (d : BitVec 3) (a : BitVec 5) (q : BitVec 2) (s : State) : Out :=
  s.reading [.s a.toNat]
    (.next (s.pushPend (s.now + 1) .s (.mreg d.toNat (~~~quarterMask q.toNat)
      ((s.sreg a.toNat).setWidth 256 <<< (64 * q.toNat)))).advS)

/-- A form that writes a c register one cycle on (R68). -/
def State.capOut (s : State) (rd : List RegRef) (d : Nat) (v : Cap) : Out := s.reading rd (.next (s.wrC d v 1).advS)
/-- CMOV (R68). -/
def execCmov (d a : BitVec 4) (s : State) : Out := s.capOut [.c a.toNat] d.toNat (s.creg a.toNat)
/-- CJOIN (R68). -/
def execCjoin (d : BitVec 4) (a b : BitVec 5) (s : State) : Out :=
  s.capOut [.s a.toNat, .s b.toNat] d.toNat (s.sreg a.toNat ++ s.sreg b.toNat)
/-- CLO and CHI: CAP_WIDEN unless the new bound lies within the old ones (R69). -/
def State.narrow (s : State) (d a : BitVec 4) (b : BitVec 5) (f : Cap → Nat → Cap) : Out :=
  let k := s.creg a.toNat
  let v := (s.sreg b.toNat).toNat
  s.reading [.c a.toNat, .s b.toNat]
    (if v < capLower k || capUpper k < v then s.trapS 0x082 else .next (s.wrC d.toNat (f k v) 1).advS)
/-- A capability with another lower bound. -/
def capWithLower (k : Cap) (v : Nat) : Cap := mkCap (capObj k) (capRights k) v (capUpper k)
/-- A capability with another upper bound. -/
def capWithUpper (k : Cap) (v : Nat) : Cap := mkCap (capObj k) (capRights k) (capLower k) v
/-- CLO (R69). -/
def execClo (d a : BitVec 4) (b : BitVec 5) (s : State) : Out := s.narrow d a b capWithLower
/-- CHI (R69). -/
def execChi (d a : BitVec 4) (b : BitVec 5) (s : State) : Out := s.narrow d a b capWithUpper
/-- CRIGHT (R68). -/
def execCright (d a : BitVec 4) (b : BitVec 5) (s : State) : Out :=
  let k := s.creg a.toNat
  s.capOut [.c a.toNat, .s b.toNat] d.toNat
    (mkCap (capObj k) (capRights k &&& (s.sreg b.toNat).toNat % 256) (capLower k) (capUpper k))
/-- The field that CGET selects (R68). -/
def cgetField (k : Cap) (f : Nat) : Nat :=
  if f = 0 then capObj k else if f = 1 then capRights k else if f = 2 then capLower k else capUpper k
/-- CGET (R68). -/
def execCget (d : BitVec 5) (a f : BitVec 4) (s : State) : Out :=
  s.aluOut [.c a.toNat] d.toNat (BitVec.ofNat 64 (cgetField (s.creg a.toNat) f.toNat)) 1
/-- CCHK (R69). -/
def execCchk (d : BitVec 5) (a : BitVec 4) (b : BitVec 5) (s : State) : Out :=
  let k := s.creg a.toNat
  s.aluOut [.c a.toNat, .s b.toNat] d.toNat
    (bit64 (hasRights ((s.sreg b.toNat).toNat % 256) (capRights k) && capLower k < capUpper k)) 1

/-- SRD (R332). -/
def execSrd (d : BitVec 5) (sel : BitVec 9) (s : State) : Out := s.aluOut [] d.toNat (s.srdVal sel.toNat) 1
/-- SWR (R332); a profile that is not published raises ILL_PROFILE (R269). -/
def execSwr (a : BitVec 5) (sel : BitVec 9) (s : State) : Out :=
  s.reading [.s a.toNat]
    (match s.swrTo sel.toNat (s.sreg a.toNat) with
     | some t => .next t.advS
     | none => s.trapS 0x046)

end Sys2Proof.Machine
end

