-- ==== Sys2Proof/Machine/Vector.lean ====
section
/-! DEFINITION. The vector engine: operands, lane-wise forms, compares, conversions, permutes and reductions
(R263 to R287). -/

namespace Sys2Proof.Machine

/-! ### Operands (R263 to R268) -/

/-- Why a V word does not issue now. -/
inductive VStop where
  | code (c : Nat)
  | hold
  deriving DecidableEq, Repr
/-- The operand fields of a V word: mask field, pa, a, b and d as specifiers, whether the old destination is read. -/
structure VSpec where
  m : Nat
  p : Nat
  a : Option Nat
  b : Option Nat
  d : Nat
  useD : Bool
  refs : List RegRef
  deriving DecidableEq, Repr
/-- The operands of a V word as bytes, with the address of its destination and whether it may be written. -/
structure VIn where
  a : List Byte
  b : List Byte
  old : List Byte
  addr : Nat
  ok : Bool
  deriving DecidableEq, Repr

/-- The register-space address of a specifier (R36, R193). -/
def State.specAddr (s : State) (x : Nat) : Nat := (s.view (x / 8 % 8)).addr (x % 8)
/-- A pending bit met by an untimed read of V (R407). -/
def State.vShadow (s : State) (refs : List RegRef) : Bool :=
  s.pendEn && !s.timed && s.pendingAny refs
/-- Whether the reads of a word may go ahead: register clusters, pending bits, then the port (R198, R205, R407). -/
def State.vStop (s : State) (x : VSpec) : Option VStop :=
  let reg (q : Nat) : Option VStop :=
    match s.rsVec (s.specAddr q) with
    | .error c => some (.code c)
    | .ok _ => none
  let dst : Option VStop :=
    if x.useD then reg x.d
    else match s.rsDst (s.specAddr x.d) 256 with
      | .error c => some (.code c)
      | .ok _ => none
  let src : Option VStop := match x.a with
    | some q => if x.p = 0 then reg q else none
    | none => none
  let snd : Option VStop := match x.b with
    | some q => reg q
    | none => none
  let port : Option VStop :=
    if x.p = 0 || s.timed then none
    else match s.popSt (x.a.getD 0 % 8) with
      | .ready => none
      | .early => some .hold
      | .dry => some (.code 0x144)
  if s.vShadow (x.refs ++ (if x.m = 0 then [] else [.m x.m])) then some (.code 0x002)
  else match src with
    | some e => some e
    | none => match snd with
      | some e => some e
      | none => match dst with
        | some e => some e
        | none => port
/-- Read 256 bytes of the register space, whatever its power gives in a run (R198). -/
def State.vRead1 (s : State) (q : Option Nat) : State × List Byte :=
  match q with
  | none => (s, [])
  | some q => match s.rsVec (s.specAddr q) with
    | .ok r => r
    | .error _ => (s, [])
/-- Read the operands of a word (R266). -/
def State.vRead (s : State) (x : VSpec) : Except VStop (State × VIn) :=
  match s.vStop x with
  | some e => .error e
  | none =>
    let ra := if x.p = 0 then s.vRead1 x.a else s.portPop (x.a.getD 0 % 8)
    let rb := ra.1.vRead1 x.b
    let rd := if x.useD then rb.1.vRead1 (some x.d) else (rb.1, [])
    let ok := s.regOn (s.specAddr x.d)
    let t := if ok then rd.1 else rd.1.stickyReg bRegOff
    .ok (t, ⟨ra.2, rb.2, rd.2, s.specAddr x.d, ok⟩)
/-- What a word that may not issue does: it faults, or waits. -/
def State.vHalt (s : State) (e : VStop) : Out :=
  match e with
  | .code c => .next (s.faultAt .v c 0 0)
  | .hold => .next (s.again .v)

/-- The lanes of 256 bytes as raw elements of z bytes (R263). -/
def lanesOf (z : Nat) (b : List Byte) : List Nat := (List.range (256 / z)).map (fun l => fieldAt b (l * z) z)
/-- Is lane l active under a mask field? (R268) -/
def laneOn (mk : Option Mask) (l : Nat) : Bool := match mk with | some k => k.getLsbD l | none => true
/-- The mask that a field names. -/
def State.maskOf (s : State) (m : Nat) : Option Mask := if m = 0 then none else some (s.mreg m)
/-- The bytes of the lanes that are written, as cells (R268). -/
def laneCells (addr z : Nat) : Nat → List (Option Nat) → List Host.Cell
  | _, [] => []
  | l, some v :: t => cellsAt (addr + l * z) (leBytes z v) ++ laneCells addr z (l + 1) t
  | l, none :: t => laneCells addr z (l + 1) t
/-- VCTL.Rnd (R269). -/
def State.rnd (s : State) : Nat := s.ctl.vctl.toNat % 4
/-- The events of a V word reach VSTICKY with its result (R22, R270). -/
def State.eventV (s : State) (lat : Nat) (ev : Ev) : State :=
  if ev = 0 then s else s.pushPend (s.now + lat) .v (.vsticky (ev.setWidth 64))
/-- A V word issues: its lanes and its events land after the latency, and it completes as they land (R266, R270). -/
def State.vWrite (s : State) (i : VIn) (z lat : Nat) (out : List (Option Nat)) (ev : Ev) : Out :=
  let s := s.eventV lat ev
  let s := if i.ok then s.pushPend (s.now + lat) .v (.rs (laneCells i.addr z 0 out)) else s
  s.done .v 1 (.at (s.now + lat))
/-- Results of a lane function over active lanes. -/
def overLanes (mk : Option Mask) (n : Nat) (f : Nat → Nat × Ev) : List (Option Nat) × Ev :=
  (List.range n).foldr (fun l (r : List (Option Nat) × Ev) =>
    if laneOn mk l then (some (f l).1 :: r.1, (f l).2 ||| r.2) else (none :: r.1, r.2)) ([], 0)
/-- A predicated form of destination type t: lane l from the lanes of a, b and the old destination. -/
def State.vForm (s : State) (t m lat : Nat) (x : VSpec) (f : List Nat → List Nat → List Nat → Nat → Nat × Ev) : Out :=
  match s.vRead x with
  | .error e => s.vHalt e
  | .ok (u, i) =>
    let z := tySize t
    let a := lanesOf z i.a
    let b := lanesOf z i.b
    let o := lanesOf z i.old
    let r := overLanes (s.maskOf m) (256 / z) (f a b o)
    u.vWrite i z lat r.1 r.2
/-- A lane-wise form of two sources. -/
def State.vLane2 (s : State) (t : BitVec 4) (m : BitVec 3) (d a b : BitVec 6) (p : BitVec 1) (useD : Bool) (lat : Nat)
    (f : Nat → Nat → Nat → Nat × Ev) : Out :=
  s.vForm t.toNat m.toNat lat ⟨m.toNat, p.toNat, some a.toNat, some b.toNat, d.toNat, useD, []⟩
    (fun x y o l => f (nthD 0 x l) (nthD 0 y l) (nthD 0 o l))
/-- A lane-wise form of one source. -/
def State.vLane1 (s : State) (t : BitVec 4) (m : BitVec 3) (d a : BitVec 6) (p : BitVec 1) (lat : Nat)
    (f : Nat → Nat × Ev) : Out :=
  s.vForm t.toNat m.toNat lat ⟨m.toNat, p.toNat, some a.toNat, none, d.toNat, false, []⟩ (fun x _ _ l => f (nthD 0 x l))

/-! ### Lane functions (R272 to R276) -/

/-- The integer or the floating function of a type, with no event from the integer one. -/
def byType (t : Nat) (i : Int) (f : Nat × Ev) : Nat × Ev := if tyInt t then (intRaw t i, 0) else f
/-- The latency of a form that has one for integers and one for the others (R271). -/
def latOf (t : BitVec 4) (i f : Nat) : Nat := if tyInt t.toNat then i else f

/-- VADD (R272). -/
def execVadd (t : BitVec 4) (m : BitVec 3) (d a b : BitVec 6) (p : BitVec 1) (s : State) : Out :=
  let t' := t.toNat
  s.vLane2 t m d a b p false (latOf t 2 4) (fun x y _ => byType t' (intVal t' x + intVal t' y) ((tyFmt t').fadd s.rnd x y))
/-- VSUB (R272). -/
def execVsub (t : BitVec 4) (m : BitVec 3) (d a b : BitVec 6) (p : BitVec 1) (s : State) : Out :=
  let t' := t.toNat
  s.vLane2 t m d a b p false (latOf t 2 4) (fun x y _ => byType t' (intVal t' x - intVal t' y) ((tyFmt t').fsub s.rnd x y))
/-- VMUL (R272). -/
def execVmul (t : BitVec 4) (m : BitVec 3) (d a b : BitVec 6) (p : BitVec 1) (s : State) : Out :=
  let t' := t.toNat
  s.vLane2 t m d a b p false 4 (fun x y _ => byType t' (intVal t' x * intVal t' y) ((tyFmt t').fmul s.rnd x y))
/-- VFMA (R272). -/
def execVfma (t : BitVec 4) (m : BitVec 3) (d a b : BitVec 6) (p : BitVec 1) (s : State) : Out :=
  let t' := t.toNat
  s.vLane2 t m d a b p true (latOf t 4 5) (fun x y o =>
    byType t' (intVal t' x * intVal t' y + intVal t' o) ((tyFmt t').ffma s.rnd false false x y o))
/-- VFMS (R272). -/
def execVfms (t : BitVec 4) (m : BitVec 3) (d a b : BitVec 6) (p : BitVec 1) (s : State) : Out :=
  let t' := t.toNat
  s.vLane2 t m d a b p true (latOf t 4 5) (fun x y o =>
    byType t' (intVal t' x * intVal t' y - intVal t' o) ((tyFmt t').ffma s.rnd false true x y o))
/-- VFNMA (R272). -/
def execVfnma (t : BitVec 4) (m : BitVec 3) (d a b : BitVec 6) (p : BitVec 1) (s : State) : Out :=
  let t' := t.toNat
  s.vLane2 t m d a b p true (latOf t 4 5) (fun x y o =>
    byType t' (-(intVal t' x * intVal t' y) + intVal t' o) ((tyFmt t').ffma s.rnd true false x y o))
/-- VABD (R272). -/
def execVabd (t : BitVec 4) (m : BitVec 3) (d a b : BitVec 6) (p : BitVec 1) (s : State) : Out :=
  let t' := t.toNat
  s.vLane2 t m d a b p false (latOf t 2 4) (fun x y _ =>
    byType t' ((intVal t' x - intVal t' y).natAbs : Int) ((tyFmt t').fabd s.rnd x y))
/-- VDIV (R272). -/
def execVdiv (t : BitVec 4) (m : BitVec 3) (d a b : BitVec 6) (p : BitVec 1) (s : State) : Out :=
  s.vLane2 t m d a b p false 24 (fun x y _ => (tyFmt t.toNat).fdiv s.rnd x y)
/-- VSQRT (R272). -/
def execVsqrt (t : BitVec 4) (m : BitVec 3) (d a : BitVec 6) (p : BitVec 1) (s : State) : Out :=
  s.vLane1 t m d a p 28 ((tyFmt t.toNat).fsqrt s.rnd)
/-- VRCPE (R275). -/
def execVrcpe (t : BitVec 4) (m : BitVec 3) (d a : BitVec 6) (p : BitVec 1) (s : State) : Out :=
  s.vLane1 t m d a p 6 (tyFmt t.toNat).frcpe
/-- VRSQE (R275). -/
def execVrsqe (t : BitVec 4) (m : BitVec 3) (d a : BitVec 6) (p : BitVec 1) (s : State) : Out :=
  s.vLane1 t m d a p 6 (tyFmt t.toNat).frsqe
/-- VEXP2 (R276). -/
def execVexp2 (m : BitVec 3) (d a : BitVec 6) (p : BitVec 1) (s : State) : Out := s.vLane1 9 m d a p 12 (vexp2 s.rnd)
/-- VLOG2 (R276). -/
def execVlog2 (m : BitVec 3) (d a : BitVec 6) (p : BitVec 1) (s : State) : Out := s.vLane1 9 m d a p 12 (vlog2 s.rnd)

/-- VADDS (R273). -/
def execVadds (t : BitVec 4) (m : BitVec 3) (d a b : BitVec 6) (p : BitVec 1) (s : State) : Out :=
  let t' := t.toNat
  s.vLane2 t m d a b p false 2 (fun x y _ => intClamp t' (intVal t' x + intVal t' y))
/-- VSUBS (R273). -/
def execVsubs (t : BitVec 4) (m : BitVec 3) (d a b : BitVec 6) (p : BitVec 1) (s : State) : Out :=
  let t' := t.toNat
  s.vLane2 t m d a b p false 2 (fun x y _ => intClamp t' (intVal t' x - intVal t' y))
/-- VMULHI (R273). -/
def execVmulhi (t : BitVec 4) (m : BitVec 3) (d a b : BitVec 6) (p : BitVec 1) (s : State) : Out :=
  let t' := t.toNat
  s.vLane2 t m d a b p false 4 (fun x y _ => (intRaw t' (intVal t' x * intVal t' y / (2 ^ tyBits t' : Nat)), 0))
/-- A floating element's bits with the sign changed; a NaN becomes canonical (R273). -/
def signOp (f : Fmt) (x : Nat) (r : Nat) : Nat × Ev :=
  match f.decode x with
  | .nan sg => (f.canonNan, if sg then evInvalid else 0)
  | _ => (r, 0)
/-- VABS (R273). -/
def execVabs (t : BitVec 4) (m : BitVec 3) (d a : BitVec 6) (p : BitVec 1) (s : State) : Out :=
  let t' := t.toNat
  let f := tyFmt t'
  s.vLane1 t m d a p 2 (fun x => if tyInt t' then intClamp t' ((intVal t' x).natAbs : Int) else signOp f x (x % f.signBit))
/-- VNEG (R273). -/
def execVneg (t : BitVec 4) (m : BitVec 3) (d a : BitVec 6) (p : BitVec 1) (s : State) : Out :=
  let t' := t.toNat
  let f := tyFmt t'
  s.vLane1 t m d a p 2 (fun x => if tyInt t' then intClamp t' (-(intVal t' x)) else signOp f x (x ^^^ f.signBit))
/-- VCLZ (R273). -/
def execVclz (t : BitVec 4) (m : BitVec 3) (d a : BitVec 6) (p : BitVec 1) (s : State) : Out :=
  s.vLane1 t m d a p 2 (fun x => (clzNat (tyBits t.toNat) x, 0))
/-- VSHL (R273). -/
def execVshl (t : BitVec 4) (m : BitVec 3) (d a b : BitVec 6) (p : BitVec 1) (s : State) : Out :=
  let w := tyBits t.toNat
  s.vLane2 t m d a b p false 2 (fun x c _ => (if w ≤ c then 0 else x * 2 ^ c % 2 ^ w, 0))
/-- VSHR (R273). -/
def execVshr (t : BitVec 4) (m : BitVec 3) (d a b : BitVec 6) (p : BitVec 1) (s : State) : Out :=
  let w := tyBits t.toNat
  s.vLane2 t m d a b p false 2 (fun x c _ => (if w ≤ c then 0 else x / 2 ^ c, 0))
/-- VSRA (R273). -/
def execVsra (t : BitVec 4) (m : BitVec 3) (d a b : BitVec 6) (p : BitVec 1) (s : State) : Out :=
  let w := tyBits t.toNat
  s.vLane2 t m d a b p false 2 (fun x c _ => (lowBits (sgn x w / ((2 ^ (if w ≤ c then w else c) : Nat) : Int)) w, 0))
/-- VRSHR (R273): the shift count is cut where no larger one changes the result. -/
def execVrshr (t : BitVec 4) (m : BitVec 3) (d a b : BitVec 6) (p : BitVec 1) (s : State) : Out :=
  let t' := t.toNat
  s.vLane2 t m d a b p false 2 (fun x y _ =>
    let c := Nat.min y 66
    (if c = 0 then x else intRaw t' ((intVal t' x + (2 ^ (c - 1) : Nat)) / ((2 ^ c : Nat) : Int)), 0))

/-- a < b as numbers, −0 equal to +0; false with a NaN or void. -/
def FV.lt (a b : FV) : Bool :=
  match a, b with
  | .inf true, .inf true => false
  | .inf true, .nan _ => false
  | .inf true, .void => false
  | .inf true, _ => true
  | .zero _, .inf false => true
  | .fin _ _ _, .inf false => true
  | .inf _, _ => false
  | _, .inf _ => false
  | .nan _, _ => false
  | .void, _ => false
  | _, .nan _ => false
  | _, .void => false
  | x, y =>
    let p := x.toDy
    let q := y.toDy
    let e := min p.e q.e
    p.n * (2 : Int) ^ (p.e - e).toNat < q.n * (2 : Int) ^ (q.e - e).toNat
/-- Order for minimum and maximum: −0 below +0 (R218). -/
def FV.below (a b : FV) : Bool := a.lt b || (match a, b with | .zero true, .zero false => true | _, _ => false)
/-- Minimum or maximum of two raw elements of a type (R218, R274, R287). -/
def pick (t : Nat) (big : Bool) (x y : Nat) : Nat × Ev :=
  if tyInt t then
    (if big then (if intVal t x < intVal t y then y else x) else (if intVal t y < intVal t x then y else x), 0)
  else
    let a := decodeTy t x
    let b := decodeTy t y
    if a.isNan || b.isNan then
      (if tyKt t then ((encodeTy t 0 .void).1, 0)
       else ((tyFmt t).canonNan, if a.isSnan || b.isSnan then evInvalid else 0))
    else
      let r := if big then (if a.below b then y else x) else (if b.below a then y else x)
      (if t = 13 then r % 64 else r, 0)
/-- VMIN (R274). -/
def execVmin (t : BitVec 4) (m : BitVec 3) (d a b : BitVec 6) (p : BitVec 1) (s : State) : Out :=
  s.vLane2 t m d a b p false 2 (fun x y _ => pick t.toNat false x y)
/-- VMAX (R274). -/
def execVmax (t : BitVec 4) (m : BitVec 3) (d a b : BitVec 6) (p : BitVec 1) (s : State) : Out :=
  s.vLane2 t m d a b p false 2 (fun x y _ => pick t.toNat true x y)
/-- VCLAMP (R274). -/
def execVclamp (t : BitVec 4) (m : BitVec 3) (d a b : BitVec 6) (p : BitVec 1) (s : State) : Out :=
  s.vLane2 t m d a b p true 2 (fun x y o =>
    let r := pick t.toNat true o x
    let q := pick t.toNat false r.1 y
    (q.1, r.2 ||| q.2))

/-! ### Bits, moves and select (R277, R278) -/

/-- A result of bits alone; a kt6 lane is written with bits 7:6 zero (R263). -/
def bitsRes (t : Nat) (x : Nat) : Nat × Ev := (if t = 13 then x % 64 else x, 0)
/-- VAND (R277). -/
def execVand (t : BitVec 4) (m : BitVec 3) (d a b : BitVec 6) (p : BitVec 1) (s : State) : Out :=
  s.vLane2 t m d a b p false 2 (fun x y _ => bitsRes t.toNat (x &&& y))
/-- VOR (R277). -/
def execVor (t : BitVec 4) (m : BitVec 3) (d a b : BitVec 6) (p : BitVec 1) (s : State) : Out :=
  s.vLane2 t m d a b p false 2 (fun x y _ => bitsRes t.toNat (x ||| y))
/-- VXOR (R277). -/
def execVxor (t : BitVec 4) (m : BitVec 3) (d a b : BitVec 6) (p : BitVec 1) (s : State) : Out :=
  s.vLane2 t m d a b p false 2 (fun x y _ => bitsRes t.toNat (x ^^^ y))
/-- VANDN (R277). -/
def execVandn (t : BitVec 4) (m : BitVec 3) (d a b : BitVec 6) (p : BitVec 1) (s : State) : Out :=
  s.vLane2 t m d a b p false 2 (fun x y _ => bitsRes t.toNat (x &&& (y ^^^ (2 ^ (8 * tySize t.toNat) - 1))))
/-- VMOV (R277). -/
def execVmov (t : BitVec 4) (m : BitVec 3) (d a : BitVec 6) (p : BitVec 1) (s : State) : Out :=
  s.vLane1 t m d a p 2 (bitsRes t.toNat)
/-- VSEL (R278): never predicated; the selector may be m0. -/
def execVsel (t : BitVec 4) (k : BitVec 3) (d a b : BitVec 6) (p : BitVec 1) (s : State) : Out :=
  s.vForm t.toNat 0 2 ⟨0, p.toNat, some a.toNat, some b.toNat, d.toNat, false, [.m k.toNat]⟩
    (fun x y _ l => bitsRes t.toNat (if (s.mreg k.toNat).getLsbD l then nthD 0 x l else nthD 0 y l))

/-! ### Compares and mask logic (R279, R280) -/

/-- The bits of a list of truth values as a mask. -/
def maskBits (l : List Bool) : Mask := BitVec.ofNat 256 (boolsNat l)
/-- A form that writes a mask register (R279). -/
def State.vCmp (s : State) (t : BitVec 4) (m d : BitVec 3) (a b : BitVec 6) (p : BitVec 1) (f : Nat → Nat → Bool × Ev) : Out :=
  let chk : VSpec := ⟨m.toNat, p.toNat, some a.toNat, some b.toNat, if p = 0 then a.toNat else b.toNat, false, []⟩
  match s.vRead chk with
  | .error e => s.vHalt e
  | .ok (u, i) =>
    let z := tySize t.toNat
    let x := lanesOf z i.a
    let y := lanesOf z i.b
    let mk := s.maskOf m.toNat
    let r := overLanes mk (256 / z) (fun l => let c := f (nthD 0 x l) (nthD 0 y l); (if c.1 then 1 else 0, c.2))
    let keep := maskBits (r.1.map Option.isNone)
    let v := maskBits (r.1.map (fun q => q = some 1))
    let u := (u.eventV 2 r.2).pushPend (s.now + 2) .v (.mreg d.toNat keep v)
    u.done .v 1 (.at (s.now + 2))
/-- A comparison of two raw elements (R279): the answer for numbers, for a NaN or void, and whether that is Invalid. -/
def cmpOp (t : Nat) (f : FV → FV → Bool) (g : Int → Int → Bool) (nan strict : Bool) (x y : Nat) : Bool × Ev :=
  if tyInt t then (g (intVal t x) (intVal t y), 0)
  else
    let a := decodeTy t x
    let b := decodeTy t y
    if a.isNan || b.isNan then (nan, if strict || a.isSnan || b.isSnan then evInvalid else 0) else (f a b, 0)
/-- Equal as numbers. -/
def FV.eqv (a b : FV) : Bool := !a.lt b && !b.lt a
/-- VCEQ (R279). -/
def execVceq (t : BitVec 4) (m d : BitVec 3) (a b : BitVec 6) (p : BitVec 1) (s : State) : Out :=
  s.vCmp t m d a b p (cmpOp t.toNat FV.eqv (fun x y => x = y) false false)
/-- VCNE (R279). -/
def execVcne (t : BitVec 4) (m d : BitVec 3) (a b : BitVec 6) (p : BitVec 1) (s : State) : Out :=
  s.vCmp t m d a b p (cmpOp t.toNat (fun x y => !x.eqv y) (fun x y => x ≠ y) true false)
/-- VCLT (R279). -/
def execVclt (t : BitVec 4) (m d : BitVec 3) (a b : BitVec 6) (p : BitVec 1) (s : State) : Out :=
  s.vCmp t m d a b p (cmpOp t.toNat FV.lt (fun x y => x < y) false true)
/-- VCLE (R279). -/
def execVcle (t : BitVec 4) (m d : BitVec 3) (a b : BitVec 6) (p : BitVec 1) (s : State) : Out :=
  s.vCmp t m d a b p (cmpOp t.toNat (fun x y => !y.lt x) (fun x y => x ≤ y) false true)
/-- VCUN (R279). -/
def execVcun (t : BitVec 4) (m d : BitVec 3) (a b : BitVec 6) (p : BitVec 1) (s : State) : Out :=
  s.vCmp t m d a b p (cmpOp t.toNat (fun _ _ => false) (fun _ _ => false) true false)
/-- A mask-logic form (R280). -/
def State.vMask (s : State) (d a b : BitVec 3) (f : Mask → Mask → Mask) : Out :=
  if s.vShadow [.m a.toNat, .m b.toNat] then s.vHalt (.code 0x002)
  else (s.pushPend (s.now + 2) .v (.mreg d.toNat 0 (f (s.mreg a.toNat) (s.mreg b.toNat)))).done .v 1 (.at (s.now + 2))
/-- VMAND (R280). -/
def execVmand (d a b : BitVec 3) (s : State) : Out := s.vMask d a b (fun x y => x &&& y)
/-- VMOR (R280). -/
def execVmor (d a b : BitVec 3) (s : State) : Out := s.vMask d a b (fun x y => x ||| y)
/-- VMXOR (R280). -/
def execVmxor (d a b : BitVec 3) (s : State) : Out := s.vMask d a b (fun x y => x ^^^ y)

/-! ### Conversions and packing (R281 to R285) -/

/-- A form whose results stand in lanes of size z, given as lane and value (masked by element). -/
def State.vScatter (s : State) (m z lat n : Nat) (x : VSpec) (f : VIn → Nat → Nat × (Nat × Ev)) : Out :=
  match s.vRead x with
  | .error e => s.vHalt e
  | .ok (u, i) =>
    let mk := s.maskOf m
    let rs := ((List.range n).filter (laneOn mk)).map (f i)
    let cells := rs.foldl (fun c r => c ++ cellsAt (i.addr + r.1 * z) (leBytes z r.2.1)) []
    let ev := rs.foldl (fun e r => e ||| r.2.2) (0 : Ev)
    let u := u.eventV lat ev
    let u := if i.ok then u.pushPend (s.now + lat) .v (.rs cells) else u
    u.done .v 1 (.at (s.now + lat))
/-- VCVT (R282). -/
def execVcvt (t : BitVec 4) (m : BitVec 3) (d a : BitVec 6) (e : BitVec 2) (v : BitVec 4) (p : BitVec 1) (s : State) : Out :=
  let zs := tySize v.toNat
  let zd := tySize t.toNat
  let lw := 256 / Nat.max zs zd
  let base := e.toNat * lw
  s.vScatter m.toNat zd 3 lw ⟨m.toNat, p.toNat, some a.toNat, none, d.toNat, false, []⟩ (fun i l =>
    let sl := if zs < zd then base + l else l
    let dl := if zd < zs then base + l else l
    (dl, convertTy v.toNat t.toNat s.rnd (fieldAt i.a (sl * zs) zs)))
/-- The source type of VPACK (R283). -/
def packSrc (t : Nat) : Nat := if t < 8 then t % 4 + 1 else if t = 9 then 8 else 9
/-- VPACK (R283). -/
def execVpack (t : BitVec 4) (m : BitVec 3) (d a b : BitVec 6) (p : BitVec 1) (s : State) : Out :=
  let z := tySize t.toNat
  let h := 128 / z
  s.vScatter m.toNat z 3 (2 * h) ⟨m.toNat, p.toNat, some a.toNat, some b.toNat, d.toNat, false, []⟩ (fun i l =>
    let src := if l < h then fieldAt i.a (2 * z * l) (2 * z) else fieldAt i.b (2 * z * (l - h)) (2 * z)
    (l, convertTy (packSrc t.toNat) t.toNat s.rnd src))
/-- VUNPK (R284). -/
def execVunpk (t : BitVec 4) (m : BitVec 3) (d a : BitVec 6) (h p : BitVec 1) (s : State) : Out :=
  let z := tySize t.toNat
  let n := 256 / z
  s.vScatter m.toNat z 3 n ⟨m.toNat, p.toNat, some a.toNat, none, d.toNat, false, []⟩ (fun i l =>
    (l, (intRaw t.toNat (intVal (t.toNat - 1) (fieldAt i.a ((h.toNat * n + l) * (z / 2)) (z / 2))), 0)))
/-- QBLK (R285): it reads the index named and the one after it. -/
def execQblk (t : BitVec 4) (d a : BitVec 6) (s : State) : Out :=
  match s.vRead ⟨0, 0, some a.toNat, some (a.toNat + 1), d.toNat, false, []⟩ with
  | .error e => s.vHalt e
  | .ok (u, i) =>
    let xs := (lanesOf 4 i.a ++ lanesOf 4 i.b).map (decodeTy 9)
    let r := qblkRow t.toNat (s.ctl.qblkctl.toNat % 16) xs
    let u := u.eventV 8 r.2
    let u := if i.ok then u.pushPend (s.now + 8) .v (.rs (cellsAt i.addr r.1)) else u
    u.done .v 1 (.at (s.now + 8))

/-! ### Broadcast and permutes (R286) -/

/-- VBCAST (R286). -/
def execVbcast (t : BitVec 4) (m : BitVec 3) (d : BitVec 6) (b : BitVec 5) (s : State) : Out :=
  s.vForm t.toNat m.toNat 2 ⟨m.toNat, 0, none, none, d.toNat, false, [.s b.toNat]⟩
    (fun _ _ _ _ => bitsRes t.toNat ((s.sreg b.toNat).toNat % 2 ^ (8 * tySize t.toNat)))
/-- VLANE (R286). -/
def execVlane (t : BitVec 4) (m : BitVec 3) (d : BitVec 6) (s : State) : Out :=
  s.vForm t.toNat m.toNat 2 ⟨m.toNat, 0, none, none, d.toNat, false, []⟩ (fun _ _ _ l => (l, 0))
/-- VPERM (R286). -/
def execVperm (t : BitVec 4) (m : BitVec 3) (d a b : BitVec 6) (p : BitVec 1) (s : State) : Out :=
  s.vForm t.toNat m.toNat 3 ⟨m.toNat, p.toNat, some a.toNat, some b.toNat, d.toNat, false, []⟩
    (fun x y _ l => bitsRes t.toNat (nthD 0 x ((bitsRes t.toNat (nthD 0 y l)).1 % x.length)))
/-- VSHUF (R286). -/
def execVshuf (t : BitVec 4) (m : BitVec 3) (d a b : BitVec 6) (p : BitVec 1) (s : State) : Out :=
  s.vForm t.toNat m.toNat 3 ⟨m.toNat, p.toNat, some a.toNat, some b.toNat, d.toNat, true, []⟩
    (fun x y o l => bitsRes t.toNat (nthD 0 (x ++ y) ((bitsRes t.toNat (nthD 0 o l)).1 % (2 * x.length))))
/-- VSLIDE (R286). -/
def execVslide (t : BitVec 4) (m : BitVec 3) (d a : BitVec 6) (b : BitVec 5) (p : BitVec 1) (s : State) : Out :=
  s.vForm t.toNat m.toNat 3 ⟨m.toNat, p.toNat, some a.toNat, none, d.toNat, false, [.s b.toNat]⟩
    (fun x _ _ l =>
      let k := (l : Int) + (s.sreg b.toNat).toInt
      if 0 ≤ k && k < x.length then bitsRes t.toNat (nthD 0 x k.toNat) else (0, 0))
/-- VREV (R286). -/
def execVrev (t : BitVec 4) (m : BitVec 3) (d a : BitVec 6) (p : BitVec 1) (s : State) : Out :=
  s.vForm t.toNat m.toNat 3 ⟨m.toNat, p.toNat, some a.toNat, none, d.toNat, false, []⟩
    (fun x _ _ l => bitsRes t.toNat (nthD 0 x (x.length - 1 - l)))
/-- VZIP (R286). -/
def execVzip (t : BitVec 4) (m : BitVec 3) (d a b : BitVec 6) (p : BitVec 1) (s : State) : Out :=
  s.vForm t.toNat m.toNat 3 ⟨m.toNat, p.toNat, some a.toNat, some b.toNat, d.toNat, false, []⟩
    (fun x y _ l => bitsRes t.toNat (if l % 2 = 0 then nthD 0 x (l / 2) else nthD 0 y (l / 2)))
/-- VUNZIP (R286). -/
def execVunzip (t : BitVec 4) (m : BitVec 3) (d a b : BitVec 6) (p : BitVec 1) (s : State) : Out :=
  s.vForm t.toNat m.toNat 3 ⟨m.toNat, p.toNat, some a.toNat, some b.toNat, d.toNat, false, []⟩
    (fun x y _ l => bitsRes t.toNat (if 2 * l < x.length then nthD 0 x (2 * l) else nthD 0 y (2 * l - x.length)))

/-! ### Reductions (R287) -/

/-- The result type of an integer reduction (R287). -/
def sumType (t : Nat) : Nat := if t = 0 || t = 1 then 2 else if t = 4 || t = 5 then 6 else t
/-- The reduction of raw terms of a type onto an accumulator: result type and result, or a code (R287). -/
def State.reduce (s : State) (t : Nat) (ints : List Int) (terms : List FV) (acc : List Byte) : Except Nat (Nat × Nat × Ev) :=
  if tyInt t then
    let rt := sumType t
    let r := intClamp rt (ints.foldl (fun a x => a + x) (intVal rt (fieldAt acc 0 (tySize rt))))
    .ok (rt, r)
  else match profOf s.vProf with
    | none => .error 0x46
    | some pr =>
      if !pr.types.contains t then .error 0x43
      else .ok (pr.res, pr.apply terms (fieldAt acc 0 (tySize pr.res)))
/-- A sum form (R287): lane 0 whatever the mask. -/
def State.vSum (s : State) (t : BitVec 4) (m : BitVec 3) (d a : BitVec 6) (b : Option (BitVec 6)) (p : BitVec 1) : Out :=
  let t' := t.toNat
  let z := tySize t'
  let bad : Option Nat := if tyInt t' then none
    else match profOf s.vProf with
      | none => some 0x46
      | some pr => if pr.types.contains t' then none else some 0x43
  match bad with
  | some c => s.vHalt (.code c)
  | none =>
    match s.vRead ⟨m.toNat, p.toNat, some a.toNat, b.map BitVec.toNat, d.toNat, true, []⟩ with
    | .error e => s.vHalt e
    | .ok (u, i) =>
      let on := (List.range (256 / z)).filter (laneOn (s.maskOf m.toNat))
      let x := lanesOf z i.a
      let y := lanesOf z i.b
      let ints := on.map (fun l => if b.isSome then intVal t' (nthD 0 x l) * intVal t' (nthD 0 y l) else intVal t' (nthD 0 x l))
      let terms := on.map (fun l =>
        if b.isSome then (decodeTy t' (nthD 0 x l)).mul (decodeTy t' (nthD 0 y l)) else decodeTy t' (nthD 0 x l))
      match s.reduce t' ints terms i.old with
      | .error c => s.vHalt (.code c)
      | .ok (rt, v, ev) => u.vWrite i (tySize rt) 8 [some v] ev
/-- VRSUM (R287). -/
def execVrsum (t : BitVec 4) (m : BitVec 3) (d a : BitVec 6) (p : BitVec 1) (s : State) : Out := s.vSum t m d a none p
/-- VRDOT (R287). -/
def execVrdot (t : BitVec 4) (m : BitVec 3) (d a b : BitVec 6) (p : BitVec 1) (s : State) : Out := s.vSum t m d a (some b) p
/-- A lone element as a minimum or maximum gives it: a NaN is canonical, a signalling one Invalid, and a kt6 byte has bits 7:6
zero (R218, R263). -/
def firstBest (t x : Nat) : Nat × Ev := pick t true x x
/-- A minimum or maximum over the active lanes and lane 0 of the old destination (R287). -/
def State.vBest (s : State) (t : BitVec 4) (m : BitVec 3) (d a : BitVec 6) (p : BitVec 1) (big : Bool) : Out :=
  let t' := t.toNat
  let z := tySize t'
  match s.vRead ⟨m.toNat, p.toNat, some a.toNat, none, d.toNat, true, []⟩ with
  | .error e => s.vHalt e
  | .ok (u, i) =>
    let x := lanesOf z i.a
    let on := (List.range (256 / z)).filter (laneOn (s.maskOf m.toNat))
    let r := on.foldl (fun (r : Nat × Ev) l => let q := pick t' big r.1 (nthD 0 x l); (q.1, r.2 ||| q.2)) (firstBest t' (fieldAt i.old 0 z))
    u.vWrite i z 8 [some r.1] r.2
/-- VRMAX (R287). -/
def execVrmax (t : BitVec 4) (m : BitVec 3) (d a : BitVec 6) (p : BitVec 1) (s : State) : Out := s.vBest t m d a p true
/-- VRMIN (R287). -/
def execVrmin (t : BitVec 4) (m : BitVec 3) (d a : BitVec 6) (p : BitVec 1) (s : State) : Out := s.vBest t m d a p false

end Sys2Proof.Machine
end

