-- ==== Sys2Proof/Machine/Defer.lean ====
section
/-! DEFINITION. Cancelling a command (R120), and V's deferral queues with their FIFOs (R105, R288 to R297). -/

namespace Sys2Proof.Machine

/-- Set Held of a segment, wherever its entry is held (R82). -/
def State.setHeld (s : State) (id g : Nat) (h : Bool) : State :=
  let f (t : Table (Option ObjEntry)) : Table (Option ObjEntry) :=
    tset none t id ((tget none t id).map (fun e => match e.segs[g]? with
      | some x => { e with segs := setNth e.segs g { x with held := h } }
      | none => e))
  { s with mem := { s.mem with obj := f s.mem.obj, port := f s.mem.port } }
/-- Return a page to the free pool of an interface, at the place its address gives (R82, R472). -/
def State.freePage (s : State) (vi key base : Nat) : State :=
  let p := tget .reset s.mem.pools vi
  { s with mem := { s.mem with pools := tset .reset s.mem.pools vi { p with pages := tset [] p.pages key (putUp base (tget [] p.pages key)) } } }
/-- A cancelled MIGRATE: its target page goes back and its segment is no longer held. -/
def State.dropMig (s : State) (id : Nat) : State :=
  let s := (s.cx.migs.filter (fun x => x.cmd = id)).foldl (fun s x =>
    let z := match tget none s.mem.obj x.obj with | some e => (match e.segs[x.seg]? with | some g => g.pageSize | none => 0) | none => 0
    (s.setHeld x.obj x.seg false).freePage s.ctl.vi (8 * x.tier + z) x.base) s
  { s with cx := { s.cx with migs := s.cx.migs.filter (fun x => x.cmd ≠ id) } }
/-- The units drop what they still had to do for a cancelled command (R120, R294). -/
def State.dropJobs (s : State) (e : Engine) (id : Nat) : State :=
  match e with
  | .v => { s with dpend := s.dpend.filter (fun x => x.cmd ≠ id) }
  | .m => { s with me := { s.me with
      loads := s.me.loads.filter (fun x => x.cmd ≠ id)
      stream := s.me.stream.filter (fun x => x.cmd ≠ id)
      rows := s.me.rows.filter (fun x => x.cmd ≠ id)
      drain := s.me.drain.filter (fun x => x.cmd ≠ id)
      pushing := s.me.pushing.filter (fun x => x.cmd ≠ id) } }
  | _ => s.dropMig id
/-- The chain counts a command cancelled in cycle `t` as unissued: the engine stands again before it, and is no longer IDLE; its
ticket retires from the next cycle on, in ticket order (R120, R122). -/
def Chain.cancel (c : Chain) (t : Nat) (x : Cmd) : Chain :=
  let back : Bool := decide (c.base < x.id) && (match c.cut with | some k => decide (x.id < k) | none => true)
  let c' := { c with
    cmds := c.cmds.map (fun y => if y.id = x.id then { y with doneAt := none, writes := [], busy := [], finished := true, tokAt := t + 1 } else y)
    hist := if back then c.hist.takeWhile (fun h => h.1 ≠ x.id) else c.hist.filter (fun h => h.1 ≠ x.id) }
  if back then { c' with
    cut := some x.id, pos := x.pos, e := x.seq, loops := x.loops, cur := none, after := none
    st := if c.st = 0 then 2 else c.st, prev := if c.st = 3 && c.prev = 0 then 2 else c.prev }
  else c'
/-- Is it data of a form of this core? -/
def State.ownForm (s : State) (d : FabData) : Bool := d.launch = s.ctl.launchNo && d.sender = s.ctl.lcore
/-- A cancelled fabric form gives its call number back; its data leave no more, and are held and land no more (R140, R482). -/
def State.dropCall (s : State) (c : Option (Nat × Nat)) : State :=
  match c with
  | some (g, n) =>
    let its (d : FabData) : Bool := s.ownForm d && d.group = g && d.call = n
    let t := (s.fab.landing.filter (fun l => its l.data)).foldl (fun (t : State) l => t.dropAsks (.fab l.id)) s
    { t with
      cx := { t.cx with calls := tset 0 t.cx.calls g (BitVec.ofNat 32 n - 1) }
      fab := { t.fab with
        leaving := t.fab.leaving.filter (fun l => !its l.data)
        held := t.fab.held.filter (fun d => !its d)
        landing := t.fab.landing.filter (fun l => !its l.data) } }
  | none => s
/-- The writes that a command to be cancelled may already have made: those to its scratchpad banks are made as the banks serve
them, and before its source is read there are none. -/
def State.begun (s : State) (e : Engine) (x : Cmd) : List CWrite :=
  if e ≠ .c then x.writes
  else if x.out then x.writes
  else if s.waitingFor (.cmd x.id) then []
  else (s.sourced x).1.filter (fun w => !w.spad)
/-- What is still in flight of a cancelled command is dropped, and its ticket retires (R120). -/
def State.cancelRest (s : State) (e : Engine) (x : Cmd) : State :=
  let s := if e = .c then s.dropAsks (.cmd x.id) else s
  let s := x.busy.foldl (fun s b => s.busy1 false b) s
  let s := { s with pend := s.pend.filter (fun p => !(p.eng = e && p.iss = x.iss)) }
  ((s.dropJobs e x.id).dropCall x.call).setChain e ((s.chain e).cancel s.now x)
/-- Cancel an issued command: what it wrote stays, here a free number of its writes, and the rest of it is not done
(R120). -/
def State.cancelCmd (s : State) (e : Engine) (x : Cmd) : State :=
  let ws := s.begun e x
  let n := s.freeNat 1 % (ws.length + 1)
  (s.bump.applyWrites (ws.take n)).1.cancelRest e x
/-- Cancel the command of a number, where it is still there. -/
def State.cancelId (s : State) (e : Engine) (id : Nat) : State :=
  match (s.chain e).cmds.find? (fun x => x.id = id) with
  | some x => s.cancelCmd e x
  | none => s

/-! ### Completion (R113, R117 to R119) -/

/-- Have the beats that a command pushed to a write generator been written, so that they are visible (R345)? -/
def State.beatsDone (s : State) (x : Cmd) : Bool := !(s.rs.ags.any (fun g => g.1 = x.port && g.2.beats.any (fun b => b.1 ≤ x.tokAt)))
/-- May the ticket of a command that has completed complete now (R117, R345)? -/
def State.ticketDue (s : State) (x : Cmd) : Bool := x.tokAt ≤ s.now && s.beatsDone x && s.tokTurn x.prod x.ticket
/-- A command of an engine completes: its writes take effect, then its ticket, in ticket order (R117, R118). One that meets
a conflict has faulted, and is cancelled where it stands (R397, R398). -/
def State.finishCmd (s : State) (e : Engine) (x : Cmd) : State :=
  let r := s.applyWrites x.writes
  if r.2 then r.1.cancelRest e x
  else
  let s := x.busy.foldl (fun s b => s.busy1 false b) r.1
  let s := s.setChain e (((s.chain e).finishHist x.id).markDone x.id)
  if s.ticketDue x then
    let s := if x.prod = 0 then s else s.completeTok x.prod x.ticket
    s.setChain e ((s.chain e).dropCmd x.id).settle
  else s
/-- A command that is due: one of C hands its scratchpad writes to their banks first, and completes once they are served. -/
def State.complete (s : State) (e : Engine) (x : Cmd) : State :=
  if e = .c && !x.out && (x.writes ≠ []) then
    let t := s.release x
    match t.cc.cmds.find? (fun c => c.id = x.id) with
    | some y => if t.waitingFor (.cmd x.id) then t else t.finishCmd e y
    | none => t
  else s.finishCmd e x
/-- The ticket of a command that had completed before its turn (R117), or before its beats were visible (R345). -/
def State.lateTicket (s : State) (e : Engine) (x : Cmd) : State :=
  let s := if x.prod = 0 then s else s.completeTok x.prod x.ticket
  s.setChain e ((s.chain e).dropCmd x.id).settle
/-- Is a command due? -/
def Cmd.due (x : Cmd) (t : Nat) : Bool := !x.finished && (match x.doneAt with | some d => d ≤ t | none => false)
/-- The first command that may complete, in the order V, M, C; one of C waits for its banks (R94). -/
def State.completable (s : State) : Option (Engine × Cmd) :=
  [Engine.v, .m, .c].findSome? (fun e => ((s.chain e).cmds.find? (fun x =>
    x.due s.now && !(e = .c && s.waitingFor (.cmd x.id)))).map (fun x => (e, x)))
/-- The first ticket whose turn has come. -/
def State.ticketTurn (s : State) : Option (Engine × Cmd) :=
  [Engine.v, .m, .c].findSome? (fun e =>
    ((s.chain e).cmds.find? (fun x => x.finished && s.ticketDue x)).map (fun x => (e, x)))
/-- COMMAND_COMPLETION (R117, R118). -/
def execCommandCompletion (s : State) : Out :=
  match s.completable with
  | some (e, x) => .next (s.complete e x).lookAgain
  | none =>
    match s.ticketTurn with
    | some (e, x) => .next (s.lateTicket e x)
    | none => .next s

/-! ### Deferral queues -/

/-- Field q of DQCTL (R289). -/
def State.dqField (s : State) (q : Nat) : Nat := bitsOf s.ctl.dqctl.toNat (16 * q) 16
/-- Head bank of a queue. -/
def State.dqHead (s : State) (q : Nat) : Nat := s.dqField q % 256
/-- K of a queue. -/
def State.dqK (s : State) (q : Nat) : Nat := bitsOf (s.dqField q) 8 2 + 1
/-- FIFOST of the FIFO that a bank of the core's cluster heads (R105). -/
def State.fifoOf (s : State) (b : Nat) : Fifo := tget ⟨0, 0, 0⟩ s.sram.fifo (s.bankKey b)
/-- Capacity of a FIFO in rows (R105). -/
def State.fifoCap (s : State) (b : Nat) : Nat := 256 * ((s.bank b).fifoSpan + 1)
/-- The checks of a FIFO (R100, R106, R291), in every one of its banks. -/
def State.fifoCheck (s : State) (b : Nat) : Option Nat :=
  let c := s.bank b
  let all := (List.range (c.fifoSpan + 1)).map (fun i => s.bank (b + i))
  if c.mode ≠ 3 || !c.fifoHead || all.any (fun x => x.mode ≠ 3 || x.changing) then some 0x08F
  else if all.any (fun x => x.worldTag ≠ s.ctl.world || x.launchTag ≠ s.ctl.launchNo) then some 0x092
  else none
/-- The checks of DEFER and DRAIN (R291): type t, first index i of the view operand. -/
def State.dqCheck (s : State) (q t i : Nat) : Option Nat :=
  let f := s.dqField q
  if bitsOf f 14 1 = 0 || bitsOf f 10 4 ≠ t then some 0x1C0
  else if 8 < i + s.dqK q then some 0x1C0
  else s.fifoCheck (s.dqHead q)
/-- The staging of a queue: K vectors of lanes. -/
def State.staging (s : State) (q : Nat) : DQueue := tget .reset s.dq q
/-- Write the staging of a queue. -/
def State.setStaging (s : State) (q : Nat) (d : DQueue) : State := { s with dq := tset .reset s.dq q d }
/-- The cluster address of row r of a FIFO headed by a bank. -/
def fifoRow (b r : Nat) : Nat := b * 65536 + r * 256

/-- The lanes that a DEFER appends to one vector of its staging; bits 7:6 of a kt6 lane are zero (R222, R263). -/
def appended (t : Nat) (on : List Nat) (lanes : List Nat) : List Nat := on.map (fun l => (bitsRes t (nthD 0 lanes l)).1)
/-- Reads of K consecutive vectors of a view (R290). -/
def State.kRead (s : State) (a k : Nat) : Except Nat (State × List (List Byte)) :=
  (List.range k).foldl (fun r v => match r with
    | .error c => .error c
    | .ok (s, l) => match s.rsVec (s.specAddr (a / 8 * 8 + a % 8 + v)) with
      | .error c => .error c
      | .ok (s, b) => .ok (s, l ++ [b])) (.ok (s, []))
/-- Lanes of one vector as bytes, zero from the end up. -/
def packLanes (z : Nat) (l : List Nat) : List Byte := fitBytes 256 (l.flatMap (leBytes z))

/-- DEFER (R290 to R296). -/
def execDefer (t : BitVec 4) (m : BitVec 3) (q : BitVec 2) (a : BitVec 6) (s : State) : Out :=
  let q := q.toNat
  let z := tySize t.toNat
  let n := 256 / z
  let k := s.dqK q
  if s.dpend.any (fun x => x.q = q) then .next (s.again .v)
  else match s.dqCheck q t.toNat (a.toNat % 8) with
    | some c => s.vHalt (.code c)
    | none =>
      if s.vShadow (if m = 0 then [] else [.m m.toNat]) then s.vHalt (.code 0x002)
      else match s.kRead a.toNat k with
        | .error c => s.vHalt (.code c)
        | .ok (s, vs) =>
          let on := (List.range n).filter (laneOn (s.maskOf m.toNat))
          let old := s.staging q
          let all := (List.range k).map (fun v => (nthD [] old.stage v).take old.c ++ appended t.toNat on (lanesOf z (nthD [] vs v)))
          let c := old.c + on.length
          if n ≤ c then
            let rest : DQueue := ⟨all.map (fun l => l.drop n), c - n⟩
            let r := s.issued .v 1 .open
            .next { r.1 with dpend := r.1.dpend ++
              [⟨true, q, s.dqHead q, all.map (fun l => packLanes z (l.take n)), rest, k, [], 0, n, t.toNat, s.now, r.2, 0⟩] }
          else
            (s.setStaging q (if c = 0 then .reset else ⟨all, c⟩)).done .v 1 (.at s.now)

/-- The addresses of the K destination vectors of a DRAIN. -/
def State.kAddrs (s : State) (d k : Nat) : List Nat := (List.range k).map (fun v => s.specAddr (d + v))
/-- The vectors and mask of a DRAIN land 16 cycles after it takes effect (R295). -/
def State.drainLand (s : State) (iss t : Nat) (addrs : List Nat) (rows : List (List Byte)) (mk lanes : Nat) : State :=
  let row (b : List Byte) : List Byte := if t = 13 then b.map (fun x => x &&& 0x3F#8) else b
  let cells := (addrs.zip rows).flatMap (fun x => cellsAt x.1 (row (fitBytes 256 x.2)))
  (s.pushIss iss (s.now + 16) .v (.rs cells)).pushIss iss (s.now + 16) .v (.mreg mk 0 (BitVec.ofNat 256 (2 ^ lanes - 1)))
/-- DRAIN (R290, R291, R293, R295, R296). -/
def execDrain (t : BitVec 4) (d : BitVec 6) (a : BitVec 3) (k : BitVec 1) (q : BitVec 2) (s : State) : Out :=
  let q := q.toNat
  let z := tySize t.toNat
  let kk := s.dqK q
  let addrs := s.kAddrs d.toNat kk
  if s.dpend.any (fun x => x.q = q) then .next (s.again .v)
  else match s.dqCheck q t.toNat (d.toNat % 8) with
    | some c => s.vHalt (.code c)
    | none =>
      if addrs.any (fun x => !s.regOn x) then s.vHalt (.code 0x143)
      else if k = 1 && (s.fifoOf (s.dqHead q)).count < kk then
        let g := s.staging q
        let rows := (List.range kk).map (fun v => packLanes z ((nthD [] g.stage v).take g.c))
        ((s.setStaging q .reset).drainLand s.now t.toNat addrs rows a.toNat g.c).done .v 1 (.sure (s.now + 16))
      else
        let r := s.issued .v 1 .open
        .next { r.1 with dpend := r.1.dpend ++ [⟨false, q, s.dqHead q, [], .reset, kk, addrs, a.toNat, 256 / z, t.toNat, s.now, r.2, 0⟩] }
/-- VDQCNT (R297). -/
def execVdqcnt (d : BitVec 6) (q : BitVec 2) (s : State) : Out :=
  let q := q.toNat
  match s.vRead ⟨0, 0, none, none, d.toNat, false, []⟩ with
  | .error e => s.vHalt e
  | .ok (u, i) =>
    let v := bitsOf (s.dqField q) 14 1 = 1
    let c := if v then (s.staging q).c else 0
    let n := if v then (s.fifoOf (s.dqHead q)).count / s.dqK q else 0
    u.vWrite i 8 2 ((some c) :: (some n) :: List.replicate 30 (some 0)) 0

/-- Has the FIFO of a waiting DEFER or DRAIN room or rows for it (R105)? -/
def State.dqFits (s : State) (x : DPend) : Bool :=
  let f := s.fifoOf x.head
  if x.push then f.count + x.k ≤ s.fifoCap x.head else x.k ≤ f.count
/-- The cluster address of the row that its bank is to serve next for a DEFER or DRAIN (R94, R95). -/
def State.dqWants (s : State) (x : DPend) : Option Nat :=
  let f := s.fifoOf x.head
  if (s.fifoCheck x.head).isNone && s.dqFits x && x.got < x.k then
    some (fifoRow x.head (((if x.push then f.tail else f.head) + x.got) % s.fifoCap x.head))
  else none
/-- Its bank serves one more row. -/
def State.dqServe (s : State) (x : DPend) : State :=
  { s with dpend := s.dpend.map (fun y => if y.cmd = x.cmd then { y with got := y.got + 1 } else y) }
/-- Does the FIFO of a waiting DEFER or DRAIN accept it now, all its rows served, or refuse it (R100, R105)? -/
def State.dqReady (s : State) (x : DPend) : Bool := (s.fifoCheck x.head).isSome || (s.dqFits x && x.k ≤ x.got)
/-- Drop a waiting DEFER or DRAIN. -/
def State.dropDq (s : State) (x : DPend) : State := { s with dpend := s.dpend.filter (fun y => y.cmd ≠ x.cmd) }
/-- Its command completes 16 cycles on. -/
def State.dqDone (s : State) (x : DPend) : State :=
  s.setChain .v { s.cv with cmds := s.cv.cmds.map (fun c => if c.id = x.cmd then { c with doneAt := some (s.now + 16), fixed := true } else c) }
/-- Write FIFOST. -/
def State.setFifo (s : State) (b : Nat) (f : Fifo) : State :=
  { s with sram := { s.sram with fifo := tset ⟨0, 0, 0⟩ s.sram.fifo (s.bankKey b) f } }
/-- A refusal at the FIFO (R100, R482): the command is cancelled and V faults. -/
def State.dqRefuse (s : State) (x : DPend) (c : Nat) : State := ((s.dropDq x).cancelId .v x.cmd).faultAt .v c 0 0
/-- DEFER_ACCEPT (R292, R294): a FIFO accepts a push, and the DEFER takes effect whole. -/
def execDeferAccept (s : State) : Out :=
  match s.dpend.find? (fun x => x.push && s.dqReady x) with
  | none => .next s
  | some x =>
    match s.fifoCheck x.head with
    | some c => .next (s.dqRefuse x c)
    | none =>
      let f := s.fifoOf x.head
      let cap := s.fifoCap x.head
      let t := ((List.range x.k).zip x.rows).foldl (fun (s : State) r =>
        s.spadWrite (fifoRow x.head ((f.tail + r.1) % cap)) r.2) s
      .next ((((t.setFifo x.head ⟨f.count + x.k, f.head, (f.tail + x.k) % cap⟩).setStaging x.q x.rest).dropDq x).dqDone x)
/-- DRAIN_ACCEPT (R293, R295): a FIFO accepts a pop, and the DRAIN takes effect. -/
def execDrainAccept (s : State) : Out :=
  match s.dpend.find? (fun x => !x.push && s.dqReady x) with
  | none => .next s
  | some x =>
    match s.fifoCheck x.head with
    | some c => .next (s.dqRefuse x c)
    | none =>
      let f := s.fifoOf x.head
      let cap := s.fifoCap x.head
      let rows := (List.range x.k).map (fun r => s.spadRead (fifoRow x.head ((f.head + r) % cap)) 256)
      .next ((((s.setFifo x.head ⟨f.count - x.k, (f.head + x.k) % cap, f.tail⟩).drainLand x.iss x.t x.base rows x.mask x.lanes).dropDq x).dqDone x)

end Sys2Proof.Machine
end

