-- ==== Sys2Proof/Machine/Matrix.lean ====
section
/-! DEFINITION. The matrix engine: weight banks, stream contexts, streams, drains, and what its three paths do in a tape
cycle (R243 to R261). -/

namespace Sys2Proof.Machine

/-- K of a tile of an M type code (R243). -/
def tileK (t : Nat) : Nat := if t < 2 then 32 else if t < 4 then 64 else 128
/-- N of a tile (R243). -/
def tileN (t : Nat) : Nat := if t < 2 then 32 else 64
/-- Weight bank b. -/
def State.wbank (s : State) (b : Nat) : WBank := if b = 0 then s.me.bank0 else s.me.bank1
/-- Write weight bank b. -/
def State.setWbank (s : State) (b : Nat) (w : WBank) : State :=
  if b = 0 then { s with me := { s.me with bank0 := w } } else { s with me := { s.me with bank1 := w } }
/-- Stream context c (R250). -/
def State.mctx (s : State) (c : Nat) : Ctx := tget ⟨c % 2, false, 0⟩ s.me.ctx c
/-- The profile that imm16 names (R240). -/
def State.mProf (s : State) (i : BitVec 16) : Option Prof := profOf (if i = 0 then s.ctl.defProf else i.toNat)

/-- What an M word that may not issue does. -/
def State.mHalt (s : State) (e : VStop) : Out :=
  match e with
  | .code c => .next (s.faultAt .m c 0 0)
  | .hold => .next (s.again .m)
/-- A timed M word that met a busy path (R253). -/
def State.mOverlap (s : State) : Out := (s.stickyM bPathOverlap).done .m 1 .open

/-! ### Loads (R246 to R248) -/

/-- Is the load path busy (R253)? -/
def State.loadBusy (s : State) : Bool := s.me.loads.any (fun l => l.left ≠ 0)
/-- Does a stream under way read a bank (R254)? -/
def State.streamReads (s : State) (b : Nat) : Bool := match s.me.stream with | some x => x.bank = b | none => false
/-- Issue a load (R246, R253, R254). -/
def State.mLoad (s : State) (kind t mode port bank beats lat : Nat) : Out :=
  if s.loadBusy then (if s.timed then s.mOverlap else s.mHalt .hold)
  else if !s.timed && s.streamReads bank then s.mHalt .hold
  else
    let r := s.issued .m 1 .open
    .next { r.1 with me := { r.1.me with
      loads := r.1.me.loads ++ [⟨bank, kind, t, mode, port, beats, [], s.now, s.now + lat, r.2⟩] } }
/-- MLDW (R246). -/
def execMldw (p t : BitVec 3) (b : BitVec 1) (s : State) : Out := s.mLoad 0 t.toNat 0 p.toNat b.toNat 32 32
/-- MLDW.BD (R246, R247). -/
def execMldwBd (p t : BitVec 3) (e z b : BitVec 1) (s : State) : Out :=
  let k := tileK t.toNat
  let n := if z = 0 then 8 else 16
  if e = 0 then s.mLoad 1 t.toNat (1 + z.toNat) p.toNat b.toNat n 32
  else s.mLoad 1 t.toNat (3 + z.toNat) p.toNat b.toNat k (Nat.max 32 k)
/-- MLDB (R246, R248). -/
def execMldb (p t : BitVec 3) (b : BitVec 1) (s : State) : Out := s.mLoad 2 t.toNat 0 p.toNat b.toNat 64 64
/-- MWCLR (R246). -/
def execMwclr (t : BitVec 3) (b : BitVec 1) (s : State) : Out := s.mLoad 3 t.toNat 0 0 b.toNat 0 1

/-- Element c of a beat, of z bytes. -/
def beatEl (z : Nat) (b : List Byte) (c : Nat) : Nat := fieldAt b (z * c) z
/-- The element of a dense load that stands at W[k][n] (R244). -/
def denseEl (t : Nat) (beats : List (List Byte)) (k n : Nat) : Nat :=
  let per := tileK t / 32
  let z := tySize (mType t)
  beatEl z ((nthD [] beats (k / per)).drop (k % per * tileN t * z)) n
/-- The columns of a tile from an element function. -/
def columns (t : Nat) (f : Nat → Nat → Nat) : List (List Nat) :=
  (List.range (tileN t)).map (fun n => (List.range (tileK t)).map (fun k => f k n))
/-- The size of the blocks of a mode. -/
def blockSize (mode : Nat) : Nat := if mode = 1 || mode = 3 then 8 else 16
/-- The element of a block-diagonal load at W[k][n]; 0 where it is absent (R247). -/
def blockEl (t mode : Nat) (beats : List (List Byte)) (k n : Nat) : Nat :=
  let q := blockSize mode
  let z := tySize (mType t)
  if k / q ≠ n / q then 0
  else beatEl z (nthD [] beats (if mode ≤ 2 then k % q else k)) (n % q)
/-- The new content of a bank at the switch cycle of a load (R246 to R248). -/
def WBank.load (w : WBank) (l : MLoad) : WBank :=
  if l.kind = 0 then { w with fmt := l.t, mode := 0, w := columns l.t (denseEl l.t l.popped) }
  else if l.kind = 1 then { w with fmt := l.t, mode := l.mode, w := columns l.t (blockEl l.t l.mode l.popped) }
  else if l.kind = 2 then
    { w with metaValid := true
             bitmap := ((List.range 64).map (fun n => (n, fieldAt (nthD [] l.popped n) 0 16))).filter (fun x => x.2 ≠ 0)
             scales := (List.range 64).map (fun n => (n, ((nthD [] l.popped n).drop 16 |>.take 128).map BitVec.toNat)) }
  else { w with fmt := l.t, mode := 0, w := [] }

/-- Give a command of M its completion cycle. -/
def State.mDoneAt (s : State) (id t : Nat) : State :=
  { s with cm := { s.cm with cmds := s.cm.cmds.map (fun c => if c.id = id && id ≠ 0 then { c with doneAt := some t } else c) } }
/-- A command whose last beat was pushed to a port is complete, and its ticket follows when the beat is visible (R254, R345). -/
def State.mPushed (s : State) (id port vis : Nat) : State :=
  { s with cm := { s.cm with cmds := s.cm.cmds.map (fun c =>
    if c.id = id && id ≠ 0 then { c with doneAt := some s.now, tokAt := if c.prod = 0 then 0 else vis, port := port } else c) } }
/-- An untimed M command that its port fails: it is cancelled, and M faults (R205). -/
def State.mDry (s : State) (id : Nat) : State := ((s.cancelId .m id).dropJobs .m id).faultAt .m 0x144 0 0
/-- How M takes a beat: the beat, nothing yet, or PORT_DRY (R205). -/
def State.mPop (s : State) (p cmd : Nat) : Except VStop (State × List Byte) :=
  if cmd = 0 then .ok (s.portPop p)
  else match s.popSt p with
    | .ready => .ok (s.portPop p)
    | .early => .error .hold
    | .dry => .error (.code 0x144)
/-- One cycle of a load: a pop (R246). -/
def State.tickLoad (s : State) (l : MLoad) : State :=
  if l.left = 0 || s.now < l.next then s
  else match s.mPop l.port l.cmd with
    | .error .hold => s
    | .error (.code _) => s.mDry l.cmd
    | .ok (s, b) =>
      let l' := { l with left := l.left - 1, popped := l.popped ++ [b], next := s.now + 1, switchAt := Nat.max l.switchAt (s.now + 1) }
      { s with me := { s.me with loads := s.me.loads.map (fun x => if x = l then l' else x) } }
/-- The loads whose switch cycle is now take effect whole (R246). -/
def State.mSwitch (s : State) : State :=
  (s.me.loads.filter (fun l => l.left = 0 && l.switchAt ≤ s.now)).foldl (fun s l =>
    let s := { s with me := { s.me with loads := s.me.loads.filter (fun x => x ≠ l) } }
    (s.setWbank l.bank ((s.wbank l.bank).load l)).mDoneAt l.cmd s.now) s

/-! ### Streams (R249 to R254) -/

/-- The wide form of a kt element (R232): sign at bit 18, exponent at 17:10, fraction at 9:0. -/
def wideOf (t code : Nat) : BitVec 19 :=
  match decodeTy t code with
  | .fin s m e =>
    let k := Nat.log2 m
    BitVec.ofNat 19 ((if s then 2 ^ 18 else 0) + (e + k + 127).toNat * 1024 + (m - 2 ^ k) * 1024 / 2 ^ k)
  | .zero _ => 0
  | _ => 0xFF#19 <<< 10
/-- The value that a wide form stands for (R232). -/
def wideVal (w : BitVec 19) : FV :=
  let x := bitsOf w.toNat 10 8
  if x = 255 then .void
  else if x = 0 then .zero false
  else .fin w.msb (1024 + bitsOf w.toNat 0 10) ((x : Int) - 137)
/-- An element as the array takes it: decoded, or in wide form with the scale of its block beside it (R232, R234). -/
inductive MEl where
  | plain (v : FV)
  | wide (w : BitVec 19) (e8 : Nat)
  deriving DecidableEq, Repr
/-- An element of a type, with no scale of its own. -/
def elOf (ty code : Nat) : MEl := if tyKt ty then .wide (wideOf ty code) 127 else .plain (decodeTy ty code)
/-- Its value before the scale; void under the scale 0xFF (R234). -/
def MEl.val : MEl → FV
  | .plain v => v
  | .wide w e8 => if e8 = 255 then .void else wideVal w
/-- The power of two of its scale (R234). -/
def MEl.exp : MEl → Int
  | .plain _ => 0
  | .wide _ e8 => (e8 : Int) - 127
/-- The exact product of two elements, with their scales (R232, R237). -/
def MEl.mul (a b : MEl) : FV :=
  match a.val.mul b.val with
  | .fin s m e => .fin s m (e + a.exp + b.exp)
  | x => x
/-- The elements of an activation row (R244, R249). -/
def actValues (t : Nat) (scaled : Bool) (row : List Byte) : List MEl :=
  let ty := mType t
  let z := tySize ty
  let codes := (List.range (tileK t)).map (fun k => beatEl z row k)
  if tyKt ty && scaled then
    (codes.zip (blockNumbers (fieldAt row 128 16) 128 0 0)).map (fun x =>
      .wide (wideOf ty x.1) (if x.2 < 112 then fieldAt row (144 + x.2) 1 else 255))
  else codes.map (elOf ty)
/-- The elements of column n of a bank, over its tile's k (R248). -/
def WBank.values (w : WBank) (n : Nat) : List MEl :=
  let ty := mType w.fmt
  let col := match w.w[n]? with | some c => c | none => List.replicate (tileK w.fmt) 0
  if tyKt ty && w.metaValid then
    (col.zip (blockNumbers (tget 0 w.bitmap n) 128 0 0)).map (fun x => .wide (wideOf ty x.1) (nthD 255 (tget [] w.scales n) x.2))
  else col.map (elOf ty)
/-- The terms of column n: every k, or those of its block (R247, R251). -/
def WBank.terms (w : WBank) (neg : Bool) (x : List MEl) (n : Nat) : List FV :=
  let ps := x.zip (w.values n)
  let q := blockSize w.mode
  let here := if w.mode = 0 then ps else (ps.drop (n / q * q)).take q
  here.map (fun p => if neg then (p.1.mul p.2).neg else p.1.mul p.2)
/-- Does a bank match an activation type (R251)? -/
def fmtMatch (w t : Nat) : Bool := w ≠ 7 && (w = t || ((w = 4 || w = 5) && (t = 4 || t = 5)))

/-- The addresses of the rows of a view. -/
def View.rowAddrs (v : View) : List Nat := (List.range v.rows).map v.addr
/-- The check of R259 for a result type; 16 for MCLR, which has none. -/
def viewFits (v : View) (res : Nat) : Bool := v.kind = 2 && (res = 16 || v.type = res)
/-- The untimed checks of a stream, in the order of R254. -/
def State.streamCheck (s : State) (v : View) (pr : Prof) (t bank : Nat) (gather : Bool) (p : Nat) : Option Nat :=
  let g := s.agen p
  if !viewFits v pr.res then some 0x181
  else if !fmtMatch (s.wbank bank).fmt t then some 0x180
  else if v.rowAddrs.any (fun a => !s.regOn a) then some 0x143
  else if !gather && (g.st ≠ 1 || g.past (g.k + v.rows - 1)) then some 0x144
  else none
/-- The register clusters that are not ON (R197). -/
def State.clustersOff (s : State) : List Nat := (List.range 8).filter (fun n => !s.regOn (32768 * n))
/-- Issue a stream (R251 to R254). -/
def State.mStream (s : State) (c : BitVec 2) (w p t : BitVec 3) (i : BitVec 16) (gather neg zero : Bool) : Out :=
  let x := s.mctx c.toNat
  let v := s.view w.toNat
  match s.mProf i with
  | none => s.mHalt (.code 0x46)
  | some pr =>
    if !pr.types.contains (mType t.toNat) then s.mHalt (.code 0x43)
    else
      let id := if i = 0 then s.ctl.defProf else i.toNat
      let start (s : State) : Out :=
        let r := s.issued .m 1 .open
        .next { r.1 with me := { r.1.me with
          stream := some ⟨v, 0, v.rows, gather, p.toNat, t.toNat, id, neg, zero, x.bank, x.scaled, s.now, s.now, r.2, s.clustersOff⟩ } }
      if s.me.stream.isSome then (if s.timed then s.mOverlap else s.mHalt .hold)
      else if s.timed then start s
      else if s.me.loads.any (fun l => l.bank = x.bank) then s.mHalt .hold
      else match s.streamCheck v pr t.toNat x.bank gather p.toNat with
        | some e => s.mHalt (.code e)
        | none => start s
/-- MMUL (R251). -/
def execMmul (c : BitVec 2) (w p t : BitVec 3) (i : BitVec 16) (s : State) : Out := s.mStream c w p t i false false true
/-- MACC (R251). -/
def execMacc (c : BitVec 2) (w p t : BitVec 3) (i : BitVec 16) (s : State) : Out := s.mStream c w p t i false false false
/-- MACCN (R251). -/
def execMaccn (c : BitVec 2) (w p t : BitVec 3) (i : BitVec 16) (s : State) : Out := s.mStream c w p t i false true false
/-- MMULG (R251). -/
def execMmulg (c : BitVec 2) (w p t : BitVec 3) (i : BitVec 16) (s : State) : Out := s.mStream c w p t i true false true
/-- MACCG (R251). -/
def execMaccg (c : BitVec 2) (w p t : BitVec 3) (i : BitVec 16) (s : State) : Out := s.mStream c w p t i true false false

/-- The address of a row of an M word that lost some clusters (R198). -/
def rowAt (off : List Nat) (a : Nat) : Nat := if off.contains (a / 32768) then a + 262144 else a
/-- The row that enters now (R251, R252). -/
def State.enterRow (s : State) (x : MStream) (row : List Byte) : State :=
  let last := x.row + 1 = x.rows
  let wt := s.wbank x.bank
  let s := { s with me := { s.me with
    stream := if last then none else some { x with row := x.row + 1, next := s.now + 1 } } }
  let s := if last then s.mDoneAt x.cmd (s.now + 36) else s
  if !fmtMatch wt.fmt x.t then s.stickyM bFmtMismatch
  else
    let a := actValues x.t x.scaled row
    let terms := (List.range (tileN x.t)).map (wt.terms x.neg a)
    { s with me := { s.me with rows := s.me.rows ++ [⟨s.now + 35, rowAt x.off (x.view.addr x.row), x.zero, x.prof, terms, last, x.iss, x.cmd⟩] } }
/-- One cycle of the stream path (R252). -/
def State.tickStream (s : State) : State :=
  match s.me.stream with
  | none => s
  | some x =>
    if s.now < x.next then s
    else if x.gather then s.enterRow x (nthD [] (if x.port = 0 then s.rs.latch0 else s.rs.latch1) x.row)
    else match s.mPop x.port x.cmd with
      | .error .hold => s
      | .error (.code _) => s.mDry x.cmd
      | .ok (s, b) => s.enterRow x b
/-- An untimed M command that reads an accumulator row with a write pending (R407) is cancelled, and M faults. The read of a row is
not one of a write that a later-issued word of M makes (DEDUCED, log entry 95). -/
def State.mShadow (s : State) (cmd a : Nat) : Bool := cmd ≠ 0 && s.pendEn && s.pendingRsBy cmd a 256
/-- Such a command (R397, R407). -/
def State.mShadowed (s : State) (cmd : Nat) : State := ((s.cancelId .m cmd).dropJobs .m cmd).faultAt .m 0x002 0 0
/-- Read an accumulator row; zeros and RegOff where its cluster is off (R198). -/
def State.accRow (s : State) (a : Nat) : State × List Byte :=
  if s.regOn a then (s, s.rsRead a 256) else (s.stickyReg bRegOff, List.replicate 256 0)
/-- A write of M to the register space; dropped where the cluster is off (R198). -/
def State.accWrite (s : State) (iss a : Nat) (b : List Byte) : State :=
  if s.regOn a then s.pushIss iss (s.now + 1) .m (.rs (cellsAt a b)) else s.stickyReg bRegOff
/-- The events of a row reach MSTICKY with its result (R22, R260). -/
def State.eventM (s : State) (iss lat : Nat) (ev : Ev) : State :=
  if ev = 0 then s else s.pushIss iss (s.now + lat) .m (.msticky (evM ev))
/-- A row accumulates, visible in the next cycle (R251). -/
def State.accumulate (s : State) (r : MRow) : State :=
  let s := { s with me := { s.me with rows := s.me.rows.filter (fun x => x ≠ r) } }
  match profOf r.prof with
  | none => s
  | some pr =>
    if !r.zero && s.mShadow r.cmd r.addr then s.mShadowed r.cmd else
    let z := tySize pr.res
    let old := if r.zero then (s, List.replicate 256 (0 : Byte)) else s.accRow r.addr
    let outs := ((List.range r.terms.length).zip r.terms).map (fun x => pr.apply x.2 (fieldAt old.2 (z * x.1) z))
    let ev := outs.foldl (fun e x => e ||| x.2) (0 : Ev)
    (old.1.eventM r.iss 1 ev).accWrite r.iss r.addr (outs.flatMap (fun x => leBytes z x.1))

/-! ### Drains (R255, R256) -/

/-- Requant of R255: a raw element of the result type into type t. -/
def requant (v res t sh : Nat) : Nat × Ev :=
  if tyInt res then
    if tyInt t then
      intClamp t (if sh = 0 then intVal res v else (intVal res v + (2 ^ (sh - 1) : Nat)) / ((2 ^ sh : Nat) : Int))
    else match decodeTy res v with
      | .fin n m e => encodeTy t 0 (.fin n m (e - sh))
      | x => encodeTy t 0 x
  else match decodeTy res v with
    | .fin n m e => encodeTy t 0 (.fin n m (e - sh))
    | x => encodeTy t 0 x
/-- Is the drain path busy (R253)? -/
def State.drainBusy (s : State) : Bool := s.me.drain.isSome
/-- Issue a drain (R253, R255, R259). -/
def State.mDrain (s : State) (kind sh : Nat) (w p t : BitVec 3) (i : BitVec 16) : Out :=
  let v := s.view w.toNat
  match s.mProf i with
  | none => s.mHalt (.code 0x46)
  | some pr =>
    let start (s : State) : Out :=
      let r := s.issued .m 1 .open
      .next { r.1 with me := { r.1.me with
        drain := some ⟨kind, v, 0, v.rows, p.toNat, t.toNat, pr.res, sh, s.now, [], s.now, r.2, s.clustersOff⟩ } }
    if s.drainBusy then (if s.timed then s.mOverlap else s.mHalt .hold)
    else if s.timed then start s
    else if !viewFits v pr.res then s.mHalt (.code 0x181)
    else if v.rowAddrs.any (fun a => !s.regOn a) then s.mHalt (.code 0x143)
    else start s
/-- MDRN (R255). -/
def execMdrn (w p t : BitVec 3) (i : BitVec 16) (s : State) : Out := s.mDrain 0 0 w p t i
/-- MDRNC (R255). -/
def execMdrnc (w p t : BitVec 3) (i : BitVec 16) (s : State) : Out := s.mDrain 1 0 w p t i
/-- MDRNR (R255): the shift of its context, captured at issue (R250). -/
def execMdrnr (c : BitVec 2) (w p t : BitVec 3) (i : BitVec 16) (s : State) : Out :=
  s.mDrain 2 (s.mctx c.toNat).shift w p t i
/-- MCLR (R256). -/
def execMclr (w : BitVec 3) (s : State) : Out :=
  let v := s.view w.toNat
  let start (s : State) : Out :=
    let r := s.issued .m 1 .open
    .next { r.1 with me := { r.1.me with drain := some ⟨3, v, 0, v.rows, 0, 0, 0, 0, s.now, [], s.now, r.2, s.clustersOff⟩ } }
  if s.drainBusy then (if s.timed then s.mOverlap else s.mHalt .hold)
  else if s.timed then start s
  else if !viewFits v 16 then s.mHalt (.code 0x181)
  else if v.rowAddrs.any (fun a => !s.regOn a) then s.mHalt (.code 0x143)
  else start s
/-- MSFMT (R250, R257). -/
def execMsfmt (c : BitVec 2) (h : BitVec 6) (a b : BitVec 1) (s : State) : Out :=
  let x : Ctx := ⟨b.toNat, a = 1, h.toNat⟩
  ({ s with me := { s.me with ctx := tset ⟨c.toNat % 2, false, 0⟩ s.me.ctx c.toNat x } }).done .m 1 (.at s.now)
/-- A context in the layout of MSFMT's imm16 (R256, R257). -/
def Ctx.word (x : Ctx) : Nat := x.bank + (if x.scaled then 2 else 0) + 4 * x.shift
/-- The status beat (R256). -/
def State.mStatus (s : State) : List Byte :=
  let b (w : WBank) : List Nat := [w.fmt, w.mode, if w.metaValid then 1 else 0, 0]
  fitBytes 256 ((b s.me.bank0 ++ b s.me.bank1).map (BitVec.ofNat 8) ++
    [0, 1, 2, 3].flatMap (fun c => leBytes 2 (s.mctx c).word) ++ leBytes 8 s.ctl.msticky.toNat ++ leBytes 1 s.cm.flying)
/-- MSTAT (R256): the beat is pushed four cycles on. -/
def execMstat (p : BitVec 3) (s : State) : Out :=
  if s.drainBusy then (if s.timed then s.mOverlap else s.mHalt .hold)
  else
    let r := s.issued .m 1 .open
    .next { r.1 with me := { r.1.me with
      pushing := r.1.me.pushing ++ [⟨4, .reset, 0, 0, p.toNat, 0, 0, 0, s.now, [(s.now + 4, r.1.mStatus)], s.now, r.2, []⟩] } }

/-- One row of the drain path in this cycle (R255, R256). -/
def State.tickDrain (s : State) : State :=
  match s.me.drain with
  | none => s
  | some d =>
    if s.now < d.next then s
    else
      let a := rowAt d.off (d.view.addr d.row)
      if d.kind ≠ 3 && s.mShadow d.cmd a then s.mShadowed d.cmd else
      let last := d.row + 1 = d.rows
      let q : State × MDrain := if d.kind = 3 then (s, d) else
        let r := s.accRow a
        let z := tySize d.prof
        let ys := (lanesOf z r.2).map (fun v => requant v d.prof (mType d.t) d.shift)
        let ev := ys.foldl (fun e x => e ||| x.2) (0 : Ev)
        (r.1.eventM d.iss 4 ev, { d with pushes := d.pushes ++
          [(s.now + 4, fitBytes 256 (ys.flatMap (fun x => leBytes (tySize (mType d.t)) x.1)))] })
      let s := if d.kind = 1 || d.kind = 3 then q.1.accWrite d.iss a (List.replicate 256 0) else q.1
      let d : MDrain := { q.2 with row := d.row + 1, next := s.now + 1 }
      if last then
        let s := { s with me := { s.me with drain := none } }
        if d.kind = 3 then s.mDoneAt d.cmd (s.now + 1) else { s with me := { s.me with pushing := s.me.pushing ++ [d] } }
      else { s with me := { s.me with drain := some d } }
/-- The pushes of one drain that fall in this cycle: what is left of it, or none where it ended. -/
def State.pushNow (s : State) (d : MDrain) : State × Option MDrain :=
  match d.pushes with
  | (t, b) :: rest =>
    if t ≤ s.now then
      if s.pushSt d.port = .early then (s, some d)
      else if d.cmd ≠ 0 && s.pushSt d.port = .dry then (s.mDry d.cmd, none)
      else (s.portPush d.port b, some { d with pushes := rest })
    else (s, some d)
  | [] => (s, some d)
/-- Pushes of the drain under way and of those whose rows are all read (R254, R255). -/
def State.tickPush (s : State) : State :=
  let s := match s.me.drain with
    | some d =>
      let r := s.pushNow d
      { r.1 with me := { r.1.me with drain := r.2 } }
    | none => s
  s.me.pushing.foldl (fun s d =>
    let r := s.pushNow d
    let keep := r.1.me.pushing.filter (fun x => x ≠ d)
    match r.2 with
    | none => { r.1 with me := { r.1.me with pushing := keep } }
    | some d' =>
      if d'.pushes.isEmpty then
        { r.1 with me := { r.1.me with pushing := keep } }.mPushed d.cmd d.port (s.now + (s.agen d.port).lam)
      else { r.1 with me := { r.1.me with pushing := r.1.me.pushing.map (fun x => if x = d then d' else x) } }) s
/-- What M does in a tape cycle, once its word has issued (R246, R252, R255). -/
def State.tickM (s : State) : State :=
  let s := s.me.loads.foldl State.tickLoad s
  let s := s.tickStream
  let s := (s.me.rows.filter (fun r => r.at_ ≤ s.now)).foldl State.accumulate s
  s.tickDrain.tickPush

end Sys2Proof.Machine
end

