-- ==== Sys2Proof/Machine/Copy.lean ====
section
/-! DEFINITION. The copy engine: shape records, copies, fills, gather and scatter, timed transfers, memory services and the
cycle bounds of chain entries (R81, R82, R120, R121, R124 to R139). -/

namespace Sys2Proof.Machine

/-! ### Shape records (R124 to R126) -/

/-- A shape record (R124). -/
structure Shape where
  el : Nat
  dims : Nat
  ta : Nat
  tb : Nat
  first : Nat
  stride : Nat
  counts : List Nat
  ss : List Int
  ds : List Int
  deriving DecidableEq, Repr

/-- The record in 64 bytes (R124). -/
def shapeOf (b : List Byte) : Shape :=
  { el := fieldAt b 0 1, dims := fieldAt b 1 1, ta := fieldAt b 2 1, tb := fieldAt b 3 1, first := fieldAt b 4 2,
    stride := fieldAt b 6 2, counts := (List.range 4).map (fun i => fieldAt b (16 + 12 * i) 4),
    ss := (List.range 4).map (fun i => sgn (fieldAt b (20 + 12 * i) 4) 32),
    ds := (List.range 4).map (fun i => sgn (fieldAt b (24 + 12 * i) 4) 32) }
/-- Elements along dimension i; 1 beyond Dims (R126). -/
def Shape.count (r : Shape) (i : Nat) : Nat := if i < r.dims then nthD 1 r.counts i else 1
/-- All elements of the walk. -/
def Shape.total (r : Shape) : Nat := r.count 0 * r.count 1 * r.count 2 * r.count 3
/-- Bytes of an element. -/
def Shape.bytes (r : Shape) : Nat := 2 ^ r.el
/-- A record that R125 finds well formed for every form. -/
def Shape.ok (r : Shape) : Bool :=
  r.el ≤ 8 && 1 ≤ r.dims && r.dims ≤ 4 &&
  (List.range 4).all (fun i =>
    if i < r.dims then 1 ≤ r.count i && r.count i ≤ 2 ^ 24
    else nthD 0 r.counts i = 0 && nthD 0 r.ss i = 0 && nthD 0 r.ds i = 0) &&
  r.total ≤ 2 ^ 28
/-- A side is unused: its strides are zero (R125). -/
def unused (st : List Int) : Bool := st.all (fun x => x = 0)
/-- Type fields unused (R124, R125). -/
def Shape.plain (r : Shape) : Bool := r.ok && r.ta = 0 && r.tb = 0
/-- The rules of the gather and scatter forms (R136). -/
def Shape.rows (r : Shape) (most : Nat) : Bool :=
  r.plain && r.dims = 2 && nthD 0 r.ss 0 = r.bytes && nthD 0 r.ds 0 = r.bytes && r.count 1 ≤ most
/-- The offsets of a walk from both bases, in walk order (R126). -/
def Shape.walk (r : Shape) (ss ds : List Int) : List (Int × Int) :=
  (List.range (r.count 3)).flatMap (fun (i3 : Nat) => (List.range (r.count 2)).flatMap (fun (i2 : Nat) =>
    (List.range (r.count 1)).flatMap (fun (i1 : Nat) => (List.range (r.count 0)).map (fun (i0 : Nat) =>
      let off (st : List Int) : Int :=
        (i0 : Int) * nthD 0 st 0 + (i1 : Int) * nthD 0 st 1 + (i2 : Int) * nthD 0 st 2 + (i3 : Int) * nthD 0 st 3
      (off ss, off ds)))))
/-- The hull of one side (R127): the least and the first byte offset past the greatest. -/
def Shape.hull (r : Shape) (st : List Int) (base : Int) (n : Nat) : Int × Int :=
  let reach (i : Nat) : Int := ((r.count i : Int) - 1) * nthD 0 st i
  let lo := [0, 1, 2, 3].foldl (fun a i => a + Min.min 0 (reach i)) base
  let hi := [0, 1, 2, 3].foldl (fun a i => a + Max.max 0 (reach i)) base
  (lo, hi + n)
/-- The strides of CXPOSE's destination (R133). -/
def transposed (ds : List Int) : List Int := [nthD 0 ds 1, nthD 0 ds 0, nthD 0 ds 2, nthD 0 ds 3]

/-! ### Checks of an untimed command (R113, R127) -/

/-- Why a C command does not issue. -/
inductive CStop where
  | code (c : Nat) (cap : Cap) (off : Int)
  | hold
  deriving DecidableEq, Repr
/-- What a C word that may not issue does; a hold is that of a migration (R82). -/
def State.cHalt (s : State) (e : CStop) : Out :=
  match e with
  | .code c k o => .next (s.fault 3 c k (BitVec.ofInt 64 o) 0)
  | .hold => .next (s.setChain .c { s.cc with next := s.now + 1, cur := s.cc.cur.map (fun en => { en with held := true }) })
/-- The record of a slot (R128). -/
def State.shape (s : State) (n : Nat) : Except CStop Shape :=
  match tget none s.cx.recs n with
  | some r => .ok (shapeOf r.bytes)
  | none => .error (.code 0x0C2 0 0)
/-- The record of a slot, where it is fit for the form (R125). -/
def State.shapeFor (s : State) (n : Nat) (fit : Shape → Bool) : Except CStop Shape :=
  match s.shape n with
  | .ok r => if fit r then .ok r else .error (.code 0x0C1 0 0)
  | .error e => .error e
/-- The check of an access that comes after a CUT which S has issued and which waits for those before it: past steps 1 to 3 of R67
the bolt is CUT for it (R89). -/
def State.afterCut (s : State) (k : Cap) (c : Chk) : Chk :=
  if isSpad k || !s.sx.blk.any (fun b => b.cut && capObj b.cap = capObj k) then c
  else match c with
    | .bad e => if e = 0x080 || e = 0x081 || e = 0x083 then c else .bad 0x088
    | _ => .bad 0x088
/-- The check of one side's hull; a held segment holds the command back (R82, R127). Only the bytes that are read can show an
error of R65. -/
def State.side (s : State) (k : Cap) (need : Nat) (h : Int × Int) : Except CStop Unit :=
  match s.afterCut k (s.checkAcc k need h.1 (h.2 - h.1).toNat) with
  | .ok => .ok ()
  | .bad c => .error (.code c k h.1)
  | .park _ => .error .hold
/-- Do two hulls of one object meet (R127)? -/
def overlap (k j : Cap) (a b : Int × Int) : Bool := capObj k = capObj j && a.1 < b.2 && b.1 < a.2
/-- The segments of an object that a hull touches (R81). -/
def State.segsOf (s : State) (k : Cap) (h : Int × Int) : List (Nat × Nat) :=
  if isSpad k then [] else
    match s.entry (capObj k) with
    | some e => ((List.range e.segs.length).filter (fun i => match e.segs[i]? with
        | some g => g.valid && (g.unit : Int) * 4096 < h.2 && h.1 < ((g.unit + segUnits g : Nat) : Int) * 4096
        | none => false)).map (fun i => (capObj k, i))
    | none => []
/-- Least latency of one side over its hull (R6, R62). -/
def State.sideLat (s : State) (k : Cap) (h : Int × Int) (write : Bool) : Nat :=
  let o := h.1.toNat
  let n := (h.2 - h.1).toNat
  if isSpad k then Nat.max (s.spadLat o) (s.spadLat (o + n - 1))
  else if write then s.writeLatN (capObj k) o n else s.readLatN (capObj k) o n
/-- A write of C to a destination; checked by the detector where it is plain (R354). -/
def State.cWrite (s : State) (k : Cap) (o : Nat) (b : List Byte) (plain : Bool) : CWrite :=
  if isSpad k then .sram o b else .obj (capObj k) o b (if plain then some s.sx.epoch else none)
/-- Raise the busy counts of an issued command (R81). -/
def State.raiseBusy (s : State) (l : List (Nat × Nat)) : State := l.foldl (fun s b => s.busy1 true b) s
/-- How an untimed C command goes on from its issue: class, least latency, writes, the scratchpad bytes that they take (part,
address, bytes), segments, whether a repetition would combine twice, conversion, the capabilities that it reads and writes
through. -/
structure CJob where
  cls : Option Nat
  lat : Nat
  ws : List CWrite
  reads : List (Nat × Nat × Nat)
  busy : List (Nat × Nat)
  once : Bool
  cvt : Option (Nat × Nat)
  src : Cap
  dst : Cap
  deriving DecidableEq, Repr
/-- A command that only takes time. -/
def CJob.plain (cls : Option Nat) (lat : Nat) (ws : List CWrite) (busy : List (Nat × Nat)) : CJob :=
  ⟨cls, lat, ws, [], busy, false, none, 0, 0⟩
/-- A command that reads and writes through capabilities. -/
def CJob.thru (j : CJob) (a d : Cap) : CJob := { j with src := a, dst := d }
/-- The reads that a number 16 j + num makes for a unit, a row at a time: part, address, bytes (R94, R95). -/
def State.rowReads (s : State) (num : Nat) (own : BOwner) (l : List (Nat × Nat × Nat)) : List BItem :=
  l.flatMap (fun x => (rowsOf x.2.1 x.2.2).map (fun p =>
    (⟨16 * s.coreJ + num, s.spadKey p.2.1, .read x.1 p.1 p.2.2, own, some s.ctl.world⟩ : BItem)))
/-- The reads of the source of a command of C at their banks (R95). -/
def State.bankReads (s : State) (id : Nat) (j : CJob) : List BItem := s.rowReads 1 (.cmd id) j.reads
/-- What the next word of C has read of a range before its issue: its rows, by the address of the range and the offset in it. -/
def State.preRow (s : State) (a : Nat) (p : Nat × Nat × Nat) : Option (List Byte) :=
  (s.sram.got.find? (fun g => g.1 = .pre && g.2.1 = a && g.2.2.1 = p.1 && g.2.2.2.length = p.2.2)).map (fun g => g.2.2.2)
/-- Has the next word of C read the whole of a range? -/
def State.preHas (s : State) (a n : Nat) : Bool := (rowsOf a n).all (fun p => (s.preRow a p).isSome)
/-- The bytes of a range that the next word of C has read. -/
def State.preGot (s : State) (a n : Nat) : List Byte :=
  (rowsOf a n).flatMap (fun p => (s.preRow a p).getD (List.replicate p.2.2 0))
/-- The next word of C reads ranges of the scratchpad before it issues, as the number 16 j + num, and goes on in the cycle in which
their last row is served (R94, R95, R128, R136). -/
def State.preRead (s : State) (num : Nat) (l : List (Nat × Nat)) (k : Out) : Out :=
  if s.waitingFor .pre then .next s
  else match l.filter (fun x => !s.preHas x.1 x.2) with
    | [] => k
    | m => .next (s.enqueue (s.rowReads num .pre (m.map (fun x => (x.1, x.1, x.2)))))
/-- Issue an untimed C command that moves bytes (R81, R94, R113, R118): each segment counts it once. -/
def State.cIssue (s : State) (j : CJob) : Out :=
  let busy := onceEach j.busy
  let r := ((s.dropAsks .pre).raiseBusy busy).popDelay.issued .c 1 { Fin.open with
    doneAt := some (s.now + j.lat + s.delay), writes := j.ws, once := j.once, busy := busy, cls := j.cls,
    lat := j.lat + s.delay, cvt := j.cvt, src := j.src, dst := j.dst }
  .next (r.1.enqueue (s.bankReads r.2 j))
/-- The bytes of part i of a source: those of an object as they stand at the issue (log entry 10); those of the scratchpad are
still to be read, in the bank cycles of their rows (R95). -/
def State.sourceOf (s : State) (a : Cap) (i o n : Nat) : List Byte × List (Nat × Nat × Nat) :=
  if isSpad a then (List.replicate n 0, [(i, o, n)]) else (s.objRead (capObj a) o n, [])
/-- Why the source of a part may not be read: an uncorrectable error, a pending word (R65, R107). -/
def State.partStop (s : State) (a : Cap) (o n : Nat) : Option CStop :=
  if s.badAt a o n then some (.code 0x08D a o)
  else if s.pendEn && isSpad a && s.pendingSpad o n then some (.code 0x002 a o)
  else none
/-- Move parts of n bytes from source to destination offsets (R118, R133 to R136). -/
def State.moveParts (s : State) (a : Cap) (n : Nat) (ps : List (Nat × Nat)) (put : Nat → List Byte → CWrite) (j : CJob) : Out :=
  match ps.findSome? (fun p => s.partStop a p.1 n) with
  | some e => s.cHalt e
  | none =>
    let src := ((List.range ps.length).zip ps).map (fun ip => s.sourceOf a ip.1 ip.2.1 n)
    s.cIssue { j with ws := (ps.zip src).map (fun x => put x.1.2 x.2.1), reads := src.flatMap Prod.snd }

/-! ### Copies, fills, gather and scatter (R133 to R136) -/

/-- CCPY, CXPOSE and CCVT (R133): class, base offsets, destination strides, conversion. -/
def State.copy (s : State) (c : BitVec 4) (d a : Cap) (r : Shape) (so do_ : Int) (ds : List Int) (cvt : Bool) : Out :=
  let z := if cvt then tySize r.tb else r.bytes
  let sh := r.hull r.ss so r.bytes
  let dh := r.hull ds do_ z
  match s.side a rRD sh with
  | .error e => s.cHalt e
  | .ok _ =>
    match s.side d rWR dh with
    | .error e => s.cHalt e
    | .ok _ =>
      if overlap d a sh dh then s.cHalt (.code 0x0C3 d dh.1)
      else s.moveParts a r.bytes ((r.walk r.ss ds).map (fun x => ((so + x.1).toNat, (do_ + x.2).toNat)))
        (fun o b => s.cWrite d o b true)
        { CJob.plain (some c.toNat) (s.sideLat a sh false + s.sideLat d dh true) [] (s.segsOf a sh ++ s.segsOf d dh)
          with cvt := if cvt then some (r.ta, r.tb) else none, src := a, dst := d }
/-- An S register as the base of a C operand (R115). -/
def State.base (s : State) (r : BitVec 5) : Int := (s.sreg r.toNat).toNat
/-- The pending bits of the registers that a C word reads (R407). -/
def State.cShadow (s : State) (rs : List RegRef) (k : Out) : Out :=
  if s.pendEn && !s.timed && s.pendingAny rs then .next (s.faultAt .c 0x002 0 0) else k
/-- CCPY (R133). -/
def execCcpy (d a r c : BitVec 4) (x y : BitVec 5) (s : State) : Out :=
  s.cShadow [.c d.toNat, .c a.toNat, .s x.toNat, .s y.toNat]
    (match s.shapeFor r.toNat Shape.plain with
     | .error e => s.cHalt e
     | .ok q => s.copy c (s.creg d.toNat) (s.creg a.toNat) q (s.base y) (s.base x) q.ds false)
/-- CXPOSE (R133). -/
def execCxpose (d a r c : BitVec 4) (x y : BitVec 5) (s : State) : Out :=
  s.cShadow [.c d.toNat, .c a.toNat, .s x.toNat, .s y.toNat]
    (match s.shapeFor r.toNat Shape.plain with
     | .error e => s.cHalt e
     | .ok q => s.copy c (s.creg d.toNat) (s.creg a.toNat) q (s.base y) (s.base x) (transposed q.ds) false)
/-- Is a record fit for CCVT (R133)? -/
def Shape.cvtOk (r : Shape) : Bool := r.ok && r.ta < 14 && r.tb < 14 && r.bytes = tySize r.ta
/-- CCVT (R133). -/
def execCcvt (d a r c : BitVec 4) (x y : BitVec 5) (s : State) : Out :=
  s.cShadow [.c d.toNat, .c a.toNat, .s x.toNat, .s y.toNat]
    (match s.shapeFor r.toNat Shape.cvtOk with
     | .error e => s.cHalt e
     | .ok q => s.copy c (s.creg d.toNat) (s.creg a.toNat) q (s.base y) (s.base x) q.ds true)
/-- CCPYR (R134, R198). -/
def execCcpyr (a r c : BitVec 4) (x y : BitVec 5) (s : State) : Out :=
  let k := s.creg a.toNat
  s.cShadow [.c a.toNat, .s x.toNat, .s y.toNat]
    (match s.shapeFor r.toNat Shape.plain with
     | .error e => s.cHalt e
     | .ok q =>
       let sh := q.hull q.ss (s.base y) q.bytes
       let dh := q.hull q.ds (s.base x) q.bytes
       match s.side k rRD sh with
       | .error e => s.cHalt e
       | .ok _ =>
         if 2 ^ 18 ≤ s.base x || dh.1 < 0 || 262144 < dh.2 then s.cHalt (.code 0x0C8 0 (s.base x))
         else if !s.regOnRange dh.1.toNat (dh.2 - dh.1).toNat then s.cHalt (.code 0x143 0 (s.base x))
         else s.moveParts k q.bytes ((q.walk q.ss q.ds).map (fun w => ((s.base y + w.1).toNat, (s.base x + w.2).toNat)))
           (fun o b => .rs (cellsAt o b)) ((CJob.plain (some c.toNat) (s.sideLat k sh false) [] (s.segsOf k sh)).thru k 0))
/-- CFILL (R135). -/
def execCfill (d r c : BitVec 4) (x y : BitVec 5) (s : State) : Out :=
  let k := s.creg d.toNat
  s.cShadow [.c d.toNat, .s x.toNat, .s y.toNat]
    (match s.shapeFor r.toNat (fun q => q.plain && unused q.ss) with
     | .error e => s.cHalt e
     | .ok q =>
       let dh := q.hull q.ds (s.base x) q.bytes
       let b := ((List.range 32).flatMap (fun _ => leBytes 8 (s.sreg y.toNat).toNat)).take q.bytes
       match s.side k rWR dh with
       | .error e => s.cHalt e
       | .ok _ => s.cIssue ((CJob.plain (some c.toNat) (s.sideLat k dh true)
           ((q.walk q.ss q.ds).map (fun w => s.cWrite k (s.base x + w.2).toNat b true)) (s.segsOf k dh)).thru 0 k))

/-- The checks of the index list of a gather or scatter, as its read is asked for (R136). -/
def State.listCheck (s : State) (v : W64) (n : Nat) : Except CStop Unit :=
  if 2 ^ 24 ≤ v.toNat then .error (.code 0x0C1 0 0)
  else if s.preHas v.toNat (4 * n) then .ok ()
  else match s.checkSpad v.toNat (4 * n) s.ctl.world with
    | .bad c => .error (.code c 0 v.toNat)
    | _ => if s.pendEn && s.pendingSpad v.toNat (4 * n) then .error (.code 0x002 0 v.toNat) else .ok ()
/-- Bytes as n32 values. -/
def n32s : List Byte → List Nat
  | a :: b :: c :: d :: t => leNat [a, b, c, d] :: n32s t
  | _ => []
/-- The index list that has been read (R136). -/
def State.indexList (s : State) (v : W64) (n : Nat) : List Nat := n32s (s.preGot v.toNat (4 * n))
/-- The index list of an untimed gather or scatter is read, row by row, before the form issues (R95, R136). -/
def State.withList (s : State) (v : W64) (n : Nat) (k : List Nat → Out) : Out :=
  match s.listCheck v n with
  | .error e => s.cHalt e
  | .ok _ => s.preRead 11 [(v.toNat, 4 * n)] (k (s.indexList v n))
/-- The hull of rows at offsets. -/
def rowsHull (offs : List Int) (n : Nat) : Int × Int :=
  match offs with
  | [] => (0, 0)
  | o :: t => (t.foldl Min.min o, t.foldl Max.max o + n)
/-- Every row of a list of offsets passes its check (R136). -/
def State.sideRows (s : State) (k : Cap) (need n : Nat) : List Int → Except CStop Unit
  | [] => .ok ()
  | o :: t =>
    match s.side k need (o, o + n) with
    | .ok _ => s.sideRows k need n t
    | .error e => .error e
/-- CGATH and CSCAT once their list has been read and the offsets of their rows are known (R136). -/
def State.moveRows (s : State) (c : BitVec 4) (d a : Cap) (n : Nat) (from_ dst : List Int) : Out :=
  match s.sideRows a rRD n from_ with
  | .error e => s.cHalt e
  | .ok _ =>
    match s.sideRows d rWR n dst with
    | .error e => s.cHalt e
    | .ok _ =>
      let sh := rowsHull from_ n
      let dh := rowsHull dst n
      if overlap d a sh dh then s.cHalt (.code 0x0C3 d dh.1)
      else s.moveParts a n ((from_.zip dst).map (fun x => (x.1.toNat, x.2.toNat))) (fun o b => s.cWrite d o b true)
        ((CJob.plain (some c.toNat) (s.sideLat a sh false + s.sideLat d dh true) []
          (from_.flatMap (fun o => s.segsOf a (o, o + n)) ++ dst.flatMap (fun o => s.segsOf d (o, o + n)))).thru a d)
/-- The offsets of rows that an index list picks. -/
def picked (base : Int) (idx : List Nat) (st : Int) : List Int := idx.map (fun (i : Nat) => base + (i : Int) * st)
/-- The offsets of dense rows. -/
def dense (base : Int) (n : Nat) (st : Int) : List Int := (List.range n).map (fun (i : Nat) => base + (i : Int) * st)
/-- CGATH (R136). -/
def execCgath (d a r c : BitVec 4) (x y : BitVec 5) (s : State) : Out :=
  s.cShadow [.c d.toNat, .c a.toNat, .s x.toNat, .s y.toNat, .s (y.toNat + 1)]
    (match s.shapeFor r.toNat (fun q => q.rows 65536) with
     | .error e => s.cHalt e
     | .ok q => s.withList (s.sreg (y.toNat + 1)) (q.count 1) (fun idx =>
         s.moveRows c (s.creg d.toNat) (s.creg a.toNat) (q.count 0 * q.bytes)
           (picked (s.base y) idx (nthD 0 q.ss 1)) (dense (s.base x) (q.count 1) (nthD 0 q.ds 1))))
/-- CSCAT (R136). -/
def execCscat (d a r c : BitVec 4) (x y : BitVec 5) (s : State) : Out :=
  s.cShadow [.c d.toNat, .c a.toNat, .s x.toNat, .s (x.toNat + 1), .s y.toNat]
    (match s.shapeFor r.toNat (fun q => q.rows 65536) with
     | .error e => s.cHalt e
     | .ok q => s.withList (s.sreg (x.toNat + 1)) (q.count 1) (fun idx =>
         s.moveRows c (s.creg d.toNat) (s.creg a.toNat) (q.count 0 * q.bytes)
           (dense (s.base y) (q.count 1) (nthD 0 q.ss 1)) (picked (s.base x) idx (nthD 0 q.ds 1))))

/-! ### The record cache (R128, R129) -/

/-- The checks of the read of a record, as it is asked for (R128). -/
def State.recCheck (s : State) (k : Cap) (o : Int) : Except CStop Unit :=
  if o % 64 ≠ 0 then .error (.code 0x081 k o)
  else if isSpad k && s.preHas o.toNat 64 then .ok ()
  else match s.side k rRD (o, o + 64) with
    | .error e => .error e
    | .ok _ => match s.partStop k o.toNat 64 with | some e => .error e | none => .ok ()
/-- What the read of a record asks of its bank (R95). -/
def recRows (k : Cap) (o : Nat) : List (Nat × Nat) := if isSpad k then [(o, 64)] else []
/-- The bytes of a record through a capability, where they are well formed (R125, R128). -/
def State.recRead (s : State) (k : Cap) (o : Nat) : Except CStop (List Byte) :=
  let b := if isSpad k then s.preGot o 64 else s.objRead (capObj k) o 64
  if (shapeOf b).ok then .ok b else .error (.code 0x0C1 k o)
/-- CLDREC (R128). -/
def execCldrec (a r : BitVec 4) (y : BitVec 5) (s : State) : Out :=
  let k := s.creg a.toNat
  let o := s.base y
  s.cShadow [.c a.toNat, .s y.toNat]
    (match s.recCheck k o with
     | .error e => s.cHalt e
     | .ok _ => s.preRead 11 (recRows k o.toNat)
         (match s.recRead k o.toNat with
          | .error e => s.cHalt e
          | .ok b => s.cIssue (CJob.plain none (s.sideLat k (o, o + 64) false) [.recSlot r.toNat k o.toNat b] (s.segsOf k (o, o + 64)))))
/-- What the reload of slots asks of the banks: the records of the scratchpad before the first that fails its check (R95, R129). -/
def State.reloadRows (s : State) (all : Bool) : List Nat → List (Nat × Nat)
  | [] => []
  | n :: t =>
    match tget none s.cx.recs n with
    | none => if all then s.reloadRows all t else []
    | some r =>
      match s.recCheck r.cap r.off with
      | .error _ => []
      | .ok _ => recRows r.cap r.off ++ s.reloadRows all t
/-- Reload slots in turn; an invalid one is skipped where `all` (R129). -/
def State.reload (s : State) (all : Bool) : List Nat → Except (State × CStop) State
  | [] => .ok s
  | n :: t =>
    match tget none s.cx.recs n with
    | none => if all then s.reload all t else .error (s, .code 0x0C2 0 0)
    | some r =>
      match s.recCheck r.cap r.off with
      | .error e => .error (s, e)
      | .ok _ =>
        match s.recRead r.cap r.off with
        | .error e => .error (s, e)
        | .ok b => { s with cx := { s.cx with recs := tset none s.cx.recs n (some { r with bytes := b }) } }.reload all t
/-- RCFENCE (R62, R81, R95, R129): the slots are reloaded at issue, once the banks have served their records; the fence completes
when its reads are done. -/
def execRcfence (r : BitVec 4) (l : BitVec 1) (s : State) : Out :=
  let ns := if l = 1 then List.range 16 else [r.toNat]
  let rs := ns.filterMap (fun n => tget none s.cx.recs n)
  s.preRead 11 (s.reloadRows (l = 1) ns)
    (match s.reload (l = 1) ns with
     | .error (t, e) => t.cHalt e
     | .ok t => t.cIssue (CJob.plain none (rs.foldl (fun m x => Nat.max m (s.sideLat x.cap (x.off, x.off + 64) false)) 1) []
        (rs.flatMap (fun x => s.segsOf x.cap (x.off, x.off + 64)))))

/-! ### Memory services (R81, R82, R137 to R139) -/

/-- The pool key of a page (R82). -/
def pageKey (tier z : Nat) : Nat := 8 * tier + z
/-- A MIGRATE that only writes a status (R137). -/
def State.migStatus (s : State) (addr st : Nat) : Out := s.cIssue (CJob.plain none 1 [.sram addr (leBytes 4 st)] [])
/-- MIGRATE (R82, R137). A status address that is not a multiple of 4 is rounded down: the spec gives it no status and no fault
(DESIGN CHOICE, log entry 72). -/
def execMigrate (a : BitVec 4) (x y : BitVec 5) (s : State) : Out :=
  let k := s.creg a.toNat
  let o := s.base y
  let v := (s.sreg x.toNat).toNat
  let addr := v % 2 ^ 24 / 4 * 4
  let tier := bitsOf v 24 3
  s.cShadow [.c a.toNat, .s x.toNat, .s y.toNat]
    (match s.side k rOW (o, o + 1) with
     | .error e => s.cHalt e
     | .ok _ =>
       match s.checkSpad addr 4 s.ctl.world with
       | .bad c => s.cHalt (.code c 0 addr)
       | _ =>
         match s.entry (capObj k) with
         | none => s.cHalt (.code 0x083 k o)
         | some e =>
           let i := e.segs.findIdx (fun g => segCovers g (o.toNat / 4096))
           match e.segs[i]? with
           | none => s.cHalt (.code 0x086 k o)
           | some g =>
             let pool := tget .reset s.mem.pools s.ctl.vi
             let pages := tget [] pool.pages (pageKey tier g.pageSize)
             if e.pin then s.migStatus addr 1
             else if 1 < tier || (tier = 1 && !s.mem.xk4m) || v / 2 ^ 27 ≠ 0 then s.migStatus addr 4
             else if tier = g.tier then s.migStatus addr 5
             else match pages with
               | [] => s.migStatus addr 2
               | b :: rest =>
                 let r := s.issued .c 1 .open
                 let t := r.1.setHeld (capObj k) i true
                 let left : Pool := { pool with pages := tset [] pool.pages (pageKey tier g.pageSize) rest }
                 .next { t with
                   mem := { t.mem with pools := tset .reset t.mem.pools s.ctl.vi left }
                   cx := { t.cx with migs := t.cx.migs ++ [⟨capObj k, i, tier, b, addr, r.2⟩] } })
/-- Copy a range of a table onto another range of it. -/
def moveRange {α : Type} (t : Table α) (a b k : Nat) : Table α :=
  let src := t.filter (fun c => a ≤ c.1 && c.1 < a + k)
  src.foldl (fun u c => tins u (c.1 - a + b) c.2) (t.filter (fun c => !(b ≤ c.1 && c.1 < b + k)))
/-- Move the ciphertext of a page, with the identities under which it was written (R82, R84). -/
def MainMem.moveBytes (m : MainMem) (old new n : Nat) : MainMem :=
  { m with phys := moveRange m.phys old new n, tags := moveRange m.tags (old / 16) (new / 16) (n / 16) }
/-- End a C command now. -/
def State.cDoneNow (s : State) (id : Nat) (ws : List CWrite) : State :=
  s.setChain .c { s.cc with cmds := s.cc.cmds.map (fun c => if c.id = id then { c with doneAt := some s.now, writes := ws } else c) }
/-- Rewrite one segment in the object table and invalidate the object: every port translates through its entry anew (R74, R82
steps 5 and 6). -/
def State.setSeg (s : State) (id i : Nat) (g : Seg) : State :=
  let e := (tget none s.mem.obj id).map (fun e => { e with segs := setNth e.segs i g })
  { s with mem := { s.mem with obj := tset none s.mem.obj id e, port := tset none s.mem.port id e } }
/-- The first migration whose segment is not busy (R82 step 4). -/
def State.migReady (s : State) : Option Mig :=
  s.cx.migs.find? (fun x => match tget none s.mem.obj x.obj with
    | some e => (match e.segs[x.seg]? with | some g => g.busy = 0 | none => true)
    | none => true)
/-- MIGRATE_COPY (R82, steps 4 to 7). A page of which a byte cannot be read ends it with MEM_UNCORR (R65). -/
def execMigrateCopy (s : State) : Out :=
  match s.migReady with
  | none => .next s
  | some x =>
    let t := { s with cx := { s.cx with migs := s.cx.migs.filter (fun y => y.cmd ≠ x.cmd) } }
    match tget none s.mem.obj x.obj with
    | none => .next (t.cDoneNow x.cmd [.sram x.addr (leBytes 4 3)])
    | some e =>
      match e.segs[x.seg]? with
      | none => .next (t.cDoneNow x.cmd [.sram x.addr (leBytes 4 3)])
      | some g =>
        let u := { t with mem := t.mem.moveBytes g.base x.base (pageBytes g.pageSize) }
        match s.mem.bad.find? (fun p => g.base ≤ p && p < g.base + pageBytes g.pageSize) with
        | some p => .next ((s.cancelId .c x.cmd).faultAt .c 0x08D (mkCap x.obj 0 0 0) (g.unit * 4096 + (p - g.base)))
        | none => .next (((u.setSeg x.obj x.seg { g with tier := x.tier, base := x.base, held := false }).freePage s.ctl.vi
          (pageKey g.tier g.pageSize) g.base).cDoneNow x.cmd [.sram x.addr (leBytes 4 0)])

/-- The source hull that a memory service names (R138). -/
def State.service (s : State) (r : BitVec 4) (k : Cap) (o : Int) (need : Nat) (f : Except CStop (Int × Int) → Out) : Out :=
  match s.shapeFor r.toNat (fun q => q.plain && unused q.ds) with
  | .error e => s.cHalt e
  | .ok q =>
    let h := q.hull q.ss o q.bytes
    match s.side k need h with
    | .error e => f (.error e)
    | .ok _ => f (.ok h)
/-- CPREF (R138): the object-table caches hold no outcome, so only its checks and its completion show. -/
def execCpref (a r : BitVec 4) (y : BitVec 5) (s : State) : Out :=
  s.cShadow [.c a.toNat, .s y.toNat]
    (s.service r (s.creg a.toNat) (s.base y) 0 (fun _ => s.cIssue (CJob.plain none 1 [] [])))
/-- CFLUSH and CINVAL (R138). -/
def State.flush (s : State) (a r : BitVec 4) (y : BitVec 5) (drop : Bool) : Out :=
  let k := s.creg a.toNat
  s.cShadow [.c a.toNat, .s y.toNat]
    (s.service r k (s.base y) rRD (fun h => match h with
      | .error e => s.cHalt e
      | .ok h => s.cIssue (CJob.plain none (s.sideLat k h true) [.writeback (capObj k) h.1.toNat h.2.toNat drop] (s.segsOf k h))))
/-- CFLUSH (R138). -/
def execCflush (a r : BitVec 4) (y : BitVec 5) (s : State) : Out := s.flush a r y false
/-- CINVAL (R138). -/
def execCinval (a r : BitVec 4) (y : BitVec 5) (s : State) : Out := s.flush a r y true
/-- The dword of CWRW and CATOM, checked (R139). -/
def State.dword (s : State) (c : BitVec 4) (k : Cap) (o : Int) (need : Nat) (w : CWrite) (once : Bool) : Out :=
  if o % 8 ≠ 0 then s.cHalt (.code 0x08E k o)
  else match s.side k need (o, o + 8) with
    | .error e => s.cHalt e
    | .ok _ =>
      match if once then s.partStop k o.toNat 8 else none with
      | some e => s.cHalt e
      | none => s.cIssue { (CJob.plain (some c.toNat) (s.sideLat k (o, o + 8) true) [w] (s.segsOf k (o, o + 8))).thru 0 k with once := once }
/-- CWRW (R139). -/
def execCwrw (d c : BitVec 4) (x y : BitVec 5) (s : State) : Out :=
  let k := s.creg d.toNat
  s.cShadow [.c d.toNat, .s x.toNat, .s y.toNat]
    (s.dword c k (s.base x) rWR (s.cWrite k (s.sreg x.toNat).toNat (leBytes 8 (s.sreg y.toNat).toNat) false) false)
/-- CATOM (R139). -/
def execCatom (d o c : BitVec 4) (x y : BitVec 5) (s : State) : Out :=
  let k := s.creg d.toNat
  s.cShadow [.c d.toNat, .s x.toNat, .s y.toNat]
    (s.dword c k (s.base x) (rAT ||| rRD ||| rWR) (.atom (destOf k (s.sreg x.toNat).toNat) o.toNat (s.sreg y.toNat)) true)

/-! ### Timed transfers (R130, R131, R134, R136) -/

/-- The first cycle from `c` on that stands at place `f` of the frame (R131). -/
def frameCycle (c f : Nat) : Nat := c + (f + 256 - c % 256) % 256
/-- The cycles of pieces whose slots are given (R131): the cycle and slot of the piece before. -/
def pieceCycles (q : Nat) : Option (Nat × Nat) → Nat → List Nat → List Nat
  | _, _, [] => []
  | none, t, s :: r =>
    let c := frameCycle (t + 1) (s / q)
    c :: pieceCycles q (some (c, s)) t r
  | some (pc, ps), t, s :: r =>
    let c := frameCycle (if ps < s then pc else pc + 1) (s / q)
    c :: pieceCycles q (some (c, s)) t r
/-- The slots of n pieces (R131). -/
def Shape.slots (r : Shape) (S n : Nat) : List Nat := (List.range n).map (fun k => (r.first + k * r.stride) % S)
/-- q of a port (R64). -/
def portQ (p : Nat) : Nat := if p < 8 then 24 else 2
/-- An offset taken into its capability (R130), and whether it had left it. Modulo an empty window it is Lower: the spec states no
remainder by 0 (DESIGN CHOICE, log entry 73). -/
def wrapOff (k : Cap) (o : Int) : Nat × Bool :=
  let lo : Int := capLower k
  let hi : Int := capUpper k
  if lo ≤ o && o < hi then (o.toNat, false)
  else if hi ≤ lo then (lo.toNat, true)
  else ((lo + (o - lo) % (hi - lo)).toNat, true)
/-- The 64-byte pieces of an element walk: source and destination offsets (R131). -/
def pieces (el : Nat) (walk : List (Int × Int)) : List (Int × Int) :=
  walk.flatMap (fun x => (List.range (el / 64)).map (fun (j : Nat) => (x.1 + 64 * j, x.2 + 64 * j)))
/-- The pieces of rows (R136): the last piece of a row may be short. -/
def rowPieces (n : Nat) (walk : List (Int × Int)) : List (Int × Int × Nat) :=
  walk.flatMap (fun x => (List.range ((n + 63) / 64)).map (fun (j : Nat) => (x.1 + 64 * j, x.2 + 64 * j, Nat.min 64 (n - 64 * j))))
/-- Bytes to the end of the bank, where a side is the scratchpad (R95): a request reaches one bank. -/
def toBankEnd (k : Cap) (o n : Nat) : Nat := if isSpad k then Nat.min n (65536 - o % 65536) else n
/-- Split a piece where either side wraps, or passes from one bank into the next (R95, R130): source, destination, bytes,
wrapped. -/
def parts (a d : Cap) : Nat → Int → Int → Nat → List (Nat × Nat × Nat × Bool)
  | 0, _, _, _ => []
  | f + 1, so, do_, n =>
    if n = 0 then []
    else
      let x := wrapOff a so
      let y := wrapOff d do_
      let m := toBankEnd a x.1 (toBankEnd d y.1 (Nat.max 1 (Nat.min n (Nat.min (capUpper a - x.1) (capUpper d - y.1)))))
      (x.1, y.1, m, x.2 || y.2) :: parts a d f (so + m) (do_ + m) (n - m)
/-- Does a piece lose its slot of a resource in a tape cycle to a core of lower physical number (R132)? -/
def State.slotLost (s : State) (cycle res slot : Nat) : Bool :=
  s.env.rivals.any (fun r => r.1 = cycle && r.2.1 = res && r.2.2.1 = slot && r.2.2.2 < s.ctl.coreId)
/-- A piece that loses its slot: it moves nothing, and sets CCollide in the cycle of the slot (R132). -/
def State.collide (s : State) (cycle : Nat) : State := s.pushPend cycle .c (.csticky bCCollide)
/-- One part of a timed piece: source read at c, visible at its destination as R131 says; one that has lost its slot only reads. -/
def State.timedPart (s : State) (a d : Cap) (c : Nat) (lost : Bool) (p : Nat × Nat × Nat × Bool) : State :=
  let s := if p.2.2.2 then s.stickyC bCWrap else s
  let num := 16 * s.coreJ + 1
  if lost then (if isSpad a then s.pushReq c num p.1 .touch else s)
  else if isSpad a then
    s.pushReq c num p.1 (.move p.2.2.1 (c + s.writeLatN (capObj d) p.2.1 p.2.2.1) (.obj (capObj d) p.2.1 []) num)
  else
    { s with sram := { s.sram with
      timed := s.sram.timed ++ [⟨c, num, s.sram.order, p.2.1, true,
        .fetch a p.1 p.2.2.1 (c + s.readLatN (capObj a) p.1 p.2.2.1) (.sram [(s.spadKey p.2.1, 0)]) num, s.now, true⟩]
      order := s.sram.order + 1 } }
/-- The port of the object side of a timed form. -/
def State.timedPort (s : State) (a d : Cap) : Nat :=
  let k := if isSpad a then d else a
  s.portAt (capObj k) (capLower k)
/-- Every piece of a timed memory form (R131). -/
def State.timedMove (s : State) (a d : Cap) (r : Shape) (ps : List (Int × Int × Nat)) : State :=
  let port := s.timedPort a d
  let q := portQ port
  let sl := r.slots (256 * q) ps.length
  let cs := (pieceCycles q none s.now sl).zip sl
  (cs.zip ps).foldl (fun s x =>
    let lost := s.slotLost x.1.1 (7 + port) x.1.2
    (parts a d 66 x.2.1 x.2.2.1 x.2.2.2).foldl (fun s p => s.timedPart a d x.1.1 lost p) (if lost then s.collide x.1.1 else s)) s
/-- The record of a timed form; its checks were made at stream load. -/
def State.timedShape (s : State) (r : BitVec 4) : Shape :=
  match tget none s.cx.recs r.toNat with
  | some x => shapeOf x.bytes
  | none => shapeOf []
/-- A form that stands only in a run (R30, R123). -/
def State.inRun (s : State) (k : Out) : Out := if s.timed then k else .next (s.faultAt .c 0x45 0 0)
/-- CCPYT (R130, R131, R133). -/
def execCcpyt (d a r _c : BitVec 4) (x y : BitVec 5) (s : State) : Out :=
  s.inRun (
  let q := s.timedShape r
  let ps := (pieces q.bytes ((q.walk q.ss q.ds).map (fun w => (s.base y + w.1, s.base x + w.2)))).map (fun p => (p.1, p.2, 64))
  (s.timedMove (s.creg a.toNat) (s.creg d.toNat) q ps).done .c 1 .open)
/-- The bytes of an index list that lie in one bank: zeros where it is not usable or serves a lower requester (R95, R96). -/
def State.listPart (s : State) (a n : Nat) : State × List Byte :=
  let num := 16 * s.coreJ + 1
  let here := s.sram.timed.filter (fun r => r.cycle = s.now && !r.isFetch && s.reqKey r / 65536 = s.bankKey (a / 65536))
  let zeros := List.replicate n 0
  if !s.bankUsable (a / 65536) then (s.stickySram bBankMiss, zeros)
  else if here.any (fun r => r.num < num) then (s.stickySram bBankCollide, zeros)
  else
    let t := (here.filter (fun r => r.num = num)).foldl (fun t r => match r.act with
      | .write b => { t with sram := { t.sram with bytes := mwriteN t.sram.bytes (s.reqKey r) b } }
      | _ => t) s
    (s.pushReq s.now num a .touch, t.spadRead a n)
/-- The index list of a timed form, read at its issue cycle, bank by bank (R95, R96, R136). Bits 63:24 of its address are dropped:
R136 refuses them, and a timed form makes no check and never faults (R130); the spec does not say how it meets them (DESIGN
CHOICE, log entry 74). -/
def State.timedList (s : State) (v : W64) (n : Nat) : State × List Nat :=
  let a := v.toNat % 2 ^ 24
  let m := Nat.min (4 * n) (65536 - a % 65536)
  let x := s.listPart a m
  let y := if m = 4 * n then (x.1, []) else x.1.listPart ((a + m) % 2 ^ 24) (4 * n - m)
  (y.1, (List.range n).map (fun i => fieldAt (x.2 ++ y.2) (4 * i) 4))
/-- CGATHT (R131, R136). -/
def execCgatht (d a r _c : BitVec 4) (x y : BitVec 5) (s : State) : Out :=
  s.inRun (
  let q := s.timedShape r
  let l := s.timedList (s.sreg (y.toNat + 1)) (q.count 1)
  let w := (picked (s.base y) l.2 (nthD 0 q.ss 1)).zip (dense (s.base x) (q.count 1) (nthD 0 q.ds 1))
  (l.1.timedMove (s.creg a.toNat) (s.creg d.toNat) q (rowPieces (q.count 0 * q.bytes) w)).done .c 1 .open)
/-- CSCATT (R131, R136). -/
def execCscatt (d a r _c : BitVec 4) (x y : BitVec 5) (s : State) : Out :=
  s.inRun (
  let q := s.timedShape r
  let l := s.timedList (s.sreg (x.toNat + 1)) (q.count 1)
  let w := (dense (s.base y) (q.count 1) (nthD 0 q.ss 1)).zip (picked (s.base x) l.2 (nthD 0 q.ds 1))
  (l.1.timedMove (s.creg a.toNat) (s.creg d.toNat) q (rowPieces (q.count 0 * q.bytes) w)).done .c 1 .open)
/-- One part of a CCPYRT piece: a destination whose register cluster is not ON at the issue writes nothing and sets RegOff (R198);
one that has lost its slot only reads (R132). -/
def State.regPart (s : State) (a : Cap) (c : Nat) (lost : Bool) (so do_ : Int) (m : Nat) : State :=
  let x := wrapOff a so
  let y := (do_ % 262144).toNat
  let s := if x.2 || do_ < 0 || 262144 ≤ do_ then s.stickyC bCWrap else s
  let on := s.regOn y
  let s := if on then s else s.stickyReg bRegOff
  let num := 16 * s.coreJ + 1
  let dst : Tgt := .rs (if on then [(y, 0)] else [])
  if lost then (if isSpad a then s.pushReq c num x.1 .touch else s)
  else if isSpad a then s.pushReq c num x.1 (.move m (c + s.spadLat x.1) dst num)
  else { s with sram := { s.sram with
    timed := s.sram.timed ++ [⟨c, num, s.sram.order, 0, true,
      .fetch a x.1 m (c + s.readLatN (capObj a) x.1 m) dst num, s.now, true⟩]
    order := s.sram.order + 1 } }
/-- A CCPYRT piece, split where a side wraps, and where it passes into another bank or register cluster. -/
def State.regPiece (s : State) (a : Cap) (c : Nat) (lost : Bool) : Nat → Int → Int → Nat → State
  | 0, _, _, _ => s
  | f + 1, so, do_, n =>
    if n = 0 then s
    else
      let x := (wrapOff a so).1
      let m := toBankEnd a x (Nat.max 1 (Nat.min n (Nat.min (capUpper a - x) (32768 - (do_ % 32768).toNat))))
      (s.regPart a c lost so do_ m).regPiece a c lost f (so + m) (do_ + m) (n - m)
/-- CCPYRT (R130, R131, R134): from the scratchpad piece k goes at t + 1 + k, with no slot. Bits 63:18 of sd are dropped and set no
CWrap, which R134 names for offsets taken modulo 262,144; whether the base counts as one it does not say (DESIGN CHOICE, log
entry 75). -/
def execCcpyrt (a r _c : BitVec 4) (x y : BitVec 5) (s : State) : Out :=
  s.inRun (
  let q := s.timedShape r
  let k := s.creg a.toNat
  let ps := pieces q.bytes ((q.walk q.ss q.ds).map (fun w => (s.base y + w.1, ((s.sreg x.toNat).toNat % 2 ^ 18 : Nat) + w.2)))
  let port := s.portAt (capObj k) (capLower k)
  let sl := if isSpad k then List.replicate ps.length 0 else q.slots (256 * portQ port) ps.length
  let cs := (if isSpad k then (List.range ps.length).map (fun i => s.now + 1 + i) else pieceCycles (portQ port) none s.now sl).zip sl
  ((cs.zip ps).foldl (fun (s : State) (z : (Nat × Nat) × Int × Int) =>
    let lost := !isSpad k && s.slotLost z.1.1 (7 + port) z.1.2
    (if lost then s.collide z.1.1 else s).regPiece k z.1.1 lost 66 z.2.1 z.2.2 64) s).done .c 1 .open)

/-! ### Cycle bounds (R120, R121) -/

/-- The group of the call word of a fabric form, and whether the word is one (R140). -/
def State.callGroup (s : State) (i : Instr) : Option Nat :=
  match i with
  | .put _ _ _ _ x _ => some (bitsOf (s.sreg (x.toNat + 1)).toNat 17 8)
  | .putred _ _ _ _ x _ => some (bitsOf (s.sreg (x.toNat + 1)).toNat 17 8)
  | .get _ _ _ _ _ y => some (bitsOf (s.sreg (y.toNat + 1)).toNat 17 8)
  | _ => none
/-- Is a fabric form on a group in flight (R140)? -/
def State.callBusy (s : State) (g : Nat) : Bool :=
  s.cc.cmds.any (fun c => !c.finished && (match c.call with | some x => x.1 = g | none => false))
/-- What an unissued entry waits for: WaitKind and WaitId (R121). -/
def State.waitKind (s : State) (e : Engine) (en : Entry) : Nat × Nat :=
  match en.needs.find? (fun n => !s.tokMet n.1 n.2) with
  | some n => (1, n.1)
  | none =>
    if roomOf e ≤ (s.chain e).flying then (6, 0)
    else match decodeFor e en.word.toNat with
      | .ok (.defer _ _ q _) => (4, s.dqHead q.toNat)
      | .ok (.drain _ _ _ _ q) => (4, s.dqHead q.toNat)
      | .ok i =>
        if e = .c then
          (match s.callGroup i with
           | some g =>
             if s.callBusy g then (9, g)
             else if en.held then (8, 0)
             else if s.cx.asked then (if s.cx.parked then (5, 0) else (7, 0))
             else match s.cx.arm with
               | some a => (2, a.1)
               | none => (0, 0)
           | none => (if en.held then 8 else 0, 0))
        else (0, 0)
      | .error _ => (0, 0)
/-- Are the data of a call of this core being transferred: past their match and landing, or still leaving? -/
def State.callMoving (s : State) (x : Nat × Nat) : Bool :=
  (s.fab.leaving.map (fun l => l.data) ++ s.fab.landing.map (fun l => l.data)).any
    (fun d => s.ownForm d && d.group = x.1 && d.call = x.2)
/-- What an issued command waits for (R121). -/
def State.flightKind (s : State) (e : Engine) (c : Cmd) : Nat × Nat :=
  match c.call with
  | some x => if c.doneAt.isSome || s.callMoving x then (0, 0) else (3, x.1)
  | none =>
    if e = .v then
      (match s.dpend.find? (fun d => d.cmd = c.id) with
       | some d => (4, d.head)
       | none => (0, 0))
    else (0, 0)
/-- CBOUNDINFO (R121). -/
def boundInfo (seq eng kind id : Nat) (issued restartable : Bool) : W64 :=
  BitVec.ofNat 64 (seq % 2 ^ 24 + eng * 2 ^ 24 + kind * 2 ^ 26 + id % 2 ^ 12 * 2 ^ 30 +
    (if issued then 2 ^ 42 else 0) + (if restartable then 2 ^ 43 else 0))
/-- The command in flight of an engine whose bound has passed (R120). -/
def State.overCmd (s : State) (e : Engine) : Option Cmd :=
  (s.chain e).cmds.find? (fun c => !c.finished && !c.fixed && c.decodedAt + c.bound ≤ s.now)
/-- The decoded entry of an engine whose bound has passed (R120): also in the cycle in which another engine faults (R398). -/
def State.overEntry (s : State) (e : Engine) : Option Entry :=
  match (s.chain e).cur with
  | some en =>
    let open_ : Bool := match s.trap.stop with | some f => f.at_ = s.now && f.src ≠ engNo e | none => true
    if en.at_ + en.bound ≤ s.now && !en.skip && open_ && s.trap.save.isNone then some en else none
  | none => none
/-- Record an overrun and fault with CHAIN_BOUND (R120, R121, R399, R401). -/
def State.bound (s : State) (e : Engine) (info : W64) (again_ : Bool) : State :=
  { s with ctl := { s.ctl with cboundinfo := info } }.raiseF ⟨s.now, 0x0C0, 0, engNo e, 0, 0, info, false, again_⟩
/-- CHAIN_BOUND (R120): of the first engine that has an overrun. -/
def execChainBound (s : State) : Out :=
  match [Engine.v, .m, .c].find? (fun e => (s.overCmd e).isSome || (s.overEntry e).isSome) with
  | none => .next s
  | some e =>
    match s.overCmd e with
    | some c =>
      let k := s.flightKind e c
      .next ((s.cancelCmd e c).bound e (boundInfo c.seq (engNo e) k.1 k.2 true (!c.once)) (!c.once))
    | none =>
      match s.overEntry e with
      | some en =>
        let k := s.waitKind e en
        let t := s.setChain e { s.chain e with cur := none }
        .next ((if e = Engine.c then t.unask else t).bound e
          (boundInfo en.seq (engNo e) k.1 k.2 false true) true)
      | none => .next s

end Sys2Proof.Machine
end

