-- ==== Sys2Proof/Machine/Bank.lean ====
section
/-! DEFINITION. Bank control, object-table invalidations and bolts (R74, R86 to R91, R98, R99, R106, R108 to R111). -/

namespace Sys2Proof.Machine

/-! ### Mode changes (R99) -/

/-- Write BANKCFG of a bank key. -/
def State.setCfg (s : State) (k : Nat) (c : BankCfg) : State :=
  { s with sram := { s.sram with cfg := tset .reset s.sram.cfg k c } }
/-- BANKCFG of a bank key. -/
def State.cfgOf (s : State) (k : Nat) : BankCfg := tget .reset s.sram.cfg k
/-- A line of the way that a bank is. -/
def State.inWay (s : State) (k : Nat) (l : Line) : Bool :=
  l.cluster = k / 256 && l.slice = (s.cfgOf k).slice && l.way = (s.cfgOf k).way && (s.cfgOf k).mode = 2
/-- The head of the FIFO that a bank lies in, by package key (R99, R105). -/
def State.fifoHeadOf (s : State) (k : Nat) : Option Nat :=
  ((List.range 16).map (fun i => k - i)).find? (fun h =>
    let c := s.cfgOf h
    c.mode = 3 && c.fifoHead && h / 256 = k / 256 && h ≤ k && k ≤ h + c.fifoSpan)
/-- Steps 1 and 2 of a mode change, and when it will end (R99): a written-back line takes 4 cycles, the zeroing 256. A FIFO one of
whose banks closes holds no row any more. -/
def State.closeBank (s : State) (k : Nat) (new : BankCfg) : State :=
  let dirty := (s.sram.lines.filter (fun l => s.inWay k l && l.dirty)).length
  let t := (s.cleanLines (s.inWay k)).dropLines (s.inWay k)
  let u := t.setCfg k { t.cfgOf k with changing := true }
  { u with sram := { u.sram with
    fifo := tset ⟨0, 0, 0⟩ u.sram.fifo ((s.fifoHeadOf k).getD k) ⟨0, 0, 0⟩
    changes := u.sram.changes ++ [⟨k, new, s.now + 4 * dirty + 256⟩] } }
/-- Steps 3 and 4 (R99). -/
def State.openBank (s : State) (c : BankChange) : State :=
  { s.setCfg c.key c.cfg with sram := { (s.setCfg c.key c.cfg).sram with
    bytes := s.sram.bytes.filter (fun b => b.1 / 65536 ≠ c.key)
    changes := s.sram.changes.filter (fun x => x ≠ c) } }
/-- A mode change whose last step is due. -/
def State.opening (s : State) : Option BankChange := s.sram.changes.find? (fun c => c.endAt ≤ s.now)
/-- BANK_OPEN (R99). -/
def execBankOpen (s : State) : Out :=
  match s.opening with
  | some c => .next (s.openBank c)
  | none => .next s
/-- BANKCFG (R106): new tags through the four steps, the mode kept. -/
def execBankcfg (bank : Nat) (launchTag : BitVec 8) (worldTag : BitVec 16) (s : State) : Out :=
  if (s.cfgOf bank).changing then .next s
  else .next (s.closeBank bank { s.cfgOf bank with launchTag := launchTag.toNat, worldTag := worldTag.toNat })

/-! ### Bank-control instructions (R108 to R111) -/

/-- The FIFO that a bank lies in: head and last bank. -/
def State.fifoAround (s : State) (b : Nat) : Option (Nat × Nat) :=
  ((List.range 16).map (fun i => b - i)).findSome? (fun h =>
    let c := s.bank h
    if c.mode = 3 && c.fifoHead && h ≤ b && b ≤ h + c.fifoSpan then some (h, h + c.fifoSpan) else none)
/-- The checks that BANKSET makes of each bank in turn (R109). -/
def State.banksetBanks (s : State) (first count : Nat) : Nat → Nat → Option Nat
  | 0, _ => none
  | k + 1, b =>
    let c := s.bank b
    if c.launchTag ≠ s.ctl.launchNo then some 0x090
    else if c.worldTag ≠ s.ctl.world then some 0x092
    else if c.changing || (match s.fifoAround b with
        | some (h, l) => h < first || first + count ≤ l
        | none => false) then some 0x091
    else s.banksetBanks first count k (b + 1)
/-- The checks of BANKSET (R109). -/
def State.banksetCheck (s : State) (a b : Nat) : Option Nat :=
  let first := bitsOf a 0 8
  let count := bitsOf a 8 9
  let mode := bitsOf b 0 2
  let slice := bitsOf b 2 2
  let way := bitsOf b 4 4
  if count = 0 || 256 < first + count || a / 2 ^ 17 ≠ 0 || b / 2 ^ 8 ≠ 0 then some 0x091
  else match s.banksetBanks first count count first with
    | some c => some c
    | none =>
      if mode = 2 && (16 < way + count || (List.range 256).any (fun x =>
          (x < first || first + count ≤ x) && (s.bank x).mode = 2 && (s.bank x).slice = slice &&
          way ≤ (s.bank x).way && (s.bank x).way < way + count)) then some 0x091
      else if mode = 3 && 16 < count then some 0x091
      else none
/-- The new BANKCFG of bank b (R109). Outside WAY mode Slice and Way read 0: the spec gives them no meaning there and does not say
what they hold (DESIGN CHOICE, log entry 76). -/
def State.banksetCfg (s : State) (a b i : Nat) : BankCfg :=
  let first := bitsOf a 0 8
  let mode := bitsOf b 0 2
  { s.bank i with
    mode := mode
    slice := if mode = 2 then bitsOf b 2 2 else 0
    way := if mode = 2 then bitsOf b 4 4 + (i - first) else 0
    changing := false
    fifoHead := decide (mode = 3 && i = first)
    fifoSpan := if mode = 3 && i = first then bitsOf a 8 9 - 1 else 0 }
/-- Is a bank part of a FIFO with the same layout as BANKSET names (R99)? -/
def State.sameFifo (s : State) (a i : Nat) : Bool :=
  s.fifoAround i = some (bitsOf a 0 8, bitsOf a 0 8 + bitsOf a 8 9 - 1)
/-- Close every named bank whose configuration changes (R99, R109). A BANKSET of mode 3 that names the present FIFO layout leaves its
banks alone, FIFOST and the rows held included: R99 says so of the bank, R109 sets FIFOST := 0 (DESIGN CHOICE, log entry 107). -/
def State.banksetClose (s : State) (a b : Nat) : State :=
  let first := bitsOf a 0 8
  (List.range (bitsOf a 8 9)).foldl (fun (u : State) j =>
    let i := first + j
    let new := s.banksetCfg a b i
    if new = s.bank i && (bitsOf b 0 2 ≠ 3 || s.sameFifo a i) then u else u.closeBank (s.bankKey i) new) s
/-- Is a named bank still changing? -/
def State.banksetBusy (s : State) (a : Nat) : Bool :=
  (List.range (bitsOf a 8 9)).any (fun j => (s.bank (bitsOf a 0 8 + j)).changing)
/-- BANKSET (R99, R109): checks, the close in the next cycle, and S holds until every named bank is open. -/
def execBankset (a b : BitVec 5) (s : State) : Out :=
  match s.sx.blk with
  | none => s.reading [.s a.toNat, .s b.toNat]
      (match s.banksetCheck (s.sreg a.toNat).toNat (s.sreg b.toNat).toNat with
       | some c => s.trapS c
       | none => .next (s.block (holding (s.sreg a.toNat) (s.sreg b.toNat) 0 0 0 s.now (s.now + 1))))
  | some x =>
    let t := if x.a = 0 then s.banksetClose x.d.toNat x.d1.toNat else s
    if t.banksetBusy x.d.toNat then .next (t.block { x with a := 1 }) else .next t.advS
/-- BANKCFG as a dword (R98). -/
def BankCfg.word (c : BankCfg) : Nat :=
  c.mode + 4 * c.slice + 16 * c.way + (if c.changing then 256 else 0) + (if c.fifoHead then 512 else 0) + 1024 * c.fifoSpan +
    2 ^ 16 * c.worldTag + 2 ^ 32 * c.launchTag
/-- BANKCFG from its dword (R98). -/
def BankCfg.ofWord (w : Nat) : BankCfg :=
  ⟨bitsOf w 0 2, bitsOf w 2 2, bitsOf w 4 4, bitsOf w 8 1 = 1, bitsOf w 9 1 = 1, bitsOf w 10 4, bitsOf w 16 16, bitsOf w 32 8⟩
/-- The bank that sa[7:0] names. -/
def State.namedBank (s : State) (a : BitVec 5) : Nat := (s.sreg a.toNat).toNat % 256
/-- BANKGET (R110). -/
def execBankget (d a : BitVec 5) (s : State) : Out :=
  s.reading [.s a.toNat] (.next (s.wrS d.toNat (BitVec.ofNat 64 (s.bank (s.namedBank a)).word) 1).advS)
/-- WAYMASK (R110). -/
def execWaymask (a : BitVec 5) (s : State) : Out :=
  let k := 16 * s.cluster + 4 * bitsOf s.ctl.slicesel.toNat 0 2 + s.tenant
  let w := tget (0, 0) s.sram.way k
  s.reading [.s a.toNat]
    (.next { s with sram := { s.sram with way := tset (0, 0) s.sram.way k ((s.sreg a.toNat).toNat % 2 ^ 16 &&& w.2, w.2) } }.advS)
/-- CSEL (R110). -/
def execCsel (a : BitVec 5) (s : State) : Out :=
  s.reading [.s a.toNat]
    (.next { s with ctl := { s.ctl with slicesel :=
      (s.ctl.slicesel &&& 0x18#64) ||| (s.sreg a.toNat &&& 0xFFFF0007#64) } }.advS)
/-- Occ of a slice and tenant (R104). -/
def State.occ (s : State) (n t : Nat) : Nat :=
  (s.sram.lines.filter (fun l => l.cluster = s.cluster && l.slice = n && l.tenant = t)).length
/-- The counter that CSTAT selects (R111). -/
def State.cstat (s : State) (v : Nat) : W64 :=
  if v < 0x10 then BitVec.ofNat 64 (s.occ (v / 4) (v % 4))
  else if v < 0x14 then tget 0 s.sram.hits (s.sliceKey (v % 4))
  else if v < 0x18 then tget 0 s.sram.misses (s.sliceKey (v % 4))
  else if v = 0x20 then tget 0 s.sram.bcstall s.cluster
  else 0
/-- CSTAT (R110, R111). -/
def execCstat (d a : BitVec 5) (s : State) : Out :=
  s.reading [.s a.toNat] (.next (s.wrS d.toNat (s.cstat (s.namedBank a)) 1).advS)
/-- FIFOST of a bank key as a dword (R105); 0 where the bank heads none. -/
def State.fifostAt (s : State) (k : Nat) : Nat :=
  let f := tget ⟨0, 0, 0⟩ s.sram.fifo k
  if (s.cfgOf k).mode = 3 && (s.cfgOf k).fifoHead then
    f.count + 2 ^ 16 * (256 * ((s.cfgOf k).fifoSpan + 1)) + 2 ^ 32 * f.head + 2 ^ 48 * f.tail
  else 0
/-- FIFOST of a bank of the core's cluster (R105). -/
def State.fifost (s : State) (b : Nat) : Nat := s.fifostAt (s.bankKey b)
/-- FSTAT (R110). -/
def execFstat (d a : BitVec 5) (s : State) : Out :=
  s.reading [.s a.toNat] (.next (s.wrS d.toNat (BitVec.ofNat 64 (s.fifost (s.namedBank a))) 1).advS)
/-- FRESET (R108, R110): the FIFO is empty 257 cycles on. Its grant and world checks look at the named head bank alone and come before
the test of the mode; R110 gives neither the banks nor that order (DESIGN CHOICE, log entry 108). -/
def execFreset (a : BitVec 5) (s : State) : Out :=
  let b := s.namedBank a
  let c := s.bank b
  s.reading [.s a.toNat]
    (if c.launchTag ≠ s.ctl.launchNo then s.trapS 0x090
     else if c.worldTag ≠ s.ctl.world then s.trapS 0x092
     else if c.mode ≠ 3 || !c.fifoHead then s.trapS 0x08F
     else .next (s.pushPend (s.now + 257) .s (.fifo (s.bankKey b))).advS)

/-! ### The object table and its caches (R74) -/

/-- What the ports hold after an invalidation of a scope: 0 an object, 1 a key slot, 2 all. -/
def MainMem.invalidated (m : MainMem) (scope target : Nat) : MainMem :=
  let hit (id : Nat) : Bool :=
    if scope = 0 then id = target
    else if scope = 1 then
      (match tget none m.port id with | some e => e.keySlot = target | none => false) ||
      (match tget none m.obj id with | some e => e.keySlot = target | none => false)
    else true
  let ids := m.obj.map Prod.fst ++ m.port.map Prod.fst
  { m with port := (ids.filter hit).foldl (fun t id => tset none t id (tget none m.obj id)) m.port }
/-- MPOTINV starts an invalidation; while one runs the register is busy. -/
def State.startInv (s : State) (scope target : Nat) : State :=
  if s.mem.inv.isSome then s else { s with mem := { s.mem with inv := some (scope, target) } }
/-- INVALIDATE_OBJECT (R74). -/
def execInvalidateObject (obj : Nat) (s : State) : Out := .next (s.startInv 0 obj)
/-- INVALIDATE_KEYSLOT (R74). -/
def execInvalidateKeyslot (slot : Nat) (s : State) : Out := .next (s.startInv 1 slot)
/-- INVALIDATE_ALL (R74). -/
def execInvalidateAll (s : State) : Out := .next (s.startInv 2 0)
/-- INVALIDATION_COMPLETE (R74): no port translates through a removed entry any more. -/
def execInvalidationComplete (s : State) : Out :=
  match s.mem.inv with
  | some (sc, t) => .next { s with mem := { s.mem.invalidated sc t with inv := none } }
  | none => .next s
/-- Write an entry where the table holds it; the ports follow at the next invalidation (R74). -/
def State.writeEntry (s : State) (id : Nat) (e : Option ObjEntry) : State :=
  { s with mem := { s.mem with obj := tset none s.mem.obj id e } }
/-- Write an entry and invalidate it: it takes effect at once. -/
def State.setEntry (s : State) (id : Nat) (e : Option ObjEntry) : State :=
  { s with mem := { s.mem with obj := tset none s.mem.obj id e, port := tset none s.mem.port id e } }
/-- MPOTBASE names another place in HBM4 for the object table (R71): entry i lies at the base plus 64 i. What stands at the present
base stays there, and what stands at the new one is the table. -/
def MainMem.rebase (m : MainMem) (b : W64) : MainMem :=
  let old := m.otBase.toNat / 64
  let new := b.toNat / 64
  let all := m.obj.foldl (fun (t : Table (Option ObjEntry)) x => tset none t (old + x.1) x.2) m.ots
  let here (x : Nat × Option ObjEntry) : Bool := new ≤ x.1 && x.1 < new + 2 ^ 24
  { m with otBase := b, obj := (all.filter here).map (fun x => (x.1 - new, x.2)), ots := all.filter (fun x => !here x) }
/-- Is an entry FREE: by its State, or by a Kind or State that R71 makes so? -/
def freeEntry (e : ObjEntry) : Bool := e.state = 0 || 3 < e.state || 2 < e.kind
/-- OBJECT_TABLE_WRITE (R74): with an entry that makes it FREE the object's life is over, and with it its binding (R413). -/
def execObjectTableWrite (obj : Nat) (e : ObjEntry) (s : State) : Out :=
  let t := s.writeEntry obj (some e)
  .next (if freeEntry e then { t with mem := { t.mem with bound := tset none t.mem.bound obj none } } else t)

/-! ### Bolts (R86 to R91) -/

/-- The pool of an interface. -/
def State.pool (s : State) (vi : Nat) : Pool := tget .reset s.mem.pools vi
/-- Write the pool of an interface. -/
def State.setPool (s : State) (vi : Nat) (p : Pool) : State :=
  { s with mem := { s.mem with pools := tset .reset s.mem.pools vi p } }
/-- A new bolt joins the lease of the running launch (R87). -/
def State.joinLease (s : State) (id : Nat) : State :=
  { s with fw := { s.fw with launches := s.fw.launches.map (fun l =>
    if l.no = s.ctl.launchNo && l.vi = s.ctl.vi then { l with bolts := l.bolts ++ [id] } else l) } }
/-- BOLTNEW (R87): every check precedes every change. -/
def execBoltnew (d : BitVec 4) (a : BitVec 5) (s : State) : Out :=
  let v := (s.sreg a.toNat).toNat
  let z := bitsOf v 0 3
  let tier := bitsOf v 3 3
  let p := s.pool s.ctl.vi
  s.reading [.s a.toNat]
    (if v / 64 ≠ 0 || 5 < z || 1 < tier then s.trapS 0x08B
     else if tier = 1 && !s.mem.xk4m then s.trapS 0x087
     else match p.ids, p.slots with
       | id :: ids, ks :: slots =>
         let e : ObjEntry := ⟨2, 2, s.ctl.vi, false, 0x47, 1, ks, 0, 0, z, tier, [], 0⟩
         let m := { s.mem with keySerial := s.mem.keySerial + 1, keySlot := tset 0 s.mem.keySlot ks (s.mem.keySerial + 1) }
         let t := (({ s with mem := m }.setPool s.ctl.vi { p with ids := ids, slots := slots }).setEntry id (some e)).joinLease id
         .next (t.wrC d.toNat (mkCap id 0x47 0 0) 1).advS
       | _, _ => s.trapS 0x089)
/-- The checks that BOLTGROW and CUT share (R67 steps 1 to 6, so no size, R88, R89): the entry, or a code. -/
def State.boltCheck (s : State) (k : Cap) : Except Nat ObjEntry :=
  match checkCap k rOW (capLower k) 0 with
  | some c => .error c
  | none =>
    if isSpad k then .error 0x080
    else
      let e := s.entry (capObj k)
      match checkLease k s.ctl.vi s.ctl.world e with
      | some c => .error c
      | none => (match e with
        | some e => if e.kind = 2 then .ok e else .error 0x08A
        | none => .error 0x083)
/-- The segments that BOLTGROW appends (R88). -/
def grownSegs (z tier unit : Nat) : List Nat → List Seg
  | [] => []
  | b :: t => ⟨unit, z, tier, false, true, b, 0⟩ :: grownSegs z tier (unit + pageBytes z / 4096) t
/-- BOLTGROW (R88). -/
def execBoltgrow (d a : BitVec 4) (b : BitVec 5) (s : State) : Out :=
  let k := s.creg a.toNat
  let n := (s.sreg b.toNat).toNat
  s.reading [.c a.toNat, .s b.toNat]
    (match s.boltCheck k with
     | .error c => s.trapAcc c k (capLower k)
     | .ok e =>
       let p := s.pool s.ctl.vi
       let key := pageKey e.boltTier e.boltPage
       let free := tget [] p.pages key
       if n = 0 || 65536 < n || 2 ^ 48 < e.size + n * pageBytes e.boltPage then s.trapS 0x08B
       else if free.length < n then s.trapS 0x089
       else
         let size := e.size + n * pageBytes e.boltPage
         let e' := { e with
           size := size, segs := e.segs ++ grownSegs e.boltPage e.boltTier (e.size / 4096) (free.take n) }
         let t := (s.setPool s.ctl.vi { p with pages := tset [] p.pages key (free.drop n) }).setEntry (capObj k) (some e')
         .next (t.wrC d.toNat (mkCap (capObj k) (capRights k) (capLower k) size) 1).advS)
/-- The kill of a bolt (R89 step 1, R90): its entry is CUT, its key slot zero, its migrations abandoned; its pages and slot wait
for their release. -/
def State.killBolt (s : State) (id : Nat) (e : ObjEntry) : State :=
  let migs := s.cx.migs.filter (fun x => x.obj = id)
  let pages := e.segs.map (fun g => (pageKey g.tier g.pageSize, g.base)) ++
    migs.map (fun x => (pageKey x.tier e.boltPage, x.base))
  let key := tget 0 s.mem.keySlot e.keySlot
  let t := s.setEntry id (some { e with state := 3 })
  let u := migs.foldl (fun (s : State) x => s.cDoneNow x.cmd [.sram x.addr (leBytes 4 3)]) t
  { u with
    cx := { u.cx with migs := u.cx.migs.filter (fun x => x.obj ≠ id) }
    mem := { u.mem with
      keySlot := tset 0 u.mem.keySlot e.keySlot 0
      rels := u.mem.rels ++ [⟨id, e.ownerVI, e.keySlot, pages, s.now + s.delay % 4096, s.now + 4096, key⟩] } }
/-- CUT (R89): after every access of the core issued before it, in every class. -/
def execCut (a : BitVec 4) (s : State) : Out :=
  let go (s : State) (k : Cap) (at_ : Nat) (hold : State) : Out :=
    if s.drained (2 ^ 16 - 1) at_ then
      (match s.boltCheck k with
       | .error c => s.trapAcc c k (capLower k)
       | .ok e => .next (s.killBolt (capObj k) e).popDelay.advS)
    else .next hold
  match s.sx.blk with
  | some x => go s x.cap x.at_ s.retry
  | none =>
    let k := s.creg a.toNat
    s.reading [.c a.toNat]
      (match s.boltCheck k with
       | .error c => s.trapAcc c k (capLower k)
       | .ok _ =>
         let s := s.flushComb (2 ^ 16 - 1)
         go s k s.now (s.block { holding 0 0 0 0 k s.now s.now with cut := true }))
/-- Is an access to an object still under way that its port translated earlier (R89 step 2): a command of C that holds one of its
segments, fabric data granted for it, an access of a shuttle at memory? -/
def State.draining (s : State) (id : Nat) : Bool :=
  let at_ (d : FabData) : Bool := (!isSpad d.cap && capObj d.cap = id) || (d.form = 2 && !isSpad d.from_ && capObj d.from_ = id)
  s.cc.cmds.any (fun c => c.busy.any (fun b => b.1 = id)) || s.fab.held.any at_ ||
    s.fab.landing.any (fun l => at_ l.data) || s.fab.leaving.any (fun l => at_ l.data) ||
    s.sh.eng.any (fun v => v.acc.any (fun x => x.stage = 1 && capObj x.cap = id))
/-- A release that takes place now: its drain has ended, or 4,096 cycles have passed since the kill completion (R89 steps 2, 3). -/
def State.relReady (s : State) (r : BoltRel) : Bool := (r.at_ ≤ s.now && !s.draining r.id) || r.last ≤ s.now
/-- The release of a cut bolt (R89 step 3): pages, unscrubbed, and key slot go back to the pool, whose lists rise (R472); a page of
host swap is the host's again (R91). The cut entry keeps its kind, state, owner and world alone (R473). -/
def State.releaseBolt (s : State) (r : BoltRel) : State :=
  let p := s.pool r.vi
  let pages := (r.pages.filter (fun x => x.1 / 8 < 2)).foldl
    (fun (t : Table (List Nat)) x => tset [] t x.1 (putUp x.2 (tget [] t x.1))) p.pages
  let t := { s with mem := { s.mem with rels := s.mem.rels.filter (fun x => x ≠ r) } }.setPool r.vi
    { p with slots := putUp r.slot p.slots, pages := pages }
  t.setEntry r.id ((tget none t.mem.obj r.id).map (fun e =>
    { e with pin := false, maxRights := 0, leaseCount := 0, keySlot := 0, size := 0, segs := [], segList := 0 }))
/-- BOLT_RELEASE (R89 step 3). -/
def execBoltRelease (s : State) : Out :=
  match s.mem.rels.find? s.relReady with
  | none => .next s
  | some r => .next (s.releaseBolt r)

end Sys2Proof.Machine
end

