-- ==== Sys2Proof/Machine/Fabric.lean ====
section
/-! DEFINITION. Fabric forms of C, their requests, grants, data and matches, timed pieces and reductions, and the links
(R140 to R142, R150 to R164, R417). -/

namespace Sys2Proof.Machine

/-! ### Untimed forms (R140, R141) -/

/-- Does a record name an operation and a wire type of PUTRED (R124)? -/
def Shape.redKind (r : Shape) : Bool := r.ok && r.ta < 3 && (r.tb = 3 || r.tb = 9 || r.tb = 8)
/-- Is a record fit for an untimed PUTRED (R124, R141)? -/
def Shape.redOk (r : Shape) : Bool := r.redKind && r.bytes = tySize r.tb
/-- The target of a call word: group, logical core, counter index; or the code that refuses it (R140). -/
def State.callTarget (s : State) (w : Nat) : Except Nat (Nat × Nat × Nat) :=
  let g := bitsOf w 17 8
  match tget none s.grp.table g with
  | none => .error 0x0C4
  | some x =>
    if !x.members.contains s.ctl.lcore || w / 2 ^ 37 ≠ 0 then .error 0x0C4
    else match x.members[bitsOf w 0 17]? with
      | none => .error 0x0C4
      | some t => if (s.counterOf s.ctl.vi (bitsOf w 25 12)).isNone then .error 0x0C5 else .ok (g, t, bitsOf w 25 12)
/-- The member that the call word of a timed form names: those forms touch no counter (R130). -/
def State.callMember (s : State) (w : Nat) : Option Nat :=
  match tget none s.grp.table (bitsOf w 17 8) with
  | none => none
  | some x => if !x.members.contains s.ctl.lcore || w / 2 ^ 37 ≠ 0 then none else x.members[bitsOf w 0 17]?
/-- A fabric form as the current operands give it: form, local and remote capability, local and remote base, call word. -/
structure Ask where
  form : Nat
  near : Cap
  far : Cap
  nearBase : Int
  farBase : Int
  word : Nat
  q : Shape
  deriving DecidableEq, Repr
/-- The operands of PUT and PUTRED. The element of a PUTRED in a run is 64 bytes or more, of several values of the wire type: what
R141 asks of ElemLog it asks of the untimed form (R125, R130; DEDUCED, log entry 54). -/
def State.askPut (s : State) (form : Nat) (d a r : BitVec 4) (x y : BitVec 5) : Except CStop Ask :=
  match s.shapeFor r.toNat (if form = 0 then Shape.plain else if s.timed then Shape.redKind else Shape.redOk) with
  | .error e => .error e
  | .ok q => .ok ⟨form, s.creg a.toNat, s.creg d.toNat, s.base y, s.base x, (s.sreg (x.toNat + 1)).toNat, q⟩
/-- The operands of GET. -/
def State.askGet (s : State) (d a r : BitVec 4) (x y : BitVec 5) : Except CStop Ask :=
  match s.shapeFor r.toNat Shape.plain with
  | .error e => .error e
  | .ok q => .ok ⟨2, s.creg d.toNat, s.creg a.toNat, s.base x, s.base y, (s.sreg (y.toNat + 1)).toNat, q⟩
/-- The hulls of an ask, near then far. -/
def Ask.hulls (k : Ask) : (Int × Int) × (Int × Int) :=
  if k.form = 2 then (k.q.hull k.q.ds k.nearBase k.q.bytes, k.q.hull k.q.ss k.farBase k.q.bytes)
  else (k.q.hull k.q.ss k.nearBase k.q.bytes, k.q.hull k.q.ds k.farBase k.q.bytes)
/-- Rights that the far side needs. -/
def farNeed (form : Nat) : Nat := if form = 0 then rWR else if form = 1 then rRD ||| rWR else rRD
/-- Is a request a second PUTRED of one group and call number of one launch to one member (R161)? A sender that asks anew, having been refused or
cancelled since, is no second one. -/
def State.twice (s : State) (form group call target sender launch vi : Nat) : Bool :=
  form = 1 && s.fab.served.any (fun x =>
    x.form = 1 && x.vi = vi && x.launch = launch && x.group = group && x.call = call && x.target = target && x.sender ≠ sender)
/-- Does a form that reads its far side meet a word of a cluster's scratchpad with a write pending there (R107, R407)? -/
def State.farShadow (s : State) (form cluster a n : Nat) : Bool :=
  form ≠ 0 && tget false s.sram.pendEn cluster &&
    (if cluster = s.cluster then s.pendingSpad a n else s.pendingFab cluster a n)
/-- The check of a request at this package, in the cluster of the target (R107, R141 step 2, R161). -/
def State.farCheck (s : State) (form group call target sender launch cluster : Nat) (k : Cap) (lo : Int) (n vi world : Nat) : Chk :=
  match checkCap k (farNeed form) lo n with
  | some c => .bad c
  | none =>
    let r := if isSpad k then
        (if 2 ^ 24 < lo.toNat + n then Chk.bad 0x08F
         else if (List.range ((lo.toNat + n - 1) / 65536 - lo.toNat / 65536 + 1)).any (fun i =>
            let b := s.cfgOf (256 * cluster + lo.toNat / 65536 + i)
            b.mode ≠ 1 || b.changing) then Chk.bad 0x08F
         else if (List.range ((lo.toNat + n - 1) / 65536 - lo.toNat / 65536 + 1)).any (fun i =>
            (s.cfgOf (256 * cluster + lo.toNat / 65536 + i)).worldTag ≠ world) then .bad 0x092
         else if s.farShadow form cluster lo.toNat n then .bad 0x002
         else .ok)
      else s.checkObj k lo.toNat n vi world
    if r = .ok && s.twice form group call target sender launch vi then .bad 0x101 else r
/-- The call number that the next form on a group takes (R140). -/
def State.nextCall (s : State) (g : Nat) : Nat := (tget 0 s.cx.calls g + 1).toNat
/-- The data of a fabric form: the bytes of a PUT or PUTRED from an object as they stand at its issue (log entry 10); those of the
scratchpad are still to be read (R95). -/
def State.callData (s : State) (k : Ask) (g n t ctr : Nat) : FabData :=
  let walk := k.q.walk k.q.ss k.q.ds
  { form := k.form, group := g, call := n, counter := ctr, cap := if k.form = 2 then k.near else k.far, op := k.q.ta, wire := k.q.tb
    elems := walk.map (fun w =>
      if k.form = 2 then ((k.nearBase + w.2).toNat, List.replicate k.q.bytes (0 : Byte))
      else ((k.farBase + w.2).toNat, (s.sourceOf k.near 0 (k.nearBase + w.1).toNat k.q.bytes).1))
    target := t, sender := s.ctl.lcore, from_ := k.far, srcs := walk.map (fun w => (k.farBase + w.1).toNat), epoch := s.sx.epoch,
    vi := s.ctl.vi, world := s.ctl.world, launch := s.ctl.launchNo }
/-- Why the local bytes of a PUT or PUTRED may not be read (R65, R107). -/
def State.nearStop (s : State) (k : Ask) : Option CStop :=
  if k.form = 2 then none
  else (k.q.walk k.q.ss k.q.ds).findSome? (fun w => s.partStop k.near (k.nearBase + w.1).toNat k.q.bytes)
/-- The rows of its scratchpad that a PUT or PUTRED reads, as C's requests at their banks (R94, R95). -/
def State.nearReads (s : State) (id : Nat) (k : Ask) : List BItem :=
  if k.form = 2 || !isSpad k.near then []
  else
    let walk := k.q.walk k.q.ss k.q.ds
    s.rowReads 1 (.cmd id) (((List.range walk.length).zip walk).map (fun w => ((w.1, (k.nearBase + w.2.1).toNat, k.q.bytes) : Nat × Nat × Nat)))
/-- The data of a fabric form leave, for their match at this package or by the links to another (R141 step 4). -/
def State.sendCall (s : State) (d : FabData) : State :=
  if s.localCore d.target then { s with fab := { s.fab with held := s.fab.held ++ [d] } }
  else ({ s with fab := { s.fab with sent := s.fab.sent ++ [d] } }).sendTo (s.packageOf d.target) (fabLoads d)
/-- The data of one form leave once its source has been read (R62, R95). -/
def State.leave1 (s : State) (x : Leaving) : State :=
  if s.now < x.at_ || s.waitingFor (.cmd x.cmd) then s
  else
    let mine := s.sram.got.filter (fun g => g.1 = .cmd x.cmd)
    let el := ((List.range x.data.elems.length).zip x.data.elems).map (fun ie =>
      (ie.2.1, (mine.filter (fun g => g.2.1 = ie.1)).foldl (fun (b : List Byte) g => patch g.2.2.1 g.2.2.2 b) ie.2.2))
    ({ s with fab := { s.fab with leaving := s.fab.leaving.filter (fun y => y.cmd ≠ x.cmd) } }.dropAsks (.cmd x.cmd)).sendCall
      { x.data with elems := el }
/-- All data of this core that may leave now. -/
def State.leaveTurn (s : State) : State := s.fab.leaving.foldl State.leave1 s
/-- The segments that a form counts (R81): those of its near side, and those of its far side where that is an object of this
package. -/
def State.callSegs (s : State) (k : Ask) (t : Nat) : List (Nat × Nat) :=
  onceEach (s.segsOf k.near k.hulls.1 ++ (if s.localCore t then s.segsOf k.far k.hulls.2 else []))
/-- A granted form issues (R81, R118, R140, R141 steps 3 and 4): its call number, its command with its class, and its data, which
leave when its source has been read. -/
def State.issueCall (s : State) (c : BitVec 4) (k : Ask) (g t ctr : Nat) : Out :=
  let n := s.nextCall g
  match s.nearStop k with
  | some e => s.cHalt e
  | none =>
    let d := s.callData k g n t ctr
    let busy := s.callSegs k t
    let slow : Bool := k.form ≠ 2 && !isSpad k.near
    let at_ := if slow then s.now + s.sideLat k.near k.hulls.1 false + s.delay else s.now
    let u := (s.raiseBusy busy).unask
    let u := { u with cx := { u.cx with calls := tset 0 u.cx.calls g (BitVec.ofNat 32 n) } }
    let r := (if slow then u.popDelay else u).issued .c 1 { Fin.open with
      once := decide (k.form = 1), busy := busy, call := some (g, n), cls := some c.toNat
      src := if k.form = 2 then k.far else k.near, dst := if k.form = 2 then k.near else k.far }
    let v : State := { r.1 with fab := { r.1.fab with leaving := r.1.fab.leaving ++ [(⟨r.2, at_, d⟩ : Leaving)] } }
    .next (v.enqueue (s.nearReads r.2 k)).leaveTurn
/-- An untimed fabric form up to its issue (R127, R140, R141): with no path of UP links it is held back (R160). -/
def State.fabricForm (s : State) (c : BitVec 4) (k : Except CStop Ask) : Out :=
  match k with
  | .error e => s.cHalt e
  | .ok k =>
    match s.callTarget k.word with
    | .error e => s.cHalt (.code e 0 (bitsOf k.word 25 12 : Nat))
    | .ok (g, t, ctr) =>
      if s.callBusy g then .next (s.again .c)
      else match s.side k.near (if k.form = 2 then rWR else rRD) k.hulls.1 with
        | .error e => s.cHalt e
        | .ok _ =>
          if overlap k.near k.far k.hulls.1 k.hulls.2 then
            s.cHalt (if k.form = 2 then .code 0x0C3 k.near k.hulls.1.1 else .code 0x0C3 k.far k.hulls.2.1)
          else if s.cx.granted then s.issueCall c k g t ctr
          else if s.cx.arm.isSome || s.cx.asked || !s.reaches (s.packageOf t) then .next (s.again .c)
          else
            let r : FabReq := ⟨k.form, s.ctl.vi, s.ctl.world, g, s.nextCall g, t, s.ctl.lcore, k.far, k.hulls.2.1.toNat,
              (k.hulls.2.2 - k.hulls.2.1).toNat, ctr, s.ctl.launchNo⟩
            let u := if s.localCore t then s else s.sendTo (s.packageOf t) [.req r]
            .next ({ u with
              cx := { u.cx with asked := true }
              fab := if s.localCore t then u.fab else { u.fab with asks := u.fab.asks ++ [r] } }.again .c)

/-! ### Timed pieces that leave (R130 to R132, R151) -/

/-- The parts of a timed piece: source, destination, bytes, wrapped. A PUTRED's piece goes value by value of its wire type, each
placed by its first byte (R130; DESIGN CHOICE, log entry 78). -/
def fabParts (form wire : Nat) (src dst : Cap) (p : Int × Int) : List (Nat × Nat × Nat × Bool) :=
  if form = 1 then
    let z := tySize wire
    (List.range (64 / z)).map (fun i =>
      let x := wrapOff src (p.1 + (z * i : Nat))
      let y := wrapOff dst (p.2 + (z * i : Nat))
      (x.1, y.1, z, x.2 || y.2))
  else parts src dst 66 p.1 p.2 64
/-- Is it the same piece, whatever has arrived of it: due at one cycle by one link and lane? -/
def samePiece (a b : Piece) : Bool :=
  a.nominal = b.nominal && a.link = b.link && a.lane = b.lane && a.cluster = b.cluster && a.red = b.red
/-- One part of a timed fabric piece whose slot falls in cycle c (R131, R151): what it does on this package, what it sends, and the
announcement of what comes back. One that has lost its slot only reads (R132). -/
def State.fabricPart (s : State) (k : Ask) (t c slot : Nat) (lost : Bool) (x : Nat × Nat × Nat × Bool) : State :=
  let pkg := s.packageOf t
  let rt := s.route pkg
  let hops := rt.2.length
  let nom := c + 8 + 24 * hops
  let first := rt.2.headD 6
  let lane := slot % 4
  let s := if x.2.2.2 then s.stickyC bCWrap else s
  let p : Piece := ⟨nom, rt.1, match rt.2.getLast? with | some l => l ^^^ 1 | none => 6, lane, decide (k.form = 1), k.q.ta, k.q.tb, 0,
    x.2.1, none, false, t, s.ctl.lcore, 0, s.run.group, none, [], rt.2.tail, 0⟩
  let add (s : State) (r : TReq) : State :=
    { s with sram := { s.sram with timed := s.sram.timed ++ [r], order := s.sram.order + 1 } }
  if lost then (if k.form = 2 then s else s.pushReq c (16 * s.coreJ + 1) x.1 .touch)
  else if k.form ≠ 2 then s.pushReq c (16 * s.coreJ + 1) x.1 (.send x.2.2.1 pkg t first p)
  else if s.localCore t then
    add s ⟨nom, 128, 24 + lane, 2 ^ 24 * ((s.boundCore t).getD 0 / 8) + x.1 % 2 ^ 24, false,
      .move x.2.2.1 (c + 16) (.sram [(s.spadKey x.2.1, BitVec.ofNat 8 lane)]) 128, s.now, true⟩
  else
    let home := c + 2 * (8 + 24 * hops)
    let ret := rt.2.reverse.map (fun l => l ^^^ 1)
    let back : Piece := { p with
      nominal := home, link := first, cluster := s.cluster, core := s.ctl.lcore, no := s.ctl.launchNo, path := [] }
    let u := if s.fab.pieces.any (fun x => samePiece x back) then s else { s with fab := { s.fab with pieces := s.fab.pieces ++ [back] } }
    add u ⟨c, 16 * s.coreJ + 1, s.sram.order, 0, true, .ask pkg t first { p with
      addr := x.1, data := some (List.replicate x.2.2.1 0), get := some (s.fab.coord, s.ctl.lcore, x.2.1, home, ret) }, s.now, true⟩
/-- A timed fabric form (R130, R131). -/
def State.timedFabric (s : State) (k : Except CStop Ask) : Out :=
  match k with
  | .error _ => s.done .c 1 .open
  | .ok k =>
    match s.callMember k.word with
    | none => s.done .c 1 .open
    | some t =>
      let src := if k.form = 2 then k.far else k.near
      let dst := if k.form = 2 then k.near else k.far
      let so := if k.form = 2 then k.farBase else k.nearBase
      let do_ := if k.form = 2 then k.nearBase else k.farBase
      let ps := pieces k.q.bytes ((k.q.walk k.q.ss k.q.ds).map (fun w => (so + w.1, do_ + w.2)))
      let slots := k.q.slots 1024 ps.length
      let cs := (pieceCycles 4 none s.now slots).zip slots
      let res := (s.route (s.packageOf t)).2.headD 6
      ((cs.zip ps).foldl (fun (s : State) x =>
        let lost := s.slotLost x.1.1 res x.1.2
        (fabParts k.form k.q.tb src dst x.2).foldl (fun (s : State) y => s.fabricPart k t x.1.1 x.1.2 lost y)
          (if lost then s.collide x.1.1 else s)) s).done .c 1 .open
/-- PUT (R141). -/
def execPut (d a r c : BitVec 4) (x y : BitVec 5) (s : State) : Out :=
  if s.timed then s.timedFabric (s.askPut 0 d a r x y)
  else s.cShadow [.c d.toNat, .c a.toNat, .s x.toNat, .s (x.toNat + 1), .s y.toNat] (s.fabricForm c (s.askPut 0 d a r x y))
/-- PUTRED (R141, R161). -/
def execPutred (d a r c : BitVec 4) (x y : BitVec 5) (s : State) : Out :=
  if s.timed then s.timedFabric (s.askPut 1 d a r x y)
  else s.cShadow [.c d.toNat, .c a.toNat, .s x.toNat, .s (x.toNat + 1), .s y.toNat] (s.fabricForm c (s.askPut 1 d a r x y))
/-- GET (R141). -/
def execGet (d a r c : BitVec 4) (x y : BitVec 5) (s : State) : Out :=
  if s.timed then s.timedFabric (s.askGet d a r x y)
  else s.cShadow [.c d.toNat, .c a.toNat, .s x.toNat, .s y.toNat, .s (y.toNat + 1)] (s.fabricForm c (s.askGet d a r x y))
/-- CARM (R142). -/
def execCarm (x y : BitVec 5) (s : State) : Out :=
  s.cShadow [.s x.toNat, .s y.toNat]
    (match s.counterIdx (s.sreg x.toNat) with
     | none => .next (s.fault 3 0x0C5 0 (s.sreg x.toNat) 0)
     | some _ => { s with cx := { s.cx with arm := some ((s.sreg x.toNat).toNat, s.sreg y.toNat) } }.done .c 1 (.at s.now))
/-- CRAISE (R142). -/
def execCraise (x y : BitVec 5) (s : State) : Out :=
  s.cShadow [.s x.toNat, .s y.toNat]
    (match s.counterIdx (s.sreg x.toNat) with
     | none => .next (s.fault 3 0x0C5 0 (s.sreg x.toNat) 0)
     | some i => (s.setCounter i (s.counter i + s.sreg y.toNat)).done .c 1 { Fin.at s.now with once := true })

/-- The fabric form that C's current entry holds. -/
def State.curAsk (s : State) : Option Ask :=
  match s.cc.cur with
  | none => none
  | some en =>
    match decodeFor .c en.word.toNat with
    | .ok (.put d a r _ x y) => (s.askPut 0 d a r x y).toOption
    | .ok (.putred d a r _ x y) => (s.askPut 1 d a r x y).toOption
    | .ok (.get d a r _ x y) => (s.askGet d a r x y).toOption
    | _ => none
/-- Has the armed counter reached its threshold, with a fabric form ready behind it (R142)? -/
def State.armReady (s : State) : Bool :=
  match s.cx.arm, s.cc.cur with
  | some (i, v), some en =>
    s.curAsk.isSome && en.ready && !en.skip &&
      (match s.counterOf s.ctl.vi i with | some c => v.toNat ≤ (s.counter c).toNat | none => false)
  | _, _ => false
/-- ARM_MET (R141 step 1, R142): the arm is consumed and the form goes on. -/
def execArmMet (s : State) : Out :=
  if s.armReady then .next { s with cx := { s.cx with arm := none }, cc := { s.cc with next := Nat.min s.cc.next s.now } }
  else .next s
/-- The answer of this package to the request of its own core; none where the request is not under way or not for it. -/
def State.ownGrant (s : State) : Option (Ask × Chk × Nat × Nat) :=
  if !s.cx.asked || s.cx.granted then none
  else match s.curAsk with
    | none => none
    | some k =>
      match s.callTarget k.word with
      | .error _ => none
      | .ok (g, t, _) =>
        if !s.localCore t then none
        else
          let h := k.hulls.2
          some (k, s.farCheck k.form g (s.nextCall g) t s.ctl.lcore s.ctl.launchNo ((s.boundCore t).getD 0 / 8) k.far h.1 (h.2 - h.1).toNat s.ctl.vi
            s.ctl.world, g, t)
/-- C's fabric form is refused: it is unissued (R141 step 2). -/
def State.refuseCall (s : State) (code : Nat) : State :=
  let k := match s.curAsk with | some k => (k.far, k.hulls.2.1) | none => ((0 : Cap), (0 : Int))
  s.unask.fault 3 code k.1 (BitVec.ofInt 64 k.2) 0
/-- May this package's own answer to its core's request be given now: granted or refused; or the request parks at the port, once,
where that has room (R83)? -/
def State.grantDue (s : State) : Bool :=
  !s.cx.parked && (match s.ownGrant with
    | some (_, .park q, _, _) => !s.portFull q
    | some _ => true
    | none => false)
/-- FABRIC_GRANT (R141 step 3): this package's own answer, or the grant that came back. -/
def execFabricGrant (s : State) : Out :=
  if !s.cx.asked || s.cx.granted then .next s
  else match s.ownGrant with
    | some (k, .ok, g, t) => .next { s with
        cx := { s.cx with granted := true }
        fab := { s.fab with served := s.fab.served ++
          [⟨k.form, s.ctl.vi, s.ctl.world, g, s.nextCall g, t, s.ctl.lcore, k.far, 0, 0, 0, s.ctl.launchNo⟩] } }
    | some (_, .bad c, _, _) => .next (s.refuseCall c)
    | some (_, .park q, _, _) =>
      if s.cx.parked || s.portFull q then .next s
      else
        let t := s.park .ask q
        .next { t with cx := { t.cx with parked := true } }
    | none => .next { s with cx := { s.cx with granted := true } }
/-- FABRIC_REFUSAL (R141 step 2). -/
def execFabricRefusal (code : Nat) (s : State) : Out :=
  if s.cx.asked && !s.cx.granted then .next (s.refuseCall code) else .next s
/-- The check of a request that has arrived (R141 step 2). -/
def State.reqCheck (s : State) (r : FabReq) : Chk :=
  s.farCheck r.form r.group r.call r.target r.sender r.launch ((s.boundIn r.launch r.target).getD 0 / 8) r.cap r.lo r.len r.vi r.world
/-- Is a logical core of a launch on this package? -/
def State.hereCore (s : State) (launch core : Nat) : Bool :=
  if launch = s.ctl.launchNo then s.localCore core else (s.boundIn launch core).isSome
/-- The answer to a request goes back to its sender, where that core is on another package (R141 steps 2 and 3). -/
def State.tellReq (s : State) (r : FabReq) (code : Option Nat) : State :=
  if r.launch = s.ctl.launchNo && !s.localCore r.sender then s.sendTo (s.packageOf r.sender) [.answer r code] else s
/-- A request is granted. -/
def State.grantReq (s : State) (r : FabReq) : State := { s with fab := { s.fab with served := s.fab.served ++ [r] } }.tellReq r none
/-- A request is answered as its check finds it: granted, refused, or parked at the port, which holds it back where it has no room
(R75, R83, R141 step 2). -/
def State.answerReq (s : State) (r : FabReq) (c : Chk) : State :=
  match c with
  | .ok => s.grantReq r
  | .bad e => s.tellReq r (some e)
  | .park q => if s.portFull q then { s with fab := { s.fab with back := s.fab.back ++ [r] } } else s.park (.req r) q
/-- The requests held back at their ports come to them again (R83). -/
def State.backTurn (s : State) : State :=
  s.fab.back.foldl (fun (t : State) r => t.answerReq r (t.reqCheck r)) { s with fab := { s.fab with back := [] } }
/-- FABRIC_REQUEST_ARRIVAL (R141 step 2, R161): checked against this package's state as it arrives; one for a core of another package
goes on by the default route (R160). -/
def execFabricRequestArrival (r : FabReq) (s : State) : Out :=
  if !s.hereCore r.launch r.target && r.launch = s.ctl.launchNo then .next (s.sendTo (s.packageOf r.target) [.req r])
  else .next (s.answerReq r (s.reqCheck r))

/-- The order of a float for min and max: −0 below +0 (R163). -/
def redKey (f : Fmt) (x : Nat) : Int := if f.signBit ≤ x then -((x - f.signBit : Nat) : Int) - 1 else (x : Int)
/-- One combine d := d op v (R163): the new value, and whether it overflowed. -/
def redCombine (op wire d v : Nat) : Nat × Bool :=
  if wire = 3 then
    let a := sgn d 64
    let b := sgn v 64
    let top : Int := 2 ^ 63 - 1
    let bot : Int := -(2 ^ 63)
    if op = 0 then
      if a = top || a = bot then (d, false)
      else if b = top || b = bot then (v, false)
      else if top < a + b then (lowBits top 64, true)
      else if a + b < bot then (lowBits bot 64, true)
      else (lowBits (a + b) 64, false)
    else if op = 1 then (if b < a then v else d, false)
    else (if a < b then v else d, false)
  else
    let f := tyFmt wire
    if op = 0 then
      let r := f.fadd 0 d v
      (r.1, r.2 &&& evOverflow ≠ 0)
    else if (f.decode d).isNan || (f.decode v).isNan then (f.canonNan, false)
    else if op = 1 then (if redKey f v < redKey f d then v else d, false)
    else (if redKey f d < redKey f v then v else d, false)
/-- Read bytes of a core's cluster or of an object. -/
def State.farRead (s : State) (k : Cap) (cluster o n : Nat) : List Byte :=
  if isSpad k then mreadN s.sram.bytes (2 ^ 24 * cluster + o % 2 ^ 24) n else s.objRead (capObj k) o n
/-- Write bytes to a core's cluster or to an object; a plain store has the core and epoch that the detector sees (R354). -/
def State.farWrite (s : State) (k : Cap) (cluster o : Nat) (b : List Byte) (plain : Option (Nat × Nat)) : State :=
  if isSpad k then
    { s with sram := { s.sram with bytes := mwriteN s.sram.bytes (2 ^ 24 * cluster + o % 2 ^ 24) b } }
  else match plain with
    | some (core, epoch) =>
      if core = s.ctl.lcore then s.applyWrite (.obj (capObj k) o b (some epoch))
      else if s.detects true (capObj k) then s.farStore core (capObj k) epoch (b.length / 128 + 2) o b
      else s.objWrite (capObj k) o b
    | none => s.objWrite (capObj k) o b
/-- The bytes at a scratchpad place of the router's combine, and RedOvf where one overflowed (R163). -/
def redPiece (op wire : Nat) : Nat → List Byte → List Byte → List Byte × Bool
  | 0, _, _ => ([], false)
  | n + 1, d, v =>
    let z := tySize wire
    if v.isEmpty then ([], false)
    else
      let r := redCombine op wire (leNat (d.take z)) (leNat (v.take z))
      let t := redPiece op wire n (d.drop z) (v.drop z)
      (leBytes z r.1 ++ t.1, r.2 || t.2)
/-- Is it data for this core? -/
def State.forMe (s : State) (d : FabData) : Bool := d.launch = s.ctl.launchNo && d.target = s.ctl.lcore
/-- Does fabric data go to or come from this core: RedOvf is its own (R163)? -/
def State.concerns (s : State) (d : FabData) : Bool := s.ownForm d || s.forMe d
/-- The elements of fabric data take effect in an object, up to one that meets a conflict; whether one of this core's form does (R141
step 5, R355, R398). -/
def State.fabElems (s : State) (d : FabData) : List (Nat × List Byte) → State × Bool
  | [] => (s, false)
  | e :: t =>
    if d.form = 1 then
      let r := redPiece d.op d.wire 16 (s.objRead (capObj d.cap) e.1 e.2.length) e.2
      let u := s.objWrite (capObj d.cap) e.1 r.1
      (if r.2 && u.concerns d then u.stickyC bRedOvf else u).fabElems d t
    else if s.ownForm d then
      let w : CWrite := .obj (capObj d.cap) e.1 e.2 (some d.epoch)
      if s.conflicts w then (s.applyWrite w, true) else (s.applyWrite w).fabElems d t
    else if d.launch = s.ctl.launchNo && s.detects true (capObj d.cap) then
      (s.farStore d.sender (capObj d.cap) d.epoch (e.2.length / 128 + 2) e.1 e.2).fabElems d t
    else (s.objWrite (capObj d.cap) e.1 e.2).fabElems d t
/-- The router's requests at the banks where fabric data lands in a scratchpad (R94, R95): number 128, a row at a time. -/
def State.fabWrites (s : State) (id : Nat) (d : FabData) : List BItem :=
  if !isSpad d.cap then []
  else d.elems.flatMap (fun (e : Nat × List Byte) => (rowsOf e.1 e.2.length).map (fun p =>
    let b := (e.2.drop p.1).take p.2.2
    (⟨128, 2 ^ 24 * s.fabCluster d + p.2.1 % 2 ^ 24, if d.form = 1 then .red d.op d.wire b (s.concerns d) else .write b, .fab id,
      some d.world⟩ : BItem)))
/-- Does a GET read on this package? -/
def State.fabLocal (s : State) (d : FabData) : Bool := d.form = 2 && s.hereCore d.launch d.target
/-- The source ranges of a GET, or the destination ranges of other data. -/
def fabRanges (src : Bool) (d : FabData) : List (Nat × Nat) :=
  if src then (d.srcs.zip d.elems).map (fun x => (x.1, x.2.2.length)) else d.elems.map (fun e => (e.1, e.2.length))
/-- The reads of such a GET at the target's banks (R95). -/
def State.fabReads (s : State) (id : Nat) (d : FabData) : List BItem :=
  if !isSpad d.from_ then []
  else ((List.range d.elems.length).zip (fabRanges true d)).flatMap (fun e =>
    (rowsOf e.2.1 e.2.2).map (fun (p : Nat × Nat × Nat) =>
      (⟨128, 2 ^ 24 * ((s.boundIn d.launch d.target).getD 0 / 8) + p.2.1 % 2 ^ 24, .read e.1 p.1 p.2.2, .fab id,
        some d.world⟩ : BItem)))
/-- The most of a figure over ranges. -/
def mostOf (f : Nat → Nat → Nat) (l : List (Nat × Nat)) : Nat := l.foldl (fun m x => Nat.max m (f x.1 x.2)) 0
/-- Least latency of the object bytes that fabric data writes, or first reads (R62). -/
def State.fabLat (s : State) (d : FabData) : Nat :=
  let to_ := fabRanges false d
  if s.fabLocal d then (if isSpad d.from_ then 0 else mostOf (s.readLatN (capObj d.from_)) (fabRanges true d) + s.delay)
  else if isSpad d.cap then 0
  else (if d.form = 1 then mostOf (s.readLatN (capObj d.cap)) to_ else 0) + mostOf (s.writeLatN (capObj d.cap)) to_ + s.delay
/-- Fabric data begins to take effect (R141 step 5): its requests come to their banks. -/
def State.fabEffect (s : State) (d : FabData) : State :=
  let id := s.fab.landNo + 1
  let far := s.fabLocal d
  let t := { s with fab := { s.fab with
    held := s.fab.held.filter (fun x => x ≠ d)
    landNo := id
    landing := s.fab.landing ++ [(⟨id, s.now + s.fabLat d, !far, d⟩ : Landing)] } }
  (if s.fabLat d = 0 then t else t.popDelay).enqueue (if far then s.fabReads id d else s.fabWrites id d)
/-- The elements of a GET once they have been read. -/
def State.fabRead (s : State) (l : Landing) : FabData :=
  let d := l.data
  let mine := s.sram.got.filter (fun g => g.1 = .fab l.id)
  let bytes (i : Nat) (e : (Nat × List Byte) × Nat) : List Byte :=
    if isSpad d.from_ then
      (mine.filter (fun g => g.2.1 = i)).foldl (fun (b : List Byte) g => patch g.2.2.1 g.2.2.2 b) e.1.2
    else s.objRead (capObj d.from_) e.2 e.1.2.length
  { d with elems := ((List.range d.elems.length).zip (d.elems.zip d.srcs)).map (fun x => (x.2.1.1, bytes x.1 x.2)) }
/-- The end of a fabric form at its counter (R141 step 6): this core's own form completes. -/
def State.callDone (s : State) (g n : Nat) : State :=
  s.setChain .c { s.cc with cmds := s.cc.cmds.map (fun c =>
    if c.call = some (g, n) then { c with doneAt := some s.now } else c) }
/-- The command in flight of this core whose data it is. -/
def State.callCmd (s : State) (d : FabData) : Option Cmd :=
  if s.ownForm d then s.cc.cmds.find? (fun c => c.call = some (d.group, d.call) && !c.finished) else none
/-- Fabric data lands no more. -/
def State.dropLanding (s : State) (id : Nat) : State :=
  { s with fab := { s.fab with landing := s.fab.landing.filter (fun (x : Landing) => x.id ≠ id) } }.dropAsks (.fab id)
/-- Fabric data fails as it takes effect: a command of this core is cancelled and faults (R65, R482). -/
def State.fabFail (s : State) (l : Landing) (code : Nat) (cap : Cap) (off : Nat) : State :=
  let t := s.dropLanding l.id
  match s.callCmd l.data with
  | some c => (t.cancelCmd .c c).faultAt .c code cap off
  | none => t
/-- The first of some ranges of an object in which a read finds an uncorrectable error (R65). -/
def State.firstBad (s : State) (k : Cap) (l : List (Nat × Nat)) : Option Nat :=
  (l.find? (fun x => s.badAt k x.1 x.2)).map Prod.fst
/-- A GET that has read on this package: its bytes go on to their destination here, or to the package of the core that asked. -/
def State.fabGot (s : State) (l : Landing) : State :=
  match s.firstBad l.data.from_ (fabRanges true l.data) with
  | some o => s.fabFail l 0x08D l.data.from_ o
  | none =>
    let d := s.fabRead l
    if s.hereCore d.launch d.sender then
      let wait := if isSpad d.cap then 0 else mostOf (s.writeLatN (capObj d.cap)) (fabRanges false d)
      let t := { s with fab := { s.fab with landing := s.fab.landing.map (fun (x : Landing) =>
        if x.id = l.id then ⟨l.id, s.now + wait, true, d⟩ else x) } }
      (t.dropAsks (.fab l.id)).enqueue (s.fabWrites l.id d)
    else (s.dropLanding l.id).sendTo (s.packageOf d.sender) (fabLoads { d with form := 0 })
/-- Fabric data that has landed raises its counter, and this core's own form completes (R141 steps 5 and 6). -/
def State.fabLanded (s : State) (l : Landing) : State :=
  let d := l.data
  let t := match s.counterOf d.vi d.counter with
    | some i => s.setCounter i (s.counter i + 1)
    | none => s
  let t := t.dropLanding l.id
  if s.ownForm d then t.callDone d.group d.call else t
/-- Fabric data whose requests have been served goes on (R141 steps 5 and 6). -/
def State.fabSettle (s : State) (l : Landing) : State :=
  if s.waitingFor (.fab l.id) || s.now < l.at_ then s
  else if !l.out then s.fabGot l
  else if isSpad l.data.cap then s.fabLanded l
  else match if l.data.form = 1 then s.firstBad l.data.cap (fabRanges false l.data) else none with
    | some o => s.fabFail l 0x08D l.data.cap o
    | none =>
      let r := s.fabElems l.data l.data.elems
      if r.2 then
        (match r.1.callCmd l.data with
         | some c => (r.1.dropLanding l.id).cancelRest .c c
         | none => r.1.dropLanding l.id)
      else r.1.fabLanded l
/-- All fabric data on its way out of and into this package goes on, and so do the requests held back. -/
def State.fabTurn (s : State) : State := (s.fab.landing.foldl State.fabSettle s).leaveTurn.backTurn
/-- Has the core of this model issued its own call of a number (R141 step 4)? -/
def State.called (s : State) (g n : Nat) : Bool := (tget 0 s.cx.calls g - BitVec.ofNat 32 n).toNat < 2 ^ 31
/-- The arrivals that this core holds: 64; the fabric holds the rest back (R141 step 4). -/
def State.heldHere (s : State) : List FabData := (s.fab.held.filter s.forMe).take 64
/-- Held data whose match this core decides. -/
def State.ownMatch (s : State) : Option FabData := s.heldHere.find? (fun d => s.called d.group d.call)
/-- This core's PUTs and PUTREDs in flight to other packages, whose counters are still to be raised. -/
def State.farCalls (s : State) : List Cmd :=
  s.cc.cmds.filter (fun c => c.doneAt.isNone && !c.finished && (match c.call with
    | some (g, n) => s.fab.sent.any (fun d => d.form ≠ 2 && d.group = g && d.call = n && s.ownForm d) &&
        !s.fab.leaving.any (fun x => x.cmd = c.id)
    | none => false))
/-- FABRIC_CALL_MATCH (R141): data for this core whose call it has issued; else, as another core's call is told, the oldest data held
for another core of this package; else the end of one of this core's PUTs or PUTREDs at another package. That order, which of several,
and whether a PUTRED overflowed there (RedOvf of the issuing core, R163), the event does not say: DESIGN CHOICE, log entry 30. -/
def execFabricCallMatch (s : State) : Out :=
  match s.ownMatch with
  | some d => .next (s.fabEffect d)
  | none =>
    match s.fab.held.find? (fun d => !s.forMe d) with
    | some d => .next (s.fabEffect d)
    | none =>
      match s.farCalls[s.freeNat 6 % s.farCalls.length]? with
      | some c =>
        let s := if c.once && s.freeNat 5 % 2 = 1 then s.stickyC bRedOvf else s
        .next (s.bump.setChain .c { s.cc with cmds := s.cc.cmds.map (fun x =>
          if x.id = c.id then { x with doneAt := some s.now } else x) })
      | none => .next s
/-- FABRIC_DATA_ARRIVAL (R141 step 4): held for its match; the bytes of a GET that have come back take effect at once; what is for a
core of another package goes on by the default route (R160). -/
def execFabricDataArrival (d : FabData) (s : State) : Out :=
  if d.form = 2 && s.hereCore d.launch d.sender then .next (s.fabEffect d)
  else if !s.hereCore d.launch d.target && d.launch = s.ctl.launchNo then .next (s.sendTo (s.packageOf d.target) (fabLoads d))
  else .next { s with fab := { s.fab with held := s.fab.held ++ [d] } }

/-! ### Timed pieces (R152, R158, R162) -/

/-- Can the router reach a bank of a cluster in a run of this core's world (R96)? -/
def State.routerBank (s : State) (cluster a : Nat) : Bool :=
  let c := s.cfgOf (256 * cluster + a / 65536)
  c.mode = 1 && !c.changing && c.worldTag = s.ctl.world
/-- The router's request of a piece at its bank (R95). -/
def State.pieceReq (s : State) (p : Piece) (cycle : Nat) (act : TReqDo) : State :=
  { s with sram := { s.sram with timed := s.sram.timed ++
    [⟨cycle, 128, 4 * p.link + p.lane, 2 ^ 24 * p.cluster + p.addr % 2 ^ 24, false, act, s.now,
      decide (p.no = s.ctl.launchNo ∧ p.issuer = s.ctl.lcore)⟩] } }
/-- Is a piece of a PUTRED for this core or of its form (R163)? -/
def State.ownPiece (s : State) (p : Piece) : Bool := p.no = s.ctl.launchNo && (p.core = s.ctl.lcore || p.issuer = s.ctl.lcore)
/-- The parts of a piece: address, for a GET's request the address to which the part goes back, bytes. -/
def pieceParts (p : Piece) (b : List Byte) : List (Nat × Nat × List Byte) :=
  (p.addr, (match p.get with | some x => x.2.2.1 | none => 0), b) :: p.more
/-- A piece combines in this cycle (R162). -/
def State.combinePiece (s : State) (p : Piece) (b : List Byte) : State :=
  (pieceParts p b).foldl (fun (t : State) x => t.pieceReq { p with addr := x.1 } s.now (.red p.op p.wire x.2.2 (s.ownPiece p))) s
/-- A piece has arrived (R151, R152): a GET's request is read at its nominal arrival and answered by the same link and lane; a PUT or
GET piece lands, no earlier than its nominal arrival; a PUTRED piece waits for its combine cycle, or, late, combines at once. -/
def State.arrivePiece (s : State) (p : Piece) (b : List Byte) (late : Bool) : State :=
  let at_ := Nat.max s.now p.nominal
  match p.get with
  | some (pkg, core, _, home, ret) =>
    (pieceParts p b).foldl (fun (t : State) x => t.pieceReq { p with addr := x.1 } at_ (.send x.2.2.length pkg core p.link { p with
      nominal := home, red := false, addr := x.2.1, data := none, more := [], core := core, get := none, path := ret.tail })) s
  | none =>
    if !p.red then (pieceParts p b).foldl (fun (t : State) x => t.pieceReq { p with addr := x.1 } at_ (.write x.2.2)) s
    else if late then s.combinePiece p b
    else { s with fab := { s.fab with pieces := s.fab.pieces ++ [{ p with data := some b }] } }
/-- The package that a link leads to from another (R150). -/
def State.beyond (s : State) (c k : Nat) : Nat :=
  let i := k / 2
  let n := s.loomSize i
  let x := bitsOf c (3 * i) 3
  c - x * 2 ^ (3 * i) + (x + (if k % 2 = 0 then 1 else n - 1)) % n * 2 ^ (3 * i)
/-- TIMED_PIECE_ARRIVAL (R151, R152, R157): without bytes a piece is announced, as its pattern fixes it; with them it arrives. One with
links still to cross goes on by the next of them. -/
def execTimedPieceArrival (p : Piece) (s : State) : Out :=
  match p.path, p.data with
  | k :: rest, some _ => .next (s.launchTimed k ((k :: rest).foldl s.beyond s.fab.coord) p.core { p with path := rest } none)
  | _ :: _, none => .next s
  | [], none => .next { s with fab := { s.fab with pieces := s.fab.pieces ++ [p] } }
  | [], some b =>
    let late := p.nominal + p.ease < s.now || s.fab.pieces.any (fun x => samePiece x p && x.missed)
    .next ({ s with fab := { s.fab with pieces := s.fab.pieces.filter (fun x => !samePiece x p) } }.arrivePiece p b late)
/-- A piece whose bytes were read in this cycle sets out (R151): by its link, or by port 6 to a core of this package. What a PUTRED
overflows elsewhere is a free value (R163, log 30). -/
def State.sendPiece (s : State) (pkg core link : Nat) (p : Piece) (b : List Byte) : State :=
  if link = 6 then
    s.arrivePiece { p with cluster := (s.boundCore core).getD 0 / 8, no := s.ctl.launchNo } b false
  else
    let t := s.launchTimed link pkg core { p with data := some b } none
    if p.red then t.bump.pushPend (p.nominal + p.ease) .c (.csticky (if s.freeNat 5 % 2 = 1 then bRedOvf else 0)) else t
/-- The order of R162. -/
def pieceBefore (a b : Piece) : Bool :=
  a.nominal < b.nominal || (a.nominal = b.nominal && (a.link < b.link || (a.link = b.link && a.lane < b.lane)))
/-- The first PUTRED piece that combines now (R162). -/
def State.redDue (s : State) : Option (Piece × List Byte) :=
  s.fab.pieces.foldl (fun (best : Option (Piece × List Byte)) p =>
    match p.data with
    | some b =>
      if p.red && p.nominal + p.ease ≤ s.now then
        (match best with
         | some x => if pieceBefore p x.1 then some (p, b) else best
         | none => some (p, b))
      else best
    | none => best) none
/-- PUTRED_COMBINE (R95, R162): the piece makes its request at its bank in this cycle. -/
def execPutredCombine (s : State) : Out :=
  match s.redDue with
  | some (p, b) => .next ({ s with fab := { s.fab with pieces := s.fab.pieces.filter (fun x => x ≠ p) } }.combinePiece p b)
  | none => .next s

/-! ### What links receive, their states and keys (R153 to R155, R417) -/

/-- A link begins to train (R154). -/
def Link.retrain (l : Link) (t : Nat) : Link :=
  { l with st := 2, retrains := (l.retrains + 1) % 2 ^ 16, retrainAt := t, upAt := none, fails := 0, again := [], txFails := 0, txBlock := none }
/-- A flit error, or a failed tag: replay is requested; the third failed replay of one block retrains (R153, R154). -/
def Link.bad (l : Link) (t : Nat) : Link :=
  let l' := { l with replays := (l.replays + 1) % 2 ^ 16 }
  if l.st = 0 then { l' with st := 1, fails := 0 }
  else if 3 ≤ l.fails + 1 then l'.retrain t
  else { l' with fails := l.fails + 1 }
/-- The far end requests a replay from the first number that it lacks: every flit from there on is resent, in order; the third failed
replay of one block retrains (R153, R154). -/
def Link.replay (l : Link) (t : Nat) : Link :=
  match l.buffer with
  | [] => l
  | x :: _ =>
    let blk := some (x.epoch, x.no / 16)
    let n := if l.st = 1 && l.txBlock = blk then l.txFails + 1 else 0
    let l' := { l with replays := (l.replays + 1) % 2 ^ 16 }
    if 3 ≤ n then l'.retrain t else { l' with st := 1, again := l.buffer, txBlock := blk, txFails := n }
/-- A failed tag counts as an error of the first flit of its block (R155): from there on the block is lacking. -/
def Link.untag (l : Link) (seq : BitVec 12) : Link :=
  let first := l.expect - BitVec.ofNat 12 (l.rxNo % 16)
  if seq = first then { l with expect := first, rxNo := l.rxNo - l.rxNo % 16 } else l
/-- The departure stamp of the last sync flit among flits that have been acknowledged (R362). -/
def lastSync (l : List SentFlit) : Option Int :=
  l.foldl (fun a x => match x.flit.load with | .sync d _ => some d | _ => a) none
/-- The far end lacks number `acked` and has all before it (R153): those leave the replay buffer; a replaced key is kept until none
of its flits is left (R417). -/
def Link.ack (l : Link) (acked : BitVec 12) : Link :=
  let n := (l.nextSeq - acked).toNat
  if l.buffer.length < n then l
  else
    let gone := l.buffer.take (l.buffer.length - n)
    let left := l.buffer.drop gone.length
    let l : Link := { l with buffer := left, again := l.again.filter (fun x => left.contains x) }
    let l : Link := match lastSync gone with | some d => { l with syncDep := d, syncSeen := true } | none => l
    if l.buffer.length ≤ l.txNo then { l with txOld := none } else l
/-- The low bit of a key epoch (R417). -/
def epochBit (e : W32) : Bool := e.toNat % 2 = 1
/-- Does a flit pass: it is intact, and was encrypted under the receive key of its epoch, the present one or the one kept (R155,
R417)? -/
def Link.passes (l : Link) (r : Receipt) : Bool :=
  r.intact && (if epochBit l.rxEpoch = r.epoch then l.rxKey = r.key
    else match l.rxOld with
      | some (k, e) => epochBit e = r.epoch && k = r.key
      | none => false)
/-- The flit expected next has come (R153, R155): the failures of a block end with it, and with the first one under the present key
the replaced key (R417). -/
def Link.take (l : Link) (r : Receipt) : Link :=
  { l with
    expect := l.expect + 1, rxNo := l.rxNo + 1, fails := if (l.rxNo + 1) % 16 = 0 then 0 else l.fails
    rxOld := if epochBit l.rxEpoch = r.epoch then none else l.rxOld }
/-- Does a flit of a shuttle wait to leave, or to be acknowledged? -/
def Link.carries (l : Link) (sh : Shuttle) : Bool :=
  let is (f : Flit) : Bool := match f.load with | .shuttle x _ => x = sh | _ => false
  l.out.any is || l.buffer.any (fun x => is x.flit)
/-- Shuttles all of whose flits have been acknowledged are no longer this package's (R186). -/
def State.trimDeparted (s : State) : State :=
  { s with sh := { s.sh with departed := s.sh.departed.filter (fun x => [0, 1, 2, 3, 4, 5].any (fun k => (s.link k).carries x.2)) } }
/-- FLIT_RECEIVE (R153, R154): in order and once each; anything else is dropped. While the link passes no flits, those of its buffer come
over the detour with its number and theirs, and are merged in order; errors are ignored. -/
def execFlitReceive (link : Nat) (seq : BitVec 12) (how : Receipt) (acked : BitVec 12) (s : State) : Out :=
  let l := s.link link
  let next (l : Link) : Link := if seq = l.expect then l.take how else l
  if 2 ≤ l.st then .next (if l.passes how && seq = l.expect then (s.setLink link (next (l.ack acked))).trimDeparted else s)
  else if !l.passes how then .next (s.setLink link ((l.untag seq).bad s.now)).alignAgain
  else
    let l := next (l.ack acked)
    .next ((s.setLink link (if how.request then l.replay s.now else l)).trimDeparted).alignAgain
/-- LINK_REPLAY_DONE (R154): the replay has caught up. -/
def execLinkReplayDone (link : Nat) (s : State) : Out :=
  let l := s.link link
  .next (if l.st = 1 && l.again.isEmpty then s.setLink link { l with st := 0, fails := 0, txFails := 0, txBlock := none } else s)
/-- LINK_TRAINING_DONE (R154): UP at the next frame start. -/
def execLinkTrainingDone (link : Nat) (s : State) : Out :=
  let l := s.link link
  .next (if l.st = 2 then s.setLink link { l with upAt := some ((s.now / 256 + 1) * 256) } else s)
/-- Links whose training is done come UP at a frame start (R154). -/
def State.linksUp (s : State) : State :=
  [0, 1, 2, 3, 4, 5].foldl (fun s k =>
    let l := s.link k
    match l.upAt with
    | some t => if l.st = 2 && t ≤ s.now then s.setLink k { l with st := 0, upAt := none, valid := false, syncSeen := false, again := l.buffer } else s
    | none => s) s
/-- A link that has trained too long (R154). -/
def State.slowLink (s : State) : Option Nat :=
  [0, 1, 2, 3, 4, 5].find? (fun k => (s.link k).st = 2 && (s.link k).upAt.isNone && (s.link k).retrainAt + 25000 ≤ s.now)
/-- LINK_RETRAIN_TIMEOUT (R154). -/
def execLinkRetrainTimeout (s : State) : Out :=
  match s.slowLink with
  | some k => .next (s.setLink k { s.link k with st := 3 })
  | none => .next s
/-- LINK_DISABLE (R154). -/
def execLinkDisable (link : Nat) (s : State) : Out :=
  let l := s.link link
  .next (if l.st = 4 then s else (s.setLink link { l with st := 3, upAt := none, disabled := true, again := [] }).alignAgain)
/-- LINK_ENABLE (R154). -/
def execLinkEnable (link : Nat) (s : State) : Out :=
  let l := s.link link
  .next (if l.st = 4 then s
    else if l.st = 3 then s.setLink link { l.retrain s.now with disabled := false } else s.setLink link { l with disabled := false })
/-- LINKTXKEY (R417). -/
def execLinktxkey (link : Nat) (key : BitVec 256) (epoch : W32) (s : State) : Out :=
  .next (s.setLink link { s.link link with txNew := some (key.toNat, epoch) })
/-- LINKRXKEY (R417). -/
def execLinkrxkey (link : Nat) (key : BitVec 256) (epoch : W32) (s : State) : Out :=
  .next (s.setLink link { s.link link with rxNew := some (key.toNat, epoch) })
/-- A transmit key written takes effect at a boundary of 16 flits, and waits while a replaced one is kept; the block counter begins
again (R155, R417). -/
def Link.switchTx (l : Link) : Link :=
  match l.txNew with
  | some (k, e) =>
    if l.txOld.isSome || l.txNo % 16 ≠ 0 then l
    else { l with
      txOld := if l.buffer.isEmpty then none else some (l.txKey, l.txEpoch), txKey := k, txEpoch := e, txNew := none, txNo := 0 }
  | none => l
/-- A receive key written takes effect at a boundary of 16 flits; the replaced one is kept until a flit under the new one has come
(R417). -/
def Link.switchRx (l : Link) : Link :=
  match l.rxNew with
  | some (k, e) =>
    if l.rxNo % 16 ≠ 0 then l
    else { l with rxOld := some (l.rxKey, l.rxEpoch), rxKey := k, rxEpoch := e, rxNew := none, rxNo := 0 }
  | none => l
/-- Keys of a link switch where they may. -/
def Link.switchKeys (l : Link) : Link := l.switchTx.switchRx
/-- A link with a key that may switch now (R417). -/
def State.keyDue (s : State) : Option Nat :=
  [0, 1, 2, 3, 4, 5].find? (fun k => let l := s.link k; (l.txNew.isSome || l.rxNew.isSome) && l.switchKeys ≠ l)
/-- LINK_KEY_SWITCH (R417). -/
def execLinkKeySwitch (_ : Told) (s : State) : Out :=
  match s.keyDue with
  | some k => .next (s.setLink k (s.link k).switchKeys)
  | none => .next s

end Sys2Proof.Machine
end

