-- ==== Sys2Proof/Machine/Shuttles.lean ====
section
/-! DEFINITION. Shuttles: injection, arrival, visits, the words of a shuttle, parking and dropping (R143, R166 to R189). -/

namespace Sys2Proof.Machine

/-- SHPERM of a tenant (R178). -/
def State.shPerm (s : State) (t : Nat) : Nat := (tget 0 s.sh.perm t).toNat
/-- Code word of a shuttle at its pc. -/
def shWordAt (sh : Shuttle) : Nat := (nthD (0 : W16) sh.code sh.pc).toNat
/-- Zero every stack entry past Depth: the stack holds none (R167). -/
def shLeaves (sh : Shuttle) : Shuttle := { sh with pc := 0, status := 0 }

/-! ### Injection (R143, R166 to R169) -/

/-- The shuttle in an image: header, code flit, payload (R166, R167). -/
def shuttleOf (b : List Byte) : Shuttle :=
  { origin := BitVec.ofNat 16 (fieldAt b 0 2), tenant := BitVec.ofNat 6 (fieldAt b 2 1), budget := fieldAt b 3 1,
    pc := fieldAt b 4 1, flits := fieldAt b 6 1, dir := fieldAt b 7 1, hops := fieldAt b 8 1, status := fieldAt b 9 1,
    dlvWin := fieldAt b 10 1, dlvCtr := fieldAt b 12 2, dlvOff := BitVec.ofNat 64 (fieldAt b 16 8),
    tag := BitVec.ofNat 64 (fieldAt b 24 8), g := (List.range 4).map (fun i => BitVec.ofNat 64 (fieldAt b (32 + 8 * i) 8)),
    code := (List.range 16).map (fun i => BitVec.ofNat 16 (fieldAt b (64 + 2 * i) 2)),
    stack := (List.range (fieldAt b 5 1)).map (fun i => BitVec.ofNat 64 (fieldAt b (96 + 8 * i) 8)),
    payload := b.drop 128 }
/-- The checks of an image (R168). -/
def State.imageOk (s : State) (b : List Byte) (flits : Nat) : Bool :=
  let sh := shuttleOf b
  let p := s.shPerm s.ctl.vi
  1 ≤ sh.budget && sh.budget ≤ bitsOf p 16 8 && bitsOf p 0 1 = 1 &&
  sh.dir ≤ 5 && bitsOf p (1 + sh.dir) 1 = 1 && (s.link sh.dir).st ≠ 4 &&
  sh.pc = 0 && sh.hops = 0 && sh.status = 0 && fieldAt b 5 1 ≤ 4 && sh.flits = flits &&
  sh.dlvOff.toNat % 32 = 0 && fieldAt b 2 1 < 64 && sh.dlvWin < 4 && fieldAt b 11 1 = 0 && sh.dlvCtr < 4096 && fieldAt b 14 2 = 0
/-- The checks of the read of an image, as it is asked for (R143). -/
def State.imageCheck (s : State) (k : Cap) (o : Int) (n : Nat) : Except CStop Unit :=
  if isSpad k && s.preHas o.toNat n then .ok ()
  else match s.side k rRD (o, o + n) with
    | .error e => .error e
    | .ok _ => match s.partStop k o.toNat n with | some e => .error e | none => .ok ()
/-- SHSEND (R62, R81, R95, R143, R168, R169): once its image has been read the shuttle leaves by its link; Budget falls by one. -/
def execShsend (a : BitVec 4) (x y : BitVec 5) (s : State) : Out :=
  let k := s.creg a.toNat
  let o := s.base y
  let v := (s.sreg x.toNat).toNat
  let f := v % 8
  s.cShadow [.c a.toNat, .s x.toNat, .s y.toNat]
    (if 4 < f || v / 8 ≠ 0 then s.cHalt (.code 0x0C6 0 0)
     else match s.imageCheck k o (128 + 64 * f) with
       | .error e => s.cHalt e
       | .ok _ => s.preRead 1 (if isSpad k then [(o.toNat, 128 + 64 * f)] else [])
         (let b := if isSpad k then s.preGot o.toNat (128 + 64 * f) else s.objRead (capObj k) o.toNat (128 + 64 * f)
          if !s.imageOk b f then s.cHalt (.code 0x0C6 0 0)
          else
            let sh := { shuttleOf b with
              origin := BitVec.ofNat 16 s.fab.coord, tenant := BitVec.ofNat 6 s.ctl.vi, budget := (shuttleOf b).budget - 1 }
            s.cIssue (CJob.plain none (s.sideLat k (o, o + 128 + 64 * f) false) [.inject sh] (s.segsOf k (o, o + 128 + 64 * f)))))
/-- SHUTTLE_ARRIVAL (R169, R172): what comes beyond the 64 of the buffer is held back on its link. -/
def execShuttleArrival (link : Nat) (sh : Shuttle) (s : State) : Out :=
  .next { s with sh := { s.sh with buffer := s.sh.buffer ++ [(link, sh)] } }

/-! ### Visits (R169 to R172, R183 to R186) -/

/-- The visit whose word is next: the first that is due, else the first. -/
def State.visit (s : State) : Option Visit :=
  match s.sh.eng.find? (fun v => v.next ≤ s.now) with
  | some v => some v
  | none => s.sh.eng.head?
/-- Take a visit off its engine. -/
def State.endVisit (s : State) (v : Visit) : State :=
  ({ s with sh := { s.sh with eng := s.sh.eng.filter (fun x => x.id ≠ v.id) } }.dropAsks (.visit v.id)).unpark (.visit v.id)
/-- The engine's visit goes on with a new state, behind the others. -/
def State.setVisit (s : State) (v w : Visit) : State :=
  { s with sh := { s.sh with eng := s.sh.eng.filter (fun x => x.id ≠ v.id) ++ [w] } }
/-- A shuttle parks at its word (R183 to R186). -/
def State.parkVisit (s : State) (v : Visit) (code : Nat) (operand : W64) : State :=
  let s := s.endVisit v
  let t := v.sh.tenant.toNat
  if 256 ≤ s.sh.parks.length || 16 ≤ (s.sh.parks.filter (fun p => p.tenant = t)).length then
    { s with sh := { s.sh with drops := (s.sh.drops + 1) % 2 ^ 16 } }
  else
    let p := s.shPerm t
    let r : ParkRec := ⟨s.sh.parkNo + 1, t, code, v.link, s.now, { v.sh with status := 1 }, v.steps, operand⟩
    let s := { s with sh := { s.sh with
      parks := s.sh.parks ++ [r], parkNo := s.sh.parkNo + 1, parkCount := (s.sh.parkCount + 1) % 2 ^ 16 } }
    if bitsOf p 36 1 = 1 then
      (match s.counterOf t (bitsOf p 24 12) with
       | some i => s.setCounter i (s.counter i + 1)
       | none => s)
    else s
/-- May a buffered shuttle take an engine (R172)? -/
def State.mayVisit (s : State) (x : Nat × Shuttle) : Bool :=
  s.sh.eng.length < 16 &&
  (s.sh.eng.filter (fun v => v.sh.tenant = x.2.tenant)).length < bitsOf (s.shPerm x.2.tenant.toNat) 12 4 + 1
/-- The shuttle granted next of those in the buffer: round-robin over tenants, then by arrival (R172). After reset tenant 0 comes
first: the spec does not say where the round begins (DESIGN CHOICE, log entry 79). -/
def State.granted (s : State) : Option (Nat × Shuttle) :=
  ((s.sh.buffer.take 64).filter s.mayVisit).foldl (fun (best : Option (Nat × Shuttle)) x =>
    let far (y : Nat × Shuttle) : Nat := (y.2.tenant.toNat + 63 - s.sh.rr) % 64
    match best with
    | some y => if far x < far y then some x else best
    | none => some x) none
/-- A visit whose next word is no word (R170 check 1). -/
def State.illVisit (s : State) : Option Visit :=
  match s.visit with
  | some v => if v.next ≤ s.now && (decodeSh (shWordAt v.sh)).toOption.isNone then some v else none
  | none => none
/-- SHUTTLE_VISIT (R169, R172): an illegal word parks its shuttle; otherwise the next shuttle is granted an engine. -/
def execShuttleVisit (s : State) : Out :=
  match s.illVisit with
  | some v => .next (s.parkVisit v 0x049 0)
  | none =>
    match s.granted with
    | none => .next s
    | some x =>
      let v : Visit := ⟨s.sh.visitNo, { x.2 with hops := (x.2.hops + 1) % 256, pc := 0 }, x.1, s.now, 0, 0, s.now, none⟩
      let rest := delNth s.sh.buffer (s.sh.buffer.findIdx (fun y => y = x))
      let t := { s with sh := { s.sh with
        buffer := rest, eng := s.sh.eng ++ [v], rr := x.2.tenant.toNat, visits := (s.sh.visits + 1) % 2 ^ 16
        visitNo := s.sh.visitNo + 1 } }
      .next (if bitsOf (s.shPerm x.2.tenant.toNat) 0 1 = 0 then t.parkVisit v 0x106 0 else t)

/-- How a word's own part ends. -/
inductive ShRes where
  /-- Goes on: the state, the visit after its pops, what it pushes. -/
  | go (s : State) (v : Visit) (push : List W64)
  /-- Parks with a code and the operand of R184. -/
  | park (code : Nat) (operand : W64)
  /-- The visit ends. -/
  | over (s : State)
  /-- Its access waits: the state, and where the access stands. -/
  | wait (s : State) (a : Option ShAcc)

/-- One word (R170, R171); the checks before its access, once that is under way, are past: permission bit, pops, pushes, whether it
ends the visit, words skipped as the popped values decide,
and its own part, which takes the popped values, the top first. -/
def State.shWord (s : State) (perm : Option Nat) (pops pushes : Nat) (ends : Bool) (skip : List W64 → Nat)
    (own : State → Visit → List W64 → ShRes) : Out :=
  match s.visit with
  | none => .next s
  | some v =>
    let depth := v.sh.stack.length
    let top := (v.sh.stack.drop (depth - pops)).reverse
    let next := v.sh.pc + 1 + skip top
    if v.acc.isNone && perm.any (fun b => bitsOf (s.shPerm v.sh.tenant.toNat) b 1 = 0) then .next (s.parkVisit v 0x106 0)
    else if depth < pops || 4 < depth - pops + pushes then .next (s.parkVisit v 0x104 0)
    else if !ends && 15 < next then .next (s.parkVisit v 0x105 0)
    else
      let v' := { v with sh := { v.sh with stack := v.sh.stack.take (depth - pops) } }
      match own s v' top with
      | .park c o => .next (s.parkVisit v c o)
      | .wait t a => .next (t.setVisit v { v with next := s.now + 1, acc := a })
      | .over t => .next (t.endVisit v)
      | .go t w p => .next (t.setVisit v { w with
          sh := { w.sh with stack := w.sh.stack ++ p, pc := next }, steps := w.steps + 1, next := s.now + 1, acc := none })
/-- A word that only pops and pushes (R174). -/
def State.shPure (s : State) (pops : Nat) (f : Visit → List W64 → List W64) (pushes : Nat) : Out :=
  s.shWord none pops pushes false (fun _ => 0) (fun s v t => .go s v (f v t))
/-- a word of two operands: b on top, a below (R173). -/
def State.shBin (s : State) (f : W64 → W64 → W64) : Out :=
  s.shPure 2 (fun _ t => [f (nthD 0 t 1) (nthD 0 t 0)]) 1
/-- 1 or 0. -/
def flag64 (b : Bool) : W64 := if b then 1 else 0

/-- NOP (R174). -/
def execShNop (s : State) : Out := s.shPure 0 (fun _ _ => []) 0
/-- PUSHI (R174). -/
def execShPushi (i : BitVec 11) (s : State) : Out := s.shPure 0 (fun _ _ => [i.signExtend 64]) 1
/-- PUSHG (R174). -/
def execShPushg (g : BitVec 2) (s : State) : Out := s.shPure 0 (fun v _ => [nthD 0 v.sh.g g.toNat]) 1
/-- POPG (R174). -/
def execShPopg (g : BitVec 2) (s : State) : Out :=
  s.shWord none 1 0 false (fun _ => 0) (fun s v t =>
    .go s { v with sh := { v.sh with g := setNth v.sh.g g.toNat (nthD 0 t 0) } } [])
/-- DUP (R174). -/
def execShDup (s : State) : Out := s.shPure 1 (fun _ t => [nthD 0 t 0, nthD 0 t 0]) 2
/-- DROP (R174). -/
def execShDrop (s : State) : Out := s.shPure 1 (fun _ _ => []) 0
/-- SWAP (R174). -/
def execShSwap (s : State) : Out := s.shPure 2 (fun _ t => [nthD 0 t 0, nthD 0 t 1]) 2
/-- ADD (R174). -/
def execShAdd (s : State) : Out := s.shBin (fun a b => a + b)
/-- SUB (R174). -/
def execShSub (s : State) : Out := s.shBin (fun a b => a - b)
/-- AND (R174). -/
def execShAnd (s : State) : Out := s.shBin (fun a b => a &&& b)
/-- OR (R174). -/
def execShOr (s : State) : Out := s.shBin (fun a b => a ||| b)
/-- XOR (R174). -/
def execShXor (s : State) : Out := s.shBin (fun a b => a ^^^ b)
/-- SHL (R174). -/
def execShShl (sh : BitVec 6) (s : State) : Out := s.shPure 1 (fun _ t => [nthD 0 t 0 <<< sh.toNat]) 1
/-- SHR (R174). -/
def execShShr (sh : BitVec 6) (s : State) : Out := s.shPure 1 (fun _ t => [nthD 0 t 0 >>> sh.toNat]) 1
/-- CLT (R174). -/
def execShClt (s : State) : Out := s.shBin (fun a b => flag64 (a.slt b))
/-- CEQ (R174). -/
def execShCeq (s : State) : Out := s.shBin (fun a b => flag64 (a = b))
/-- SKZ (R174). -/
def execShSkz (n : BitVec 4) (s : State) : Out :=
  s.shWord none 1 0 false (fun t => if nthD 0 t 0 = 0 then n.toNat else 0) (fun s v _ => .go s v [])
/-- SKNZ (R174). -/
def execShSknz (n : BitVec 4) (s : State) : Out :=
  s.shWord none 1 0 false (fun t => if nthD 0 t 0 = 0 then 0 else n.toNat) (fun s v _ => .go s v [])
/-- SKIP (R174). -/
def execShSkip (n : BitVec 4) (s : State) : Out :=
  s.shWord none 0 0 false (fun _ => n.toNat) (fun s v _ => .go s v [])
/-- HOPS (R174). -/
def execShHops (s : State) : Out := s.shPure 0 (fun v _ => [BitVec.ofNat 64 v.sh.hops]) 1
/-- HERE (R174). -/
def execShHere (s : State) : Out := s.shPure 0 (fun v _ => [flag64 (v.sh.origin.toNat = s.fab.coord)]) 1
/-- LLOAD (R174). -/
def execShLload (k : BitVec 3) (s : State) : Out :=
  let l := s.link k.toNat
  s.shWord (some 11) 0 1 false (fun _ => 0) (fun s v _ =>
    .go s v [BitVec.ofNat 64 (if 2 ≤ l.st then 65535 else Nat.min l.out.length 65535)])
/-- KILL (R174, R186). -/
def execShKill (s : State) : Out :=
  s.shWord none 0 0 true (fun _ => 0) (fun s _ _ =>
    .over { s with sh := { s.sh with drops := (s.sh.drops + 1) % 2 ^ 16 } })

/-! ### Windows (R175, R177, R179) -/

/-- SHWINCTL of a window (R179). -/
def State.winCtl (s : State) (t w : Nat) : Nat := (tget 0 s.sh.winCtl (4 * t + w)).toNat
/-- SHWINCAP of a window (R179). -/
def State.winCap (s : State) (t w : Nat) : Cap := tget 0 s.sh.winCap (4 * t + w)
/-- WinCheck of an access of tenant t through a window of capability k and control word c (R175); one that reads a word of a
scratchpad with a write pending parks with SHADOW_READ (R107, R407; DESIGN CHOICE, log entry 98). -/
def State.winCheckAt (s : State) (t : Nat) (k : Cap) (c o n need : Nat) : Chk :=
  match checkCap k need o n with
  | some e => .bad e
  | none =>
    if isSpad k then
      let keys := (List.range ((o + n - 1) / 65536 - o / 65536 + 1)).map (fun i => 256 * bitsOf c 1 5 + o / 65536 + i)
      if 2 ^ 24 < o + n || keys.any (fun b => (s.cfgOf b).mode ≠ 1 || (s.cfgOf b).changing) then .bad 0x08F
      else if keys.any (fun b => (s.cfgOf b).worldTag ≠ bitsOf c 16 16) then .bad 0x092
      else if need &&& rRD ≠ 0 && s.farShadow 2 (bitsOf c 1 5) o n then .bad 0x002
      else .ok
    else match s.checkObj k o n t (bitsOf c 16 16) with
      | .ok =>
        (match s.entry (capObj k) with
         | some e => if need &&& rRD ≠ 0 && badIn s.mem.bad e o n then .bad 0x08D else .ok
         | none => .ok)
      | r => r
/-- WinCheck of a window as it stands (R175). -/
def State.winCheck (s : State) (t w o n need : Nat) : Chk := s.winCheckAt t (s.winCap t w) (s.winCtl t w) o n need
/-- Read the bytes of an access at memory. -/
def State.winRd (s : State) (x : ShAcc) : List Byte := s.farRead x.cap (bitsOf x.ctl 1 5) x.o x.n
/-- Write the bytes of an access at memory. -/
def State.winWr (s : State) (x : ShAcc) (b : List Byte) : State := s.farWrite x.cap (bitsOf x.ctl 1 5) x.o b none
/-- The requests at banks of an access through a scratchpad window (R94, R95): number 128, in the window's cluster and world. -/
def Visit.winItems (v : Visit) (x : ShAcc) (act : Nat → Nat → BAct) : List BItem :=
  (rowsOf x.o x.n).map (fun p =>
    ⟨128, 2 ^ 24 * bitsOf x.ctl 1 5 + p.2.1 % 2 ^ 24, act p.1 p.2.2, .visit v.id, some (bitsOf x.ctl 16 16)⟩)
/-- An access that has still to be translated: its checks, then the wait for memory or for its banks (R62, R82, R83). One to a held
segment parks at its port and keeps the engine. -/
def State.winStart (s : State) (v : Visit) (x : ShAcc) (operand : W64) (act : Nat → Nat → BAct) : ShRes :=
  match s.winCheckAt v.sh.tenant.toNat x.cap x.ctl x.o x.n x.need with
  | .bad c => .park c operand
  | .park q => if s.portFull q then .wait s (some x) else .wait (s.park (.visit v.id) q) (some x)
  | .ok =>
    if isSpad x.cap then .wait (s.enqueue (v.winItems x act)) (some { x with stage := 2 })
    else
      let id := capObj x.cap
      .wait s.popDelay (some { x with
        stage := 1, ready := s.now + (if x.need &&& rRD ≠ 0 then s.readLatN id x.o x.n else s.writeLatN id x.o x.n) + s.delay })
/-- A word's access through a window, then `k` (R171, R175, R177). Its checks are made once: an access that its port or bank has
taken goes on as it was, whatever its window has become since (R90). -/
def State.winAccess (s : State) (v : Visit) (a : ShAcc) (operand : W64) (act : Nat → Nat → BAct) (k : State → ShAcc → ShRes) : ShRes :=
  match v.acc with
  | none => s.winStart v a operand act
  | some x =>
    if x.stage = 2 then (if s.waitingFor (.visit v.id) then .wait s v.acc else k s x)
    else if x.stage = 1 then (if s.now < x.ready then .wait s v.acc else k s x)
    else if s.isParked (.visit v.id) then .wait s v.acc
    else s.winStart v x operand act
/-- An access of a visit through window w that is now to begin. -/
def State.winAsk (s : State) (v : Visit) (w o n need ctr : Nat) : ShAcc :=
  ⟨w, o, n, need, 0, 0, s.winCap v.sh.tenant.toNat w, s.winCtl v.sh.tenant.toNat w, ctr⟩
/-- The dword that an access has read: from its bank, or from memory now. -/
def State.winGot (s : State) (v : Visit) (x : ShAcc) : W64 :=
  BitVec.ofNat 64 (leNat (match s.sram.got.find? (fun g => g.1 = .visit v.id) with
    | some g => g.2.2.2
    | none => s.winRd x))
/-- The checks that RDW and ADDW make before their access (R175). -/
def State.winDword (s : State) (v : Visit) (w : Nat) (o : W64) (need : Nat) (act : Nat → Nat → BAct) (k : State → ShAcc → ShRes) :
    ShRes :=
  if v.acc.isNone && bitsOf (s.winCtl v.sh.tenant.toNat w) 0 1 = 0 then .park 0x10A o
  else if o.toNat % 8 ≠ 0 then .park 0x08E o
  else s.winAccess v (s.winAsk v w o.toNat 8 need 0) o act k
/-- RDW (R175). -/
def execShRdw (w : BitVec 2) (s : State) : Out :=
  s.shWord (some 7) 1 1 false (fun _ => 0) (fun s v t =>
    s.winDword v w.toNat (nthD 0 t 0) rRD (fun i n => .read 0 i n) (fun s x =>
      .go (s.dropAsks (.visit v.id)) v [s.winGot v x]))
/-- ADDW (R175). -/
def execShAddw (w : BitVec 2) (s : State) : Out :=
  s.shWord (some 8) 2 1 false (fun _ => 0) (fun s v t =>
    let b := nthD 0 t 0
    s.winDword v w.toNat (nthD 0 t 1) (rRD ||| rWR ||| rAT) (fun _ _ => .add b) (fun s x =>
      let old := s.winGot v x
      let u := if isSpad x.cap then s else s.winWr x (leBytes 8 (old + b).toNat)
      .go (u.dropAsks (.visit v.id)) v [old]))
/-- RDC (R175). -/
def execShRdc (s : State) : Out :=
  s.shWord (some 7) 1 1 false (fun _ => 0) (fun s v t =>
    let i := nthD 0 t 0
    match if i.toNat < 4096 then s.counterOf v.sh.tenant.toNat i.toNat else none with
    | some c => .go s v [s.counter c]
    | none => .park 0x0C5 i)
/-- LinkCheck (R176). -/
def State.linkCheck (s : State) (t d : Nat) : Option Nat :=
  if bitsOf (s.shPerm t) (1 + d) 1 = 0 then some 0x106
  else if (s.link d).st = 4 then some 0x108
  else none
/-- A shuttle is queued for a link, or for its bypass (R157, R176). -/
def State.depart (s : State) (d : Nat) (sh : Shuttle) : State :=
  { s with sh := { s.sh with departed := s.sh.departed ++ [(d, sh)] } }.queueOut d (shLoads sh)
/-- The link that DIR and CLONE name: 7 pops it (R176). -/
def shDirOf (dir : BitVec 3) (t : List W64) : W64 := if dir = 7 then nthD 0 t 0 else dir.setWidth 64
/-- DIR (R176). -/
def execShDir (dir : BitVec 3) (s : State) : Out :=
  s.shWord none (if dir = 7 then 1 else 0) 0 false (fun _ => 0) (fun s v t =>
    let d := (shDirOf dir t).toNat
    if 5 < d then .park 0x107 0 else .go s { v with sh := { v.sh with dir := d } } [])
/-- CLONE (R176). -/
def execShClone (dir : BitVec 3) (s : State) : Out :=
  s.shWord (some 9) (if dir = 7 then 1 else 0) 0 false (fun _ => 0) (fun s v t =>
    let d := (shDirOf dir t).toNat
    if 5 < d then .park 0x107 0
    else if v.clones = 4 then .park 0x109 0
    else if v.sh.budget = 0 then .park 0x103 0
    else match s.linkCheck v.sh.tenant.toNat d with
      | some c => .park c 0
      | none =>
        let copy := shLeaves { v.sh with dir := d, budget := v.sh.budget - 1 }
        .go (s.depart d copy) { v with clones := v.clones + 1 } [])
/-- FWD (R176). -/
def execShFwd (s : State) : Out :=
  s.shWord none 0 0 true (fun _ => 0) (fun s v _ =>
    if 5 < v.sh.dir then .park 0x107 0
    else if v.sh.budget = 0 then .park 0x103 0
    else match s.linkCheck v.sh.tenant.toNat v.sh.dir with
      | some c => .park c 0
      | none => .over (s.depart v.sh.dir (shLeaves { v.sh with budget := v.sh.budget - 1 })))
/-- DLV (R177). -/
def execShDlv (s : State) : Out :=
  s.shWord (some 10) 0 0 true (fun _ => 0) (fun s v _ =>
    let t := v.sh.tenant.toNat
    let w := v.sh.dlvWin
    let o := v.sh.dlvOff
    let n := 32 + 64 * v.sh.flits
    let b := fitBytes n (v.sh.g.flatMap (fun x => leBytes 8 x.toNat) ++ v.sh.payload)
    if v.acc.isNone && bitsOf (s.winCtl t w) 0 1 = 0 then .park 0x10A o
    else match (match v.acc with | some x => some x.ctr | none => s.counterOf t v.sh.dlvCtr) with
      | none => .park 0x0C5 (BitVec.ofNat 64 v.sh.dlvCtr)
      | some i =>
        s.winAccess v (s.winAsk v w o.toNat n rWR i) o (fun i m => .write ((b.drop i).take m)) (fun s x =>
          let u := if isSpad x.cap then s else s.winWr x b
          .over (u.setCounter x.ctr (u.counter x.ctr + 1))))

/-- A header flit (R166). -/
def headerBytes (sh : Shuttle) : List Byte :=
  leBytes 2 sh.origin.toNat ++ leBytes 1 sh.tenant.toNat ++ leBytes 1 sh.budget ++ leBytes 1 sh.pc ++
  leBytes 1 sh.stack.length ++ leBytes 1 sh.flits ++ leBytes 1 sh.dir ++ leBytes 1 sh.hops ++ leBytes 1 sh.status ++
  leBytes 1 sh.dlvWin ++ leBytes 1 0 ++ leBytes 2 sh.dlvCtr ++ leBytes 2 0 ++ leBytes 8 sh.dlvOff.toNat ++
  leBytes 8 sh.tag.toNat ++ sh.g.flatMap (fun x => leBytes 8 x.toNat)
/-- A code flit (R167). -/
def codeBytes (sh : Shuttle) : List Byte :=
  fitBytes 64 (fitBytes 32 (sh.code.flatMap (fun x => leBytes 2 x.toNat)) ++ sh.stack.flatMap (fun x => leBytes 8 x.toNat))
/-- A park record of 512 bytes (R184). -/
def State.parkBytes (s : State) (p : ParkRec) : List Byte :=
  leBytes 2 p.cause ++ leBytes 2 s.fab.coord ++ leBytes 1 p.link ++ leBytes 1 p.steps ++ leBytes 1 p.tenant ++ leBytes 1 0 ++
  leBytes 8 p.at_ ++ leBytes 8 p.seq ++ leBytes 8 p.operand.toNat ++ leBytes 32 0 ++ fitBytes 64 (headerBytes p.sh) ++
  codeBytes p.sh ++ fitBytes 256 p.sh.payload ++ leBytes 64 0

end Sys2Proof.Machine
end

