-- ==== Sys2Proof/Machine/Arbiter.lean ====
section
/-! DEFINITION. The untimed requests that wait at the banks, the round-robin that serves them, one to a bank and tape cycle, and the
retries of parked accesses (R83, R94, R95, R203, R482). -/

namespace Sys2Proof.Machine

/-- Does the core issue nothing any more (R397): a fault was detected in an earlier cycle, or it is to be saved? -/
def State.halted (s : State) : Bool :=
  s.trap.save.isSome || (match s.trap.stop with | some f => f.at_ < s.now | none => false)
/-- Does the core's half-cluster advance in this cycle (R372)? -/
def State.coreTicks (s : State) : Bool := s.ticks (s.ctl.coreId / 4)
/-- May the chain engines go on (R113, R397, R404)? -/
def State.chainsRun (s : State) : Bool := s.sx.on && s.coreTicks && !s.halted && !s.trap.chainsOff

/-! ### Who waits at a bank (R94, R95) -/

/-- Whose request it is. -/
inductive Asker where
  | load (l : LoadRec) (a : Nat)
  | store (r : StoreRec) (a : Nat)
  | blk
  | chain (e : Engine)
  | ag (n : Nat)
  | fill (f : GFill)
  | dq (x : DPend)
  | items (l : List BItem)
  deriving DecidableEq, Repr
/-- A request at a bank: requester number, package key of the bank, whose. -/
structure Want where
  num : Nat
  bank : Nat
  who : Asker
  deriving DecidableEq, Repr

/-- A request of the core at an address of its own cluster. -/
def State.want (s : State) (num a : Nat) (who : Asker) : Want := ⟨num, s.bankKey (a % 2 ^ 24 / 65536), who⟩
/-- Put an S request behind every one of a lower access number. -/
def insWant (n : Nat) (w : Want) : List (Nat × Want) → List (Nat × Want)
  | [] => [(n, w)]
  | q :: t => if n < q.1 then (n, w) :: q :: t else q :: insWant n w t
/-- The requests of S, in the order of its accesses. -/
def State.wantsS (s : State) : List Want :=
  let num := 16 * s.coreJ
  let ls := s.sx.loads.filterMap (fun l => (s.loadAtBank l).map (fun a => (l.seq, s.want num a (.load l a))))
  let rs := s.sx.stores.filterMap (fun r => (s.storeAtBank r).map (fun a => (r.seq, s.want num a (.store r a))))
  (rs.foldl (fun l x => insWant x.1 x.2 l) (ls.foldl (fun l x => insWant x.1 x.2 l) [])).map Prod.snd ++
    (match s.sx.blk with
     | some b => if b.ask && !b.granted then [s.want num b.a.toNat .blk] else []
     | none => [])
/-- The scratchpad address that a chain engine has to read now: its next entry, or the word of its condition (R50, R95, R116). -/
def State.chainWants (s : State) (e : Engine) : Option Nat :=
  let c := s.chain e
  if !s.chainsRun || c.served = some s.now then none
  else match c.cur with
    | some en =>
      if en.cond.isSome && c.st = 2 && en.ready && !en.skip && c.next ≤ s.now then (s.winAddr c.win en.word.toNat 4).toOption else none
    | none => if s.decodes e then (s.winAddr c.win c.pos 16).toOption else none
/-- The requests of the chain engines (R95: 16 j + 11). -/
def State.wantsChain (s : State) : List Want :=
  [Engine.v, .m, .c].filterMap (fun e => (s.chainWants e).map (fun a => s.want (16 * s.coreJ + 11) a (.chain e)))
/-- The requests of the generators, the gather unit and V's queues (R95). -/
def State.wantsUnits (s : State) : List Want :=
  let j := 16 * s.coreJ
  (if s.coreTicks then
    (List.range 8).filterMap (fun n =>
      if (s.agen n).turn || (n < 6 && s.halted) then none else (s.agWants n).map (fun a => s.want (j + 2 + n) a (.ag n))) ++
    s.rs.fills.filterMap (fun f => (s.fillWants f).map (fun a => s.want (j + 10) a (.fill f)))
   else []) ++
  s.dpend.filterMap (fun x => (s.dqWants x).map (fun a => s.want (j + 12) a (.dq x)))
/-- Does a request return bytes? -/
def BItem.reads (x : BItem) : Bool := match x.act with | .read _ _ _ => true | .touch => true | _ => false
/-- May two requests of one unit be one (R94): in one row, and of one kind? -/
def BItem.joins (x y : BItem) : Bool := x.own = y.own && x.addr / 256 = y.addr / 256 && x.reads == y.reads && x.own ≠ .none
/-- The queued requests of a number at a bank: the first, with those that follow it in its row (log entry 80). -/
def State.itemsAt (s : State) (num bank : Nat) : List BItem :=
  match s.sram.queue.filter (fun x => x.num = num && x.addr / 65536 = bank) with
  | [] => []
  | x :: t => x :: t.takeWhile (fun y => x.joins y)
/-- The requests that C, the router and the slices have queued. -/
def State.wantsItems (s : State) : List Want :=
  (onceEach (s.sram.queue.map (fun x => (x.num, x.addr / 65536)))).map (fun k => ⟨k.1, k.2, .items (s.itemsAt k.1 k.2)⟩)
/-- Every untimed request that waits at a bank. -/
def State.wants (s : State) : List Want := s.wantsS ++ s.wantsChain ++ s.wantsUnits ++ s.wantsItems

/-! ### What a served request does -/

/-- The capability of what the next word of C reads before it issues, at an address of the scratchpad; an index list has none
(R128, R129, R136). -/
def State.preCap (s : State) (a : Nat) : Cap :=
  match s.cc.cur.map (fun en => decodeFor .c en.word.toNat) with
  | some (.ok (.cldrec k _ _)) => s.creg k.toNat
  | some (.ok (.shsend k _ _)) => s.creg k.toNat
  | some (.ok (.rcfence _ _)) =>
    match (s.cx.recs.filterMap Prod.snd).find? (fun r => isSpad r.cap && r.off ≤ a && a < r.off + 64) with
    | some r => r.cap
    | none => 0
  | _ => 0
/-- The capability of a request of a command of C (R399). -/
def State.itemCap (s : State) (id : Nat) (reads : Bool) : Cap :=
  match s.cc.cmds.find? (fun c => c.id = id) with
  | some c => if reads then c.src else c.dst
  | none => 0
/-- A queued request is refused as its bank would serve it (R482). -/
def State.refuseItem (s : State) (x : BItem) (code : Nat) : State :=
  let s := s.dropAsks x.own
  let a := x.addr % 2 ^ 24
  match x.own with
  | .none => s
  | .cmd id => (s.cancelId .c id).faultAt .c code (s.itemCap id x.reads) a
  | .pre => s.faultAt .c code (s.preCap a) a
  | .fab id =>
    (match s.fab.landing.find? (fun l => l.id = id) with
     | some l => s.fabFail l code (if x.reads then l.data.from_ else l.data.cap) a
     | none => s)
  | .visit id =>
    (match s.sh.eng.find? (fun v => v.id = id) with
     | some v => s.parkVisit v code (BitVec.ofNat 64 (match v.acc with | some a => a.o | none => 0))
     | none => s)
/-- The bytes of a place change. -/
def State.bankPut (s : State) (a : Nat) (b : List Byte) : State := { s with sram := { s.sram with bytes := mwriteN s.sram.bytes a b } }
/-- What a read returns to its unit; a command of C completes no earlier than its latency after it (R62). -/
def State.bankGot (s : State) (o : BOwner) (i off : Nat) (b : List Byte) : State :=
  let t := { s with sram := { s.sram with got := s.sram.got ++ [(o, i, off, b)] } }
  match o with
  | .cmd id => { t with cc := { t.cc with cmds := t.cc.cmds.map (fun (c : Cmd) =>
      if c.id = id then { c with doneAt := c.doneAt.map (fun d => Nat.max d (s.now + c.lat)) } else c) } }
  | _ => t
/-- One queued request in its bank cycle (R95). -/
def State.doItem (s : State) (x : BItem) : State :=
  match x.act with
  | .touch => s
  | .read i o n => s.bankGot x.own i o (mreadN s.sram.bytes x.addr n)
  | .write b => s.bankPut x.addr b
  | .atom op v => s.bankPut x.addr (leBytes 8 (amoOp op 64 (leNat (mreadN s.sram.bytes x.addr 8)) v.toNat 0))
  | .red op wire b own =>
    let r := redPiece op wire 16 (mreadN s.sram.bytes x.addr b.length) b
    let t := s.bankPut x.addr r.1
    if r.2 && own then t.stickyC bRedOvf else t
  | .add v =>
    let old := mreadN s.sram.bytes x.addr 8
    (s.bankGot x.own 0 0 old).bankPut x.addr (leBytes 8 (BitVec.ofNat 64 (leNat old) + v).toNat)
/-- A bank serves queued requests of one row, or refuses them (R94, R482). -/
def State.serveItems (s : State) (bank : Nat) (l : List BItem) : State :=
  match l with
  | [] => s
  | x :: _ =>
    let t := { s with sram := { s.sram with queue := l.foldl (fun (q : List BItem) y => q.erase y) s.sram.queue } }
    match x.world.bind (fun w => (t.cfgOf bank).refuses w) with
    | some c => t.refuseItem x c
    | none => l.foldl State.doItem t
/-- A bank serves a request (R94, R95, R482). -/
def State.grantWant (s : State) (w : Want) : State :=
  match w.who with
  | .load l a => (s.serveLoad l a).lookAgain
  | .store r a => s.serveStore r a
  | .blk => s.serveBlk
  | .chain e => s.setChain e { s.chain e with served := some s.now }
  | .ag n => s.agTurn n true
  | .fill f => s.fillRow f
  | .dq x => s.dqServe x
  | .items l => s.serveItems w.bank l
/-- The request that a bank's pointer comes to first: the next waiting number, and of it the first (R94). -/
def roundRobin (p : Nat) (l : List Want) : Option Want :=
  l.foldl (fun (best : Option Want) w =>
    let far (x : Want) : Nat := (x.num + 130 - p % 130) % 130
    match best with
    | some b => if far w < far b then some w else best
    | none => some w) none
/-- The request served next: of the first bank that is free and has one waiting. -/
def State.nextServed (s : State) : Option Want :=
  let ws := s.wants
  match ws.find? (fun w => s.bankFree w.bank) with
  | none => none
  | some w => roundRobin (tget 0 s.sram.rr w.bank) (ws.filter (fun x => x.bank = w.bank))
/-- BANK_SERVICE (R94, R95): a bank serves one untimed request, and its pointer goes past the number; a fabric form whose source is
read sends its data (R141 step 4). -/
def execBankService (s : State) : Out :=
  match s.nextServed with
  | some w => .next ((s.serve w.bank w.num).grantWant w).leaveTurn
  | none => .next s
/-- Is it the next of the requests that a unit has queued, of which this bank served one in this cycle? A unit brings them to the
bank one after the other, so that it does not wait yet (R463, log entry 80). -/
def State.nextOfServed (s : State) (w : Want) : Bool :=
  match w.who with
  | .items _ => s.sram.served.contains w.bank && tget 0 s.sram.rr w.bank = (w.num + 1) % 130
  | _ => false
/-- Untimed requests of the cluster that waited in a cycle at a bank which served another (R94, R111). -/
def State.stalled (s : State) (busy : List Nat) : Nat :=
  (s.wants.filter (fun w => w.bank / 256 = s.cluster && busy.contains w.bank && !(s.cfgOf w.bank).changing && !s.nextOfServed w)).length

/-! ### Parked accesses (R75, R83) -/

/-- PARKED_RETRY (R83, R90): the whole check again; it goes on, parks for longer, or faults. -/
def execParkedRetry (s : State) : Out :=
  match s.retryDue with
  | none => .next s
  | some p =>
    match p.who with
    | .load n => .next (s.retryLoad p n)
    | .store n => .next (s.retryStore p n)
    | .blk => .next (s.retryBlk p)
    | .visit id =>
      (match (s.sh.eng.find? (fun v => v.id = id)).bind (fun v => v.acc.map (fun a => (v, a))) with
       | some (v, a) => .next (s.retryOther p (s.winCheckAt v.sh.tenant.toNat a.cap a.ctl a.o a.n a.need))
       | none => .next (s.setParked p none))
    | .ask =>
      let t := s.retryOther p (match s.ownGrant with | some (_, c, _, _) => c | none => .ok)
      .next { t with cx := { t.cx with parked := t.isParked .ask } }
    | .req r =>
      let c := s.reqCheck r
      .next (match c with
        | .ok => (s.setParked p none).grantReq r
        | .bad e => (s.setParked p none).tellReq r (some e)
        | .park _ => s.retryOther p c)

end Sys2Proof.Machine
end

