-- ==== Sys2Proof/Machine/Runs.lean ====
section
/-! DEFINITION. Timed runs, seams, safe points, holds, aborts and restarts; the tape's alignment (R26, R30, R52, R79, R130,
R158, R159, R259, R327 to R331, R358 to R374). -/

namespace Sys2Proof.Machine

/-! ### Stream load (R30, R44, R52, R328) -/

/-- May the form stand in a timed stream (R30, R271, R303, R123)? -/
def timedLegal (i : Instr) : Bool :=
  match i with
  | .setb _ _ => false
  | .amo _ _ _ _ _ _ _ => false
  | .ldaq _ _ _ _ _ _ => false
  | .strl _ _ _ _ _ _ => false
  | .sts _ _ _ _ _ => false
  | .stcb _ _ _ _ _ => false
  | .fence _ _ => false
  | .slwb => false
  | .slinv => false
  | .clo _ _ _ => false
  | .chi _ _ _ => false
  | .pbr _ _ => false
  | .br _ _ _ _ _ => false
  | .loopend _ _ => false
  | .tksig _ => false
  | .tkwait _ _ => false
  | .cwait _ _ _ => false
  | .cwrite _ _ => false
  | .chwin _ _ => false
  | .chhead _ _ _ => false
  | .chtail _ _ => false
  | .chstop _ => false
  | .tuntil _ => false
  | .tadj _ => false
  | .runAt _ _ => false
  | .runSeam _ _ => false
  | .seam _ _ => false
  | .seamR _ _ => false
  | .safe _ => false
  | .swr _ r => r ≠ 0x10 && r ≠ 0x18
  | .trap _ => false
  | .tret => false
  | .exit => false
  | .bankset _ _ => false
  | .freset _ => false
  | .viewld _ _ _ => false
  | .agset _ _ _ => false
  | .gset _ _ => false
  | .boltnew _ _ => false
  | .boltgrow _ _ _ => false
  | .cut _ => false
  | .defer _ _ _ _ => false
  | .drain _ _ _ _ _ => false
  | .ccpy _ _ _ _ _ _ => false
  | .cgath _ _ _ _ _ _ => false
  | .cscat _ _ _ _ _ _ => false
  | .cfill _ _ _ _ _ => false
  | .cldrec _ _ _ => false
  | .rcfence _ _ => false
  | .migrate _ _ _ => false
  | .carm _ _ => false
  | .craise _ _ => false
  | .shsend _ _ _ => false
  | .cpref _ _ _ => false
  | .ccpyr _ _ _ _ _ => false
  | .cxpose _ _ _ _ _ _ => false
  | .ccvt _ _ _ _ _ _ => false
  | .cflush _ _ _ => false
  | .cinval _ _ _ => false
  | .cwrw _ _ _ _ => false
  | .catom _ _ _ _ _ => false
  | _ => true

/-- Bytes of the code object. -/
def State.codeBytes (s : State) (o n : Nat) : List Byte := s.objRead (capObj s.code.cap) o n
/-- The descriptor of run k: its length and the offset and count of each stream (R52). -/
def State.runDesc (s : State) (k : Nat) : Nat × List (Nat × Nat) :=
  let b := s.codeBytes (s.code.runOff + 64 * k) 64
  (fieldAt b 0 4, [0, 1, 2, 3].map (fun i => (fieldAt b (8 + 8 * i) 4, fieldAt b (12 + 8 * i) 4)))
/-- The words of a stream (R52); a stream buffer holds 4,096. The spec names no refusal of a stream offset that is not a multiple of
4, nor of a stream that reaches past StreamLen: the bytes are read as they stand (DESIGN CHOICE, log entry 81). -/
def State.streamWords (s : State) (oc : Nat × Nat) : List W32 :=
  let n := Nat.min oc.2 4096
  let b := s.codeBytes (s.code.streamOff + oc.1) (4 * n)
  (List.range n).map (fun i => BitVec.ofNat 32 (fieldAt b (4 * i) 4))

/-- Is a slot of a resource marked for timed traffic (R131, R147, R379)? Links and port 6 are 0 to 6, memory ports 7 and up. -/
def State.marked (s : State) (res slot : Nat) : Bool := (s.patternOf res).any (fun x => x.1 = slot && x.2 = 1)
/-- Does a capability name an object that stands and is not pinned (R76, R79)? An entry that R71 makes FREE is none: R67 has its
code. -/
def State.unpinned (s : State) (k : Cap) : Bool :=
  match s.entry (capObj k) with
  | some e => e.kind < 3 && e.state ≠ 0 && e.state < 4 && (!e.pin || e.kind = 2)
  | none => false
/-- The whole window of a capability of a timed form (R79, R92, R130): NOT_PINNED for an unpinned object, else the code of R67,
else NOT_PINNED where TM is lacking. An empty window passes the bound, as a check of 0 bytes does. -/
def State.windowCheck (s : State) (k : Cap) (need : Nat) : Option Nat :=
  let lacks : Option Nat := if hasRights rTM (capRights k) then none else some 0x08C
  if !isSpad k && s.unpinned k then some 0x08C
  else if !hasRights need (capRights k) then some 0x080
  else if capUpper k < capLower k then some 0x081
  else if isSpad k then lacks
  else match s.checkObj k (capLower k) (capUpper k - capLower k) s.ctl.vi s.ctl.world with
    | .bad c => some c
    | _ => lacks
/-- Does an object window span one port (R130, R483)? -/
def State.onePort (s : State) (k : Cap) : Bool :=
  match s.entry (capObj k) with
  | none => true
  | some e =>
    let ps := (e.segs.filter (fun g => g.valid && g.unit * 4096 < capUpper k && capLower k < (g.unit + segUnits g) * 4096)).map
      (fun g => portOf g.base)
    match ps with
    | [] => true
    | p :: t => t.all (fun q => q = p)
/-- A record fit for a timed form with S slots; 0 for one that uses none (R125). -/
def Shape.timedOk (r : Shape) (S : Nat) (fit : Shape → Bool) : Bool :=
  fit r && 6 ≤ r.el && (S = 0 || (r.first < S && 1 ≤ r.stride && r.stride < S))
/-- The record of a timed word, or its code. -/
def State.timedRec (s : State) (n S : Nat) (fit : Shape → Bool) : Except Nat Shape :=
  match tget none s.cx.recs n with
  | none => .error 0x0C2
  | some r => if (shapeOf r.bytes).timedOk S fit then .ok (shapeOf r.bytes) else .error 0x0C1
/-- The stream-load check of a timed memory form: destination, source, slots needed, pieces (R79, R130, R131). Of a word that breaks
both, the spec gives no order: the code of the sides and the one port, TIMED_SPAN, comes before that of a window (DESIGN CHOICE,
log entry 82). -/
def State.memForm (s : State) (d a : Cap) (r : BitVec 4) (fit : Shape → Bool) (count : Shape → Nat) : Option Nat :=
  let q := portQ (s.timedPort a d)
  if isSpad d = isSpad a then some 0x0C9
  else if !s.onePort (if isSpad a then d else a) then some 0x0C9
  else match s.windowCheck a rRD, s.windowCheck d rWR with
    | some c, _ => some c
    | none, some c => some c
    | none, none =>
      match s.timedRec r.toNat (256 * q) fit with
      | .error c => some c
      | .ok x =>
        if (x.slots (256 * q) (count x)).all (fun k => s.marked (7 + s.timedPort a d) k) then none else some 0x0C7
/-- Pieces of a plain copy. -/
def Shape.copyPieces (r : Shape) : Nat := r.total * (r.bytes / 64)
/-- Pieces of a row form. -/
def Shape.rowCount (r : Shape) : Nat := r.count 1 * ((r.count 0 * r.bytes + 63) / 64)
/-- Is the path of one fabric slot marked on every link, and back for a GET (R151)? -/
def State.pathMarked (s : State) (form slot : Nat) (links : List Nat) : Bool :=
  let h := links.length
  let hop (c i : Nat) : Nat := 4 * ((c + 24 * i) % 256) + slot % 4
  if h = 0 then s.marked 6 slot
  else
    ((List.range h).all (fun i => s.marked (nthD 0 links i) (hop (slot / 4) i))) &&
    (form ≠ 2 || (List.range h).all (fun i =>
      let l := nthD 0 links (h - 1 - i)
      s.marked (if l % 2 = 0 then l + 1 else l - 1) (hop (slot / 4 + 8 + 24 * h) i)))
/-- The stream-load check of a timed fabric form (R125, R130, R140, R151). -/
def State.fabForm (s : State) (form : Nat) (d a : Cap) (r : BitVec 4) (word : W64) : Option Nat :=
  if !isSpad d || !isSpad a then some 0x0C9
  else match s.windowCheck a rRD, s.windowCheck d (if form = 1 then rRD ||| rWR else rWR) with
    | some c, _ => some c
    | none, some c => some c
    | none, none =>
      match s.timedRec r.toNat 1024 (if form = 1 then Shape.redKind else Shape.plain) with
      | .error c => some c
      | .ok x =>
        match s.callMember word.toNat with
        | none => some 0x0C4
        | some t =>
          if (x.slots 1024 x.copyPieces).all (fun k => s.pathMarked form k (s.route (s.packageOf t)).2) then none else some 0x0C7
/-- The checks of a C word at stream load (R79, R130). -/
def State.cStream (s : State) (i : Instr) : Option Nat :=
  match i with
  | .ccpyt d a r _ _ _ => s.memForm (s.creg d.toNat) (s.creg a.toNat) r Shape.plain Shape.copyPieces
  | .cgatht d a r _ _ _ => s.memForm (s.creg d.toNat) (s.creg a.toNat) r (fun q => q.rows 64) Shape.rowCount
  | .cscatt d a r _ _ _ => s.memForm (s.creg d.toNat) (s.creg a.toNat) r (fun q => q.rows 64) Shape.rowCount
  | .ccpyrt a r _ _ _ =>
    let k := s.creg a.toNat
    let port := s.portAt (capObj k) (capLower k)
    if !isSpad k && !s.onePort k then some 0x0C9
    else match s.windowCheck k rRD with
      | some c => some c
      | none =>
        match s.timedRec r.toNat (if isSpad k then 0 else 256 * portQ port) Shape.plain with
        | .error c => some c
        | .ok x =>
          if isSpad k || (x.slots (256 * portQ port) x.copyPieces).all (fun j => s.marked (7 + port) j) then none else some 0x0C7
  | .put d a r _ x _ => s.fabForm 0 (s.creg d.toNat) (s.creg a.toNat) r (s.sreg (x.toNat + 1))
  | .putred d a r _ x _ => s.fabForm 1 (s.creg d.toNat) (s.creg a.toNat) r (s.sreg (x.toNat + 1))
  | .get d a r _ _ y => s.fabForm 2 (s.creg d.toNat) (s.creg a.toNat) r (s.sreg (y.toNat + 1))
  | _ => none
/-- The check of an M word that streams or drains under a profile (R240, R259). -/
def State.mStreamWord (s : State) (w : BitVec 3) (t : Option Nat) (i : BitVec 16) : Option Nat :=
  match s.mProf i with
  | none => some 0x46
  | some pr =>
    if (match t with | some t => !pr.types.contains (mType t) | none => false) then some 0x43
    else if viewFits (s.view w.toNat) pr.res then none else some 0x181
/-- The checks of V and M words at stream load, past their legality. -/
def State.vmStream (s : State) (i : Instr) : Option Nat :=
  match i with
  | .mmul _ w _ t i => s.mStreamWord w (some t.toNat) i
  | .macc _ w _ t i => s.mStreamWord w (some t.toNat) i
  | .maccn _ w _ t i => s.mStreamWord w (some t.toNat) i
  | .mmulg _ w _ t i => s.mStreamWord w (some t.toNat) i
  | .maccg _ w _ t i => s.mStreamWord w (some t.toNat) i
  | .mdrn w _ _ i => s.mStreamWord w none i
  | .mdrnc w _ _ i => s.mStreamWord w none i
  | .mdrnr _ w _ _ i => s.mStreamWord w none i
  | .mclr w => if viewFits (s.view w.toNat) 16 then none else some 0x181
  | _ => none
/-- One stream word, at position p with the loop ends open around it (R30, R44): a code, or the open ends behind it. -/
def State.wordCheck (s : State) (e : Engine) (count p : Nat) (ends : List Nat) (w : W32) : Except Nat (List Nat) :=
  let ends := ends.filter (fun x => p < x)
  match s.legal e w.toNat with
  | .error c => .error c
  | .ok i =>
    if !timedLegal i then .error 0x45
    else match i with
      | .loop _ l =>
        if 4 ≤ ends.length || count < p + 1 + l.toNat || ends.any (fun x => x < p + 1 + l.toNat) then .error 0x44
        else .ok ((p + 1 + l.toNat) :: ends)
      | _ =>
        match s.cStream i with
        | some c => .error c
        | none => (match s.vmStream i with | some c => .error c | none => .ok ends)
/-- The sides of a timed C word, in the order of their checks, with the rights that each needs (R79, R130). -/
def State.timedSides (s : State) (i : Instr) : List (Cap × Nat) :=
  match i with
  | .ccpyt d a _ _ _ _ => [(s.creg a.toNat, rRD), (s.creg d.toNat, rWR)]
  | .cgatht d a _ _ _ _ => [(s.creg a.toNat, rRD), (s.creg d.toNat, rWR)]
  | .cscatt d a _ _ _ _ => [(s.creg a.toNat, rRD), (s.creg d.toNat, rWR)]
  | .ccpyrt a _ _ _ _ => [(s.creg a.toNat, rRD)]
  | .put d a _ _ _ _ => [(s.creg a.toNat, rRD), (s.creg d.toNat, rWR)]
  | .putred d a _ _ _ _ => [(s.creg a.toNat, rRD), (s.creg d.toNat, rRD ||| rWR)]
  | .get d a _ _ _ _ => [(s.creg a.toNat, rRD), (s.creg d.toNat, rWR)]
  | _ => []
/-- The capability of a stream word whose window fails with a code (R79): the faulting access of the frame (R399). -/
def State.failCap (s : State) (w : W32) (code : Nat) : Option Cap :=
  match decodeC w.toNat with
  | .ok i => ((s.timedSides i).find? (fun x => s.windowCheck x.1 x.2 = some code)).map Prod.fst
  | .error _ => none
/-- What the frame holds of word p of a stream that fails with a code (R399, R401): an illegal word's offset; the capability of a
failing window, and where that window begins; nothing of another word. -/
def State.wordFault (s : State) (e : Engine) (p : Nat) (w : W32) (code : Nat) : FaultRec :=
  let x : Cap × Nat :=
    if 0x40 ≤ code && code < 0x80 then (0, 4 * p)
    else match (if e = .c then s.failCap w code else none) with
      | some k => (k, capLower k)
      | none => (0, 0)
  ⟨s.now, code, 0, engNo e, x.1, BitVec.ofNat 64 x.2, 0, false, true⟩
/-- The first failing word of a stream: its position, and what the frame holds of it. -/
def State.streamCheck1 (s : State) (e : Engine) (count : Nat) : Nat → List Nat → List W32 → Option (Nat × FaultRec)
  | _, _, [] => none
  | p, ends, w :: t =>
    match s.wordCheck e count p ends w with
    | .error c => some (p, s.wordFault e p w c)
    | .ok ends => s.streamCheck1 e count (p + 1) ends t
/-- Does a word use pattern slots (R364)? -/
def State.usesSlots (s : State) (w : W32) : Bool :=
  match decodeC w.toNat with
  | .ok (.ccpyt _ _ _ _ _ _) => true
  | .ok (.cgatht _ _ _ _ _ _) => true
  | .ok (.cscatt _ _ _ _ _ _) => true
  | .ok (.put _ _ _ _ _ _) => true
  | .ok (.putred _ _ _ _ _ _) => true
  | .ok (.get _ _ _ _ _ _) => true
  | .ok (.ccpyrt a _ _ _ _) => !isSpad (s.creg a.toNat)
  | _ => false

/-! ### RUN, its start and its end (R327 to R329) -/

/-- A chain engine enters a run or the drain before it (R328 step 1): its decoded, unissued entry is dropped. What a conditional
entry that has completed decided for the next entry stands through the run (R116, R329; DEDUCED, log entry 69). -/
def Chain.enterRun (c : Chain) : Chain := { c with prev := c.st, st := 3, cur := none }
/-- Does a core use an island: its half-cluster, its cluster SRAM, its die's fabric and PHY islands, and Rosod's (R7, R372)? -/
def usesIsland (core i : Nat) : Bool :=
  i = core / 4 || i = 64 + core / 8 || i / 2 = 48 + core / 64 || (104 ≤ i && i < 128)
/-- A RUN issue returns the islands that the core uses to ratio 1 (R372). -/
def State.fullRatio (s : State) : State :=
  { s with fw := { s.fw with islands := (s.fw.islands.map (fun i =>
      if usesIsland s.ctl.coreId i.1 then (i.1, i.2.1 &&& ~~~3, i.2.2.1, i.2.2.2) else i)).filter (fun i => i.2 ≠ (0, none, false)) } }
/-- The position of a stream's first word that holds a byte with an uncorrectable error (R65). -/
def State.streamBad (s : State) (oc : Nat × Nat) : Option Nat :=
  if s.mem.bad.isEmpty then none
  else (List.range (Nat.min oc.2 4096)).find? (fun p => s.badObj (capObj s.code.cap) (s.code.streamOff + oc.1 + 4 * p) 4)
/-- A read of the code object at an offset that meets an uncorrectable error, for engine i (R65, R399). -/
def State.codeBadAt (s : State) (i off : Nat) : FaultRec :=
  ⟨s.now, 0x08D, 0, i, s.code.cap, BitVec.ofNat 64 off, 0, false, true⟩
/-- What the frame holds of the first word of a stream that fails (R30, R65, R328, R399). -/
def State.streamFail (s : State) (e : Engine) (oc : Nat × Nat) (ws : List W32) : Option FaultRec :=
  match s.streamCheck1 e ws.length 0 [] ws, s.streamBad oc with
  | some r, some b => some (if b ≤ r.1 then s.codeBadAt (engNo e) (s.code.streamOff + oc.1 + 4 * b) else r.2)
  | some r, none => some r.2
  | none, some b => some (s.codeBadAt (engNo e) (s.code.streamOff + oc.1 + 4 * b))
  | none, none => none
/-- A run is issued: its streams are loaded and checked (R328 steps 1 to 3). -/
def State.loadRun (s : State) (k g : Nat) (seam : Bool) : State :=
  let s := s.fullRatio
  let d := s.runDesc k
  let oc (i : Nat) : Nat × Nat := nthD (0, 0) d.2 i
  let w (i : Nat) : List W32 := s.streamWords (oc i)
  let fail := if s.badObj (capObj s.code.cap) (s.code.runOff + 64 * k) 64 then some (s.codeBadAt 0 (s.code.runOff + 64 * k))
    else [Engine.s, .v, .m, .c].findSome? (fun e => s.streamFail e (oc (engNo e)) (w (engNo e)))
  let st (i : Nat) : Stream := ⟨w i, 0, [], 0⟩
  { s.unask with
    cv := s.cv.enterRun, cm := s.cm.enterRun, cc := s.cc.enterRun
    run := ⟨.lead, 0, d.1, g, s.now, st 0, st 1, st 2, st 3, fail, none, false, seam && (w 3).any s.usesSlots, s.run.past⟩ }
/-- Lmin of a loaded run (R328). -/
def Run.lead_ (r : Run) : Nat :=
  let m := Nat.max (Nat.max r.s.words.length r.v.words.length) (Nat.max r.m.words.length r.c.words.length)
  64 + (m + 3) / 4
/-- Is the core a member of group g? -/
def State.member (s : State) (g : Nat) : Bool :=
  match tget none s.grp.table g with
  | some x => x.members.contains s.ctl.lcore
  | none => false
/-- The operand checks of RUN (R327). -/
def State.runArg (s : State) (v : Nat) (at_ : Bool) : Option Nat :=
  if s.code.runCount ≤ bitsOf v 0 12 || v / 2 ^ 52 ≠ 0 || (at_ && bitsOf v 20 32 ≠ 0) then some 0x204
  else if !s.member (bitsOf v 12 8) then some 0x207
  else none
/-- RUN.AT (R327, R328). -/
def execRunAt (a b : BitVec 5) (s : State) : Out :=
  let v := (s.sreg a.toNat).toNat
  s.outside (s.reading [.s a.toNat, .s b.toNat]
    (match s.runArg v true with
     | some c => s.trapS c
     | none =>
       let t := s.loadRun (bitsOf v 0 12) (bitsOf v 12 8) false
       .next ({ t with run := { t.run with t0 := (s.sreg b.toNat).toNat } }.wait .run)))
/-- S has nothing more to perform before its arrival counts (R330). -/
def State.flushAll (s : State) : State := s.flushComb (2 ^ 16 - 1)
/-- RUN.SEAM (R327, R330). -/
def execRunSeam (a b : BitVec 5) (s : State) : Out :=
  let v := (s.sreg a.toNat).toNat
  s.outside (s.reading [.s a.toNat, .s b.toNat]
    (match s.runArg v false with
     | some c => s.trapS c
     | none =>
       let g := bitsOf v 12 8
       let t := (s.loadRun (bitsOf v 0 12) g true).flushAll
       .next (t.wait (.seam g s.now (bitsOf v 20 32) false (some (bitsOf v 0 12, (s.sreg b.toNat).toNat))))))
/-- SEAM and SEAM.R (R330). -/
def State.seamForm (s : State) (a b : BitVec 5) (restart : Bool) : Out :=
  let v := (s.sreg a.toNat).toNat
  s.outside (s.reading [.s a.toNat, .s b.toNat]
    (if 256 ≤ v || !s.member v then s.trapS 0x207
     else .next (s.flushAll.wait (.seam v s.now ((s.sreg b.toNat).toNat % 2 ^ 32) restart none))))
/-- SEAM (R330). -/
def execSeam (a b : BitVec 5) (s : State) : Out := s.seamForm a b false
/-- SEAM.R (R330, R370). -/
def execSeamR (a b : BitVec 5) (s : State) : Out := s.seamForm a b true
/-- SAFE (R331, R388, R404). -/
def execSafe (i : BitVec 16) (s : State) : Out :=
  if s.code.safeCount ≤ i.toNat then s.trapS 0x44
  else if s.trap.handler then .next s.advS
  else if s.sx.preempt then .next { s.advS with trap := { s.trap with save := some i.toNat } }
  else .next { s.advS with sx := { s.advS.sx with safe := some i.toNat } }

/-- Does a pattern mark a slot of kind 1 on a link that is neither UP nor REPLAY (R159)? -/
def State.linksLost (s : State) (pat : Table (List (Nat × Nat))) : Bool :=
  [0, 1, 2, 3, 4, 5].any (fun k => (tget [] pat k).any (fun x => x.2 = 1) && 2 ≤ (s.link k).st)
/-- The failover pattern and its routes take force (R149, R158, R159, R379). Whether a later run tries the first pattern again, once
one has started on the failover pattern, R159 does not say: the model stays on it (DESIGN CHOICE, log entry 88). -/
def State.failOver (s : State) : State :=
  { s with
    grp := { s.grp with failover := true }
    fab := { s.fab with routes := s.fab.failRoutes.getD s.fab.routes, xbar := tset [] s.fab.xbar s.ctl.launchNo s.fab.failXbar } }
/-- A run starts on the failover pattern: the pattern in force has lost a link, and another is there (R159). -/
def State.switches (s : State) : Bool := !s.grp.failover && s.linksLost s.fab.pattern && s.fab.failRoutes.isSome
/-- A run finds its links lost, in the pattern on which it would start (R159). -/
def State.routesLost (s : State) : Bool :=
  if s.switches then s.linksLost s.fab.failPattern
  else s.linksLost (if s.grp.failover then s.fab.failPattern else s.fab.pattern)
/-- The group with index g declares a release grain other than 256, and the run, a RUN.SEAM, uses pattern slots (R364). -/
def State.grainBad (s : State) : Bool :=
  s.run.slots && (match s.group s.run.group with | some x => x.grain ≠ 256 | none => false)
/-- A failure of this cycle that names no access (R399). -/
def State.failOf (s : State) (code src : Nat) : FaultRec := ⟨s.now, code, 0, src, 0, 0, 0, false, true⟩
/-- A run may not start (R159, R328, R363, R364): the code that its abort records. -/
def State.startCode (s : State) : Option Nat :=
  let r := s.run
  match r.fail with
  | some f => some f.cause
  | none =>
    if r.t0 < r.issued + r.lead_ then some 0x205
    else if s.now < r.t0 then none
    else if s.cv.flying + s.cm.flying + s.cc.flying ≠ 0 then some 0x206
    else if s.routesLost || s.grainBad then some 0x102
    else if !s.clk.aligned then some 0x282
    else none
/-- Is something to do at a run that is led in? -/
def State.runDue (s : State) : Bool :=
  s.run.phase = .lead && s.sx.hold = .run && s.run.abort.isNone &&
  (s.run.fail.isSome || s.run.t0 < s.run.issued + s.run.lead_ || s.run.t0 ≤ s.now)
/-- RUN_START (R159, R328): offset 0, or the detection of an abort before it. -/
def execRunStart (s : State) : Out :=
  if !s.runDue then .next s
  else match s.startCode with
    | some c =>
      .next { s with run := { s.run with fail := some (s.run.fail.getD (s.failOf c 0)) } }
    | none =>
      let st (x : Stream) : Stream := { x with next := s.now }
      let t := if s.switches then s.failOver else s
      .next { t with run := { s.run with
        phase := .running, started := true, s := st s.run.s, v := st s.run.v, m := st s.run.m, c := st s.run.c } }
/-- Is a hold of a group in force at this core (R365)? -/
def State.holdHere (s : State) (g : Nat) : Bool :=
  match tget none s.grp.table g with
  | some x => x.hold.st ≠ 0 && x.hold.q + x.span + 8 ≤ s.now
  | none => false
/-- The last runs, with the present one that has gone on for n cycles; more than 16 reach back past every latency (R107). -/
def Run.ended (r : Run) (n : Nat) : List (Nat × Nat) := ((r.t0, r.t0 + n) :: r.past).take 16
/-- The run is over: S and the chains go on (R329). A SAFE before the RUN has no wait that directly follows it (R388). -/
def State.endRun (s : State) : State :=
  let t := s.chainsBack
  { t with
    run := { t.run with phase := .off, started := false, past := t.run.ended t.run.len }
    regs := { t.regs with pc := t.regs.pc + 4 }
    sx := { t.sx with hold := .no, next := s.now, safe := none } }
/-- RUN_END (R329, R365). The spec names no refusal of a run descriptor whose Length is 0: the run ends at T0, and no word of it
issues (DESIGN CHOICE, log entry 81). -/
def execRunEnd (s : State) : Out :=
  if s.run.phase = .running && s.run.t0 + s.run.len ≤ s.now then
    if s.holdHere s.run.group then .next { s with run := { s.run with phase := .held } } else .next s.endRun
  else .next s

/-! ### Seams (R330, R364, R366, R381) -/

/-- First cycle from `a` with cycle mod n = r. -/
def alignUp (a n r : Nat) : Nat := if n = 0 then a else a + (r + n - a % n) % n
/-- Has every member of a group arrived at its present seam (R330)? -/
def Group.allHere (x : Group) : Bool :=
  x.members.all (fun m => x.released < tget 0 x.arrived m || x.exited.contains m)
/-- A group whose last arrival has just been counted gets its release cycle (R364); a joined seam releases with its parent's (R381). -/
def State.meet (s : State) (g : Nat) : State :=
  match s.group g with
  | none => s
  | some x =>
    if x.allHere && x.met.isNone && x.joined.isNone then
      s.setGroup g { x with
        met := some s.now, releaseAt := alignUp (s.now + x.span + x.rel) x.grain 0, withheld := false, fixed := false }
    else s
/-- One group's count of a member's arrivals. -/
def State.arrive1 (m : Nat) (s : State) (g : Nat) : State :=
  match s.group g with
  | some x => s.setGroup g { x with arrived := tset 0 x.arrived m (x.released + 1) }
  | none => s
/-- Count one arrival of a member at a group; with a joined seam, at its parents too (R330, R381). -/
def State.arrive (s : State) (g m : Nat) : State := ((State.upward 3 s g).foldl (State.arrive1 m) s).meet (s.top g)
/-- SEAM_ARRIVAL (R330): a member's arrival is counted. -/
def execSeamArrival (g m : Nat) (s : State) : Out :=
  match s.group g with
  | some x => .next (if x.members.contains m && tget 0 x.arrived m ≤ x.released then s.arrive g m else s)
  | none => .next s
/-- Has every access of S performed at PACKAGE, or wider (R330, R339)? A byte in a dirty line has not (R344). -/
def State.allPerformed (s : State) : Bool := s.storesDone s.sx.seq && s.sx.loads.all (fun l => l.data.isSome)
/-- The seam at which this core's own arrival may be counted now (R330, R370). -/
def State.arrivalDue (s : State) : Option Nat :=
  match s.sx.hold with
  | .seam g _ _ restart _ =>
    (match s.group g with
     | some x =>
       if tget 0 x.arrived s.ctl.lcore ≤ x.released && s.allPerformed &&
         (!restart || s.cv.flying + s.cm.flying + s.cc.flying = 0) then some g else none
     | none => none)
  | _ => none
/-- Has a member of a group arrived by its present seam? -/
def Group.begun (x : Group) : Bool := x.members.any (fun m => x.released < tget 0 x.arrived m)
/-- The groups whose seam releases with g: itself, and the joined children, with theirs, by whose seam a member has arrived (R381). -/
def State.releasing : Nat → State → Nat → List Nat
  | 0, _, _ => []
  | f + 1, s, g =>
    g :: (s.grp.table.filterMap (fun gx => match gx.2 with
      | some x => if x.joined = some g && x.begun && gx.1 ≠ g then some gx.1 else none
      | none => none)).flatMap (fun h => State.releasing f s h)
/-- Is a hold in force at r0 (R364): requested early enough, and not lifted before? -/
def Group.inForce (x : Group) (r0 : Nat) : Bool := x.hold.q + x.span + 8 ≤ r0 && (x.hold.st ≠ 0 || r0 ≤ x.hold.lift)
/-- The holds in force at r0 of the groups whose seam takes part in a release of g (R364, R381). -/
def State.holders (s : State) (g r0 : Nat) : List Group :=
  ((State.releasing 4 s g).filterMap s.group).filter (fun x => x.inForce r0)
/-- Is the release of g at r0 withheld (R364)? -/
def State.withholds (s : State) (g r0 : Nat) : Bool := !(s.holders g r0).isEmpty
/-- A withheld release gets its cycle: from the latest of the lifts, in the frame phase of r0 (R364, R366). -/
def Group.liftedAt (x : Group) (u : Nat) : Group :=
  { x with
    withheld := false, fixed := true
    releaseAt := alignUp (Nat.max x.releaseAt (u + x.span + x.rel)) 256 (x.releaseAt % 256) }
/-- A release of g that holds in force at r0 keep back: until the last of them is lifted (R364, R366). -/
def State.holdBack (s : State) (g : Nat) (x : Group) : State :=
  let hs := s.holders g x.releaseAt
  s.setGroup g (if hs.any (fun h => h.hold.st ≠ 0) then { x with withheld := true }
    else x.liftedAt ((hs.map (fun h => h.hold.lift)).foldl Nat.max 0))
/-- The restart record of a restartable seam (R370). -/
def State.restartRec (s : State) (g : Nat) : Restart :=
  { group := g, regs := { s.regs with pc := s.regs.pc + 4 }, ctl := s.ctl, views := s.rs.views, power := s.rs.power,
    shadows := (List.range 8).map (fun n => (s.agen n).shadow), gdesc := s.rs.gdesc, dq := s.dq, iss := s.iss, cmp := s.cmp,
    v := s.cv, m := s.cm, c := s.cc, cx := s.cx, uses := 0, seams := match s.group g with | some x => x.released | none => 0 }
/-- What a release does at this core: the epoch, the restart record, S, and, after a restart, the chain engines (R328, R330, R353,
R370, R371). -/
def State.passSeam (s : State) (gs : List Nat) : State :=
  let s := match s.grp.detGroup with
    | some d => if gs.contains d then { s with sx := { s.sx with epoch := s.sx.epoch + 1 } } else s
    | none => s
  match s.sx.hold with
  | .seam g _ _ restart run =>
    if !gs.contains g then s
    else
      let s := if restart then { s with grp := { s.grp with restart := tset none s.grp.restart g (some (s.restartRec g)) } } else s
      let s := { s with trap := { s.trap with chainsOff := s.trap.chainsOff && s.trap.handler } }
      match run with
      | some (_, lead) => { s with run := { s.run with t0 := s.now + lead }, sx := { s.sx with hold := .run } }
      | none => { s.advS with sx := { s.advS.sx with hold := .no, next := s.now } }
  | _ => s
/-- One group's count goes on. -/
def State.release1 (s : State) (g : Nat) : State :=
  match s.group g with
  | some x => s.setGroup g { x with released := x.released + 1, met := none, withheld := false, fixed := false }
  | none => s
/-- A group whose release cycle has come. -/
def State.releaseDue (s : State) : Option Nat :=
  (s.grp.table.find? (fun gx => match gx.2 with
    | some x => x.met.isSome && !x.withheld && x.releaseAt ≤ s.now
    | none => false)).map Prod.fst
/-- SEAM_RELEASE (R364, R366, R381): every member in one cycle, or withheld by a hold in force at r0, tested once. -/
def execSeamRelease (s : State) : Out :=
  match s.releaseDue with
  | none => .next s
  | some g =>
    match s.group g with
    | none => .next s
    | some x =>
      if !x.fixed && s.withholds g x.releaseAt then .next (s.holdBack g x)
      else
        let gs := State.releasing 4 s g
        let t := (s.passSeam gs)
        .next ((gs.foldl State.release1 t) |> fun t => gs.foldl State.meet t)

/-! ### Holds (R365 to R368) -/

/-- A request for a hold (R367); `miss`: a router's, for a DEADLINE_MISS (R158). Late falls by a write only. -/
def GHold.request (h : GHold) (t : Nat) (miss : Bool) : GHold :=
  let h : GHold := if h.st = 0 then { h with st := 1, q := t, noticed := false, lift := 0, miss := false } else h
  { h with miss := h.miss || miss }
/-- A hold is lifted (R367); where there is none, nothing happens. -/
def GHold.lifted (h : GHold) (t : Nat) : GHold := if h.st = 0 then h else { h with st := 0, lift := t, miss := false }
/-- A hold of a group of this launch is requested (R365, R367). -/
def State.requestHold (s : State) (g : Nat) (miss : Bool) : State :=
  match s.group g with
  | some x => s.setGroup g { x with hold := x.hold.request s.now miss }
  | none => s
/-- The release of a group, where a lift takes the last hold that keeps it back (R364, R366). -/
def State.relift (s : State) (gx : Nat × Option Group) : State :=
  match gx.2 with
  | some y =>
    if y.withheld && (s.holders gx.1 y.releaseAt).all (fun h => h.hold.st = 0) then s.setGroup gx.1 (y.liftedAt s.now) else s
  | none => s
/-- A hold of a group is lifted (R366, R367): releases that it withheld get their cycle, and a delayed run end is over. -/
def State.liftHold (s : State) (g : Nat) : State :=
  match s.group g with
  | none => s
  | some x =>
    let t := s.setGroup g { x with hold := x.hold.lifted s.now }
    let t := if x.hold.st = 0 then t else t.grp.table.foldl State.relift t
    let t := { t with env := { t.env with points := t.env.points.filter (fun p => p.1 ≠ g) } }
    if t.run.phase = .held && t.run.group = g then
      let e := t.endRun
      { e with sx := { e.sx with next := s.now + 1 }, cv := { e.cv with next := s.now + 1 },
               cm := { e.cm with next := s.now + 1 }, cc := { e.cc with next := s.now + 1 } }
    else t
/-- Is a member of a group at a hold point, as this package knows it (R365)? -/
def State.atHoldPoint (s : State) (g : Nat) (x : Group) (m : Nat) : Bool :=
  x.exited.contains m || x.released < tget 0 x.arrived m || s.env.points.contains (g, m) ||
  (m = s.ctl.lcore && (s.sx.done || s.sx.hold = .exit || (s.run.phase = .held && s.run.group = g)))
/-- A hold of another launch's group whose last member is at a hold point is HELD; where those stand this core does not see (R365,
R367). -/
def OtherHold.turn (points : List (Nat × Nat)) (x : OtherHold) : OtherHold :=
  if x.hold.st = 1 && x.members.all (fun m => points.contains (256 * x.launch + x.group, m)) then
    { x with hold := { x.hold with st := 2 } }
  else x
/-- Holds whose last member has reached a hold point become HELD (R367). -/
def State.holdTurn (s : State) : State :=
  let s := { s with fw := { s.fw with holds := s.fw.holds.map (OtherHold.turn s.env.points) } }
  s.grp.table.foldl (fun s gx => match gx.2 with
    | some x => if x.hold.st = 1 && x.members.all (s.atHoldPoint gx.1 x) then s.setGroup gx.1 { x with hold := { x.hold with st := 2 } } else s
    | none => s) s
/-- A pending hold past its notice. -/
def State.lateHold (s : State) : Option (Nat × Group) :=
  s.grp.table.findSome? (fun gx => match gx.2 with
    | some x => if x.hold.st = 1 && !x.hold.noticed && x.hold.q + x.notice < s.now then some (gx.1, x) else none
    | none => none)
/-- Is a hold of another launch's group pending past its notice? -/
def OtherHold.isLate (t : Nat) (x : OtherHold) : Bool := x.hold.st = 1 && !x.hold.noticed && x.hold.q + x.notice < t
/-- Is a hold pending past its notice? -/
def State.noticeOver (s : State) : Bool := s.lateHold.isSome || s.fw.holds.any (OtherHold.isLate s.now)
/-- HOLD_NOTICE_ELAPSED (R367): after cycle q + N. -/
def execHoldNoticeElapsed (s : State) : Out :=
  match s.lateHold with
  | some (g, x) => .next (s.setGroup g { x with hold := { x.hold with late := true, noticed := true } })
  | none => .next { s with fw := { s.fw with holds := s.fw.holds.map (fun x =>
      if x.isLate s.now then { x with hold := { x.hold with late := true, noticed := true } } else x) } }
/-- A piece that is not there by nominal arrival plus ease (R158). -/
def State.missing (s : State) : Option Piece :=
  s.fab.pieces.find? (fun p => p.data.isNone && !p.missed && p.nominal + p.ease ≤ s.now)

/-! ### Aborts (R369 to R371) -/

/-- Codes that end the launch when a run is aborted with them (R371). -/
def endsLaunch (code : Nat) : Bool :=
  (0x40 ≤ code && code < 0x80) || code = 0x204 || code = 0x205 || code = 0x206 || code = 0x0C7 || code = 0x08C || code = 0x0C9 ||
  code = 0x181 || code = 0x102
/-- What has failed in this core's run, or the grain of its seam's group, which is checked at stream load (R328, R364). -/
def State.runFail (s : State) : Option FaultRec :=
  match s.run.fail with
  | some f => some f
  | none =>
    match s.sx.hold with
    | .seam _ _ _ _ (some _) => if s.run.phase = .lead && s.grainBad then some (s.failOf 0x102 0) else none
    | _ => none
/-- Is a failure of this core's run still to be made an abort? One of a cycle in which another member's came counts too (R371). -/
def State.ownAbort (s : State) : Option Nat :=
  if s.run.phase = .off then none
  else match s.run.abort with
    | none => s.runFail.map FaultRec.cause
    | some a => if a.at_ = s.now && a.frame.under = 0x284 then s.runFail.map FaultRec.cause else none
/-- Does a group end where a member detects a code (R371): by the code, or without a record that may still be used? -/
def State.groupEnds (s : State) (g code : Nat) : Bool :=
  endsLaunch code || (match tget none s.grp.restart g with | some r => 3 ≤ r.uses | none => true)
/-- The frame of a member: the detector's own, or with ABORT_PEER the detector and its code (R369, R399, R401). A restart is ruled
out by the code alone (R371). -/
def State.abortFrame (s : State) (g code core : Nat) : FaultRec :=
  let own := if core = s.ctl.lcore && s.run.phase ≠ .off && s.run.group = g then s.runFail.bind (fun f => if f.cause = code then some f else none) else none
  let inRun : Bool := s.run.phase ≠ .off
  match own with
  | some f =>
    let info : W64 := if s.run.phase = .lead && 0x40 ≤ code && code < 0x80 then BitVec.ofNat 64 f.src else 0
    ⟨s.now, 0x280, code, f.src, f.cap, f.off, info, inRun, !endsLaunch code⟩
  | none => ⟨s.now, 0x280, 0x284, 4, 0, 0, BitVec.ofNat 64 (core % 2 ^ 17 + code % 2 ^ 10 * 2 ^ 32), inRun, !endsLaunch code⟩
/-- The hold of a group that aborts is over (R367), and so is what it keeps back. -/
def State.dropHold (s : State) (g : Nat) : State :=
  match s.group g with
  | some x =>
    if x.hold.st = 0 then s
    else
      let t := s.setGroup g { x with hold := { x.hold with st := 0, lift := s.now, miss := false } }
      t.grp.table.foldl State.relift t
  | none => s
/-- RUN_ABORT (R367, R369, R371): a member of a group detects a code in this cycle: this core itself where its run has failed so,
otherwise another one. Of several in one cycle a member's own takes its frame, and any that ends the launch decides. -/
def execRunAbort (d : Detected) (s : State) : Out :=
  let g := d.group
  let code := d.code
  let s := s.dropHold g
  if !s.member g || !s.sx.on then .next s
  else
    let f := s.abortFrame g code d.core
    match s.run.abort with
    | none => .next { s with run := { s.run with abort := some ⟨s.now, g, f, code⟩ } }
    | some a =>
      if a.at_ ≠ s.now || a.group ≠ g then .next s
      else
        let c := if endsLaunch a.code then a.code else code
        let h := if a.frame.under = 0x284 && f.under ≠ 0x284 then f else a.frame
        .next { s with run := { s.run with abort := some ⟨a.at_, g, { h with restartable := !endsLaunch c }, c⟩ } }
/-- The span of a group. -/
def State.spanAt (s : State) (g : Nat) : Nat := match s.group g with | some x => x.span | none => 0
/-- Is the stop of an abort due (R369)? A core that stops for a reason of its own comes to it afterwards. -/
def State.abortDue (s : State) : Bool :=
  match s.run.abort with
  | some a => s.sx.on && s.trap.stop.isNone && s.trap.save.isNone && a.at_ + s.spanAt a.group + 8 ≤ s.now
  | none => false
/-- ABORT_STOP (R369): issue stops, the chains return, the frame follows when everything has landed. -/
def execAbortStop (s : State) : Out :=
  match s.run.abort with
  | some a =>
    if s.abortDue then
      let s := match s.sx.hold with | .seam g _ _ _ _ => s.withdraw g | _ => s
      let t := s.chainsBack
      .next { t with
        run := { t.run with phase := .off, past := if t.run.started then t.run.ended (Nat.min t.run.len (s.now - t.run.t0)) else t.run.past }
        sx := { t.sx with hold := .no }
        trap := { t.trap with stop := some a.frame } }
    else .next s
  | none => .next s
/-- A run in progress fails with a code of its own (R65, R363, R369, R373). -/
def State.failRun (s : State) (f : FaultRec) : State :=
  if s.run.phase = .off then s
  else match s.run.fail with
    | some _ => s
    | none => { s with run := { s.run with fail := some f } }
/-- A group as its restart finds it: every member has arrived at the seam of the record, which gets a new release (R364, R371). The
hold that a DEADLINE_MISS had asked for is over. -/
def Group.fresh (x : Group) (t seams code : Nat) : Group :=
  { x with
    released := seams, arrived := x.members.map (fun m => (m, seams + 1)), met := some t, withheld := false, fixed := false
    releaseAt := alignUp (t + x.span + x.rel) x.grain 0, exited := []
    hold := if code = 0x100 then { x.hold with st := 0, lift := 0, miss := false } else x.hold }
/-- Why this core waits for a restart of a group (R371): the code decided on; or, with its group held, a DEADLINE_MISS that another
package's router met (R158; DEDUCED, log entry 88). -/
def State.restartCode (s : State) (g : Nat) : Option Nat :=
  match s.grp.waitRestart with
  | some (h, code) => if h = g then some code else none
  | none =>
    match s.group g with
    | some x => if x.hold.st = 2 && x.members.contains s.ctl.lcore then some 0x100 else none
    | none => none
/-- May a group restart after an abort with a code (R371): Aligned again, its trip cleared, or a failover pattern to be in force. -/
def State.restartReady (s : State) (code : Nat) : Bool :=
  if code = 0x282 then s.clk.aligned
  else if code = 0x281 then !s.fw.islands.any (fun i => usesIsland s.ctl.coreId i.1 && i.2.2.2)
  else if code = 0x100 then s.grp.failover || s.fab.failRoutes.isSome
  else true
/-- GROUP_RESTART (R370, R371): this core takes its restart record, and S and the chains go on at a new release of its seam. -/
def execGroupRestart (g : Nat) (s : State) : Out :=
  match s.restartCode g, tget none s.grp.restart g with
  | some code, some r =>
    if !s.restartReady code || 3 ≤ r.uses then .next s
    else
      let rs : RegSpace := { RegSpace.reset with
        power := r.power, views := r.views, gdesc := r.gdesc
        ags := ((List.range 8).zip r.shadows).filterMap (fun x =>
          if x.2.isSome then some (x.1, { AGen.reset with shadow := x.2 }) else none) }
      let t := if code = 0x100 && !s.grp.failover then s.failOver else s
      let t := match s.group g with | some x => t.setGroup g (x.fresh s.now r.seams code) | none => t
      .next { t with
        regs := { r.regs with pc := r.regs.pc - 4 }, ctl := { r.ctl with coreId := s.ctl.coreId }, rs := rs, dq := r.dq, iss := r.iss, cmp := r.cmp
        cv := { r.v with next := s.now }, cm := { r.m with next := s.now }, cc := { r.c with next := s.now }, cx := r.cx
        me := MEng.reset, dpend := [], pend := []
        trap := { Trap.reset with chainsOff := true }
        run := Run.reset
        sx := { s.sx with on := true, next := s.now, hold := .seam g s.now 0 false none, blk := none, safe := none, done := false }
        grp := { t.grp with restart := tset none t.grp.restart g (some { r with uses := r.uses + 1 }), waitRestart := none } }
  | _, _ => .next s

/-! ### The tape's control (R360 to R363, R439) -/

/-- TADJ_STEP_APPLY (R360): once in 1,024 clock cycles one unit of StepPending falls due: a cycle to swallow, or one to keep. One that
is still due is not joined by another. -/
def execTadjStepApply (s : State) : Out :=
  if s.clk.clocks < 1024 then .next s
  else
    let u : Int := if 0 < s.clk.stepPending then 1 else if s.clk.stepPending < 0 then -1 else 0
    .next { s with clk := { s.clk with clocks := 0, unit := u } }
/-- TAPELOAD (R363, R439): once; the value is the tape's at the next tape cycle. -/
def execTapeload (v : W64) (s : State) : Out :=
  if s.clk.loaded then .next s
  else .next { s with clk := { s.clk with load := some v.toNat, loaded := true, aligned := s.clk.aligned || s.inStep } }
/-- The links that send a sync flit now (R153, R362). -/
def State.syncDue (s : State) : List Nat :=
  [0, 1, 2, 3, 4, 5].filter (fun k => (s.link k).st < 2 && (s.link k).syncSent + 4096 ≤ s.now)
/-- SYNC_FLIT_SEND (R153, R362): the flit comes to the head of what leaves untimed, and takes its stamps as it leaves. -/
def execSyncFlitSend (s : State) : Out :=
  .next (s.syncDue.foldl (fun (s : State) k =>
    s.setLink k { s.link k with out := ⟨.sync 0 0, k, 0, none⟩ :: (s.link k).out, syncSent := s.now }) s)
/-- Aligned after a measurement (R363): a run in progress is aborted; one whose T0 is still to come finds it there. -/
def State.realign (s : State) : State :=
  if !s.near then
    let t := { s with clk := { s.clk with aligned := false } }
    if s.run.phase = .lead then t else t.failRun (s.failOf 0x282 5)
  else s.alignAgain
/-- SYNC_FLIT_RECEIVE (R362, R363): the exchange is that of the last departure which the far end has received. -/
def execSyncFlitReceive (link : Nat) (remoteDep remoteArr : Int) (s : State) : Out :=
  let l := s.link link
  let ta : Int := 64 * (s.now : Int)
  let off := Int.tdiv ((ta - remoteDep) - (remoteArr - l.syncDep)) 2
  let del := Int.tdiv ((ta - remoteDep) + (remoteArr - l.syncDep)) 2
  if 2 ≤ l.st then .next s
  else if !l.syncSeen then .next (s.setLink link { l with syncArr := ta })
  else .next (s.setLink link { l with syncArr := ta, offset := off, delay := del, valid := true }).realign

end Sys2Proof.Machine
end

