-- ==== Sys2Proof/Machine/Stops.lean ====
section
/-! DEFINITION. How a core stops: the drain, the fault frame, the handler, the save for pre-emption, the end by another
core or the host, EXIT's end, and a word that S cannot run (R53, R122, R211, R333, R373, R388, R397 to R408). -/

namespace Sys2Proof.Machine

/-! ### Fetch (R53) -/

/-- The text word at PC, CODE_BOUND (R53), or MEM_UNCORR (R65). Of a PC that is no multiple of 4, which SETB with BR or TRET can
make, the spec gives no check: the four bytes at that offset are fetched (DESIGN CHOICE, log entry 83). -/
def State.fetchS (s : State) : Except Nat Nat :=
  let pc := s.regs.pc.toNat
  if pc < capLower s.code.cap || capUpper s.code.cap < pc + 4 then .error 0x001
  else if s.badObj (capObj s.code.cap) (s.code.textOff + pc) 4 then .error 0x08D
  else .ok (leNat (s.codeBytes (s.code.textOff + pc) 4))
/-- ILLEGAL_WORD (R30, R53): the word at PC is out of bounds or is no instruction of S. -/
def execIllegalWord (s : State) : Out :=
  match s.fetchS with
  | .error c => s.trapS c
  | .ok w =>
    match decodeFor .s w with
    | .error c => s.trapS c
    | .ok _ => .next s

/-! ### The end of a launch (R386, R406) -/

/-- Is a launch the one that the core runs? -/
def State.mine (s : State) (l : Launch) : Bool := l.no = s.ctl.launchNo && l.vi = s.ctl.vi && l.no ≠ 0
/-- The launch of a number that has not retired. -/
def State.launchNo (s : State) (no : Nat) : Option Launch := s.fw.launches.find? (fun l => l.no = no && no ≠ 0)
/-- Rewrite the launches. -/
def State.mapLaunch (s : State) (f : Launch → Launch) : State :=
  { s with fw := { s.fw with launches := s.fw.launches.map f } }
/-- A launch that runs ends with a code; one that is already ending keeps its own (R386). -/
def Launch.finish (l : Launch) (code : Nat) : Launch :=
  if l.st = 6 then l else { l with st := 6, status := code, scrubAt := 0 }
/-- The launch of this core ends with a code, and the core is not resumed (R406). -/
def State.endLaunch (s : State) (code : Nat) : State :=
  let t := s.mapLaunch (fun l => if s.mine l then l.finish code else l)
  { t with sx := { t.sx with on := false } }

/-! ### The drain (R122, R397) -/

/-- Has every write issued landed, and has every issued command ended? -/
def State.quiet (s : State) : Bool :=
  s.pend.isEmpty && s.sx.blk.isNone && s.sx.loads.isEmpty && s.sx.stores.isEmpty && s.sx.comb.isEmpty &&
  s.cv.cmds.isEmpty && s.cm.cmds.isEmpty && s.cc.cmds.isEmpty && s.dpend.isEmpty && s.cx.migs.isEmpty &&
  s.me.loads.isEmpty && s.me.stream.isNone && s.me.rows.isEmpty && s.me.drain.isNone && s.me.pushing.isEmpty &&
  s.sram.timed.isEmpty && s.rs.fills.isEmpty && (s.agen 6).beats.isEmpty && (s.agen 7).beats.isEmpty && s.sx.sigs.isEmpty
/-- Is the core stopping: a fault (R397), or a pre-emption request met (R331)? -/
def State.stopping (s : State) : Bool := s.trap.stop.isSome || s.trap.save.isSome
/-- S waits at a seam whose last arrival is counted: its release stands (R323, R330). -/
def State.heldMet (s : State) : Bool := match s.sx.hold with | .seam g _ _ _ _ => s.seamMet g | _ => false
/-- What a stopping core still lets go: combining lines leave their buffer, and a DEFER whose push its FIFO has not accepted is
unissued (R122, R294, R315, R397); every other issued command runs to its end or its bound. -/
def State.drainStep (s : State) : State :=
  if s.stopping then
    (s.dpend.filter (fun x => x.push)).foldl (fun s x => (s.dropDq x).cancelId .v x.cmd) (s.flushComb (2 ^ 16 - 1))
  else s
/-- The record follows in the next cycle once the drain is over (R397). -/
def State.markReady (s : State) : State :=
  { s with trap := { s.trap with ready := s.stopping && s.quiet && !s.heldMet } }

/-! ### The frame (R399 to R401) -/

/-- Codes whose disposition is End (R406). -/
def endCode (c : Nat) : Bool := c = 0x083 || c = 0x084 || c = 0x092 || c = 0x093
/-- Codes that the handler takes outside a run (R406). -/
def handlerCode (c : Nat) : Bool :=
  (c < 0x100 || c = 0x101 || c = 0x102 || (0x140 ≤ c && c < 0x280) || c = 0x281 || c = 0x283) && !endCode c
/-- A position word (R400). -/
def Position.word (p : Position) : W64 :=
  BitVec.ofNat 64 (p.e % 2 ^ 24 + p.head % 2 ^ 32 * 2 ^ 24 + (if p.timed then 2 ^ 63 else 0))
/-- Flags of a frame (R399). -/
def Frame.flags (f : Frame) : Nat :=
  (if f.fault.restartable then 1 else 0) + (if f.fault.inRun then 2 else 0) + (if f.inHandler then 4 else 0) +
    (if f.multi then 8 else 0)
/-- The 128 bytes of a frame (R399). -/
def Frame.bytes (f : Frame) : List Byte :=
  leBytes 2 f.fault.cause ++ leBytes 2 f.fault.under ++ leBytes 1 f.fault.src ++ leBytes 1 f.flags ++ leBytes 2 f.second ++
  leBytes 8 f.fault.at_ ++ leBytes 8 f.sPos.toNat ++ leBytes 8 f.v.word.toNat ++ leBytes 8 f.m.word.toNat ++
  leBytes 8 f.c.word.toNat ++ leBytes 16 f.fault.cap.toNat ++ leBytes 8 f.fault.off.toNat ++ leBytes 8 f.fault.info.toNat ++
  leBytes 8 (match f.sStream with | some p => p.word.toNat | none => 0) ++ List.replicate 40 0
/-- The position of a chain engine, or of its stream where a run was under way (R400). -/
def State.posOf (s : State) (e : Engine) (timed : Bool) : Position :=
  if timed then ⟨0, 4 * (s.run.stream e).pos, true⟩ else ⟨(s.chain e).e, (s.chain e).pos, false⟩
/-- The frame of a fault, as the core stands after its drain (R399, R402). -/
def State.frameOf (s : State) (f : FaultRec) : Frame :=
  let inStream := f.cause = 0x280 && f.under ≠ 0 && s.run.started
  let lost := s.trap.second = 0x0C0 && bitsOf s.ctl.cboundinfo.toNat 43 1 = 0
  { fault := { f with restartable := f.restartable && !endCode f.cause && !lost }
    second := s.trap.second, multi := s.trap.multi, inHandler := s.trap.handler, sPos := s.regs.pc
    v := s.posOf .v inStream, m := s.posOf .m inStream, c := s.posOf .c inStream
    sStream := if f.cause = 0x280 then some ⟨0, if inStream then 4 * s.run.s.pos else 0, true⟩ else none }

/-! ### The record and what follows it (R371, R397, R403 to R406) -/

/-- A chain engine drops its decoded entry and its cancellation mark (R122). The outcome of a conditional entry (`after`) stands through
the stop, and a skipped entry that was decoded but had not issued its token is decoded again: the saved position names neither
(DEDUCED, log entry 111). -/
def Chain.rest (c : Chain) : Chain := { c with cur := none, cut := none }
/-- The core as it stands once stopped: waits withdrawn, decoded entries dropped (R122, R323). -/
def State.settled (s : State) : State :=
  let w := if s.run.phase = .held then s.endRun else s.withdrawWait
  let t := if w.run.phase = .off then w else { w.chainsBack with run := { w.run with phase := .off } }
  { t.unask with cv := t.cv.rest, cm := t.cm.rest, cc := t.cc.rest }
/-- s30 as the handler finds it (R404). -/
def Frame.s30 (f : Frame) : W64 :=
  BitVec.ofNat 64 (f.fault.cause % 1024 + f.fault.under % 1024 * 2 ^ 16 + f.fault.src * 2 ^ 32 + f.flags * 2 ^ 40)
/-- HANDLER_ENTRY (R404): taking an exception: the frame and the originals are held, s29 to s31 are written, S goes to text
offset 0 in the next cycle, and V, M and C stay stopped, and so do the
generators, whose beats are dropped (R402). -/
def State.enterHandler (s : State) (f : Frame) : State :=
  let s := s.mapAgs AGen.pause
  let t := ((s.setS 29 f.fault.off).setS 30 f.s30).setS 31 f.sPos
  { t with
    regs := { t.regs with pc := 0 }
    trap := { Trap.reset with
      frame := some f, handler := true, orig := [s.sreg 29, s.sreg 30, s.sreg 31], chainsOff := true }
    sx := { t.sx with next := s.now + 1, safe := none } }
/-- What a recorded frame leads to (R371, R403, R406, R408). -/
def State.dispose (s : State) (f : Frame) : State :=
  let stopped : State := { s with trap := { Trap.reset with frame := some f }, run := { s.run with abort := none } }
  if f.fault.cause = 0x280 && f.fault.under ≠ 0 then
    let a := match s.run.abort with | some a => (a.group, a.code) | none => (s.run.group, f.fault.under)
    if endsLaunch a.2 then stopped.endLaunch 0x280
    else if s.groupEnds a.1 a.2 then stopped.endLaunch a.2
    else { stopped with grp := { stopped.grp with waitRestart := some a }, sx := { stopped.sx with on := false } }
  else if f.fault.src = 4 then stopped.endLaunch f.fault.cause
  else if handlerCode f.fault.cause && 4 ≤ s.code.entryOff && !s.trap.handler then s.enterHandler f
  else stopped.endLaunch f.fault.cause

/-! ### The save at a safe point (R211, R261, R298, R331, R388, R389) -/

/-- The live-map record of an index (R389). -/
def State.liveMap (s : State) (i : Nat) : List Byte := s.codeBytes (s.code.safeOff + 128 * i) 128
/-- Does a live map name the block of a register-space address? -/
def liveAt (m : List Byte) (a : Nat) : Bool := bitsOf (nthD 0 m (a / 2048)).toNat (a / 256 % 8) 1 = 1
/-- A generator as it is saved: what it has fetched is dropped (R211). -/
def AGen.saved (g : AGen) : AGen := { g with kf := g.k, nextR := 0, halt := false, pops := [], beats := [] }
/-- The register space as it is saved (R211): live bytes, waking clusters ON, latches and fetched beats dropped. -/
def State.savedRs (s : State) (live : Option (List Byte)) : RegSpace :=
  { s.rs with
    bytes := s.rs.bytes.filter (fun c => match live with | some m => liveAt m c.1 | none => true)
    power := (s.rs.power.filter (fun p => p.2.1 = 1))
    ags := (s.rs.ags.map (fun g => (g.1, g.2.saved))).filter (fun g => g.2 ≠ .reset)
    latch0 := [], latch1 := [], fills := [] }
/-- The save of this core; no live map keeps every byte (R392). -/
def State.saveOf (s : State) (live held : Option Nat) : Saved :=
  { no := s.ctl.launchNo, logical := s.ctl.lcore, regs := s.regs, ctl := s.ctl, code := s.code
    rs := s.savedRs (live.map s.liveMap), dq := s.dq, iss := s.iss, cmp := s.cmp, v := s.cv, m := s.cm, c := s.cc
    cx := s.cx, grp := s.grp, epoch := s.sx.epoch, held := held }
/-- Physical cores bound to a launch number (R383). -/
def State.boundTo (s : State) (no : Nat) : List Nat :=
  (s.fw.bind.filter (fun b => b.2.toNat % 256 = no && no ≠ 0)).map Prod.fst
/-- Is a core of this package that a launch holds done: this core, or another as the package has heard (R333, R386)? -/
def State.doneCore (s : State) (l : Launch) (c : Nat) : Bool :=
  s.fw.doneCores.contains c || (c = s.ctl.coreId && s.mine l && s.sx.done)
/-- The SCRATCH and FIFO banks of a launch number, in rising order of cluster and bank (R389, R390). -/
def State.savedBanks (s : State) (no : Nat) : List Nat :=
  (s.sram.cfg.filter (fun x => x.2.launchTag = no && (x.2.mode = 1 || x.2.mode = 3))).map Prod.fst
/-- The record of a bank that is copied out (R390). -/
def State.bankRecord (s : State) (k : Nat) : List Byte :=
  mreadN s.sram.bytes (65536 * k) 65536 ++ leBytes 8 (s.cfgOf k).word ++ leBytes 8 (s.fifostAt k) ++ List.replicate 4080 0
/-- SaveCap of a launch, and the offset of its bank area (R377, R390). -/
def Launch.bankArea (l : Launch) : Cap × Nat :=
  let k : Cap := BitVec.ofNat 128 (fieldAt l.record 168 16)
  (k, capLower k + 327680 * fieldAt l.record 32 2)
/-- A SAVED launch's banks: where SaveCap reaches past the last bank record firmware may copy them out, or leave them; which it does
is open (R389, R390): a free value (log entry 92). -/
def State.copyBanks (s : State) (l : Launch) : State :=
  let ks := s.savedBanks l.no
  let a := l.bankArea
  if l.st ≠ 5 || ks.isEmpty || capUpper a.1 < a.2 + 69632 * ks.length || s.freeNat 7 % 2 = 0 then s
  else
    ((List.range ks.length).zip ks).foldl (fun (u : State) x => u.objWrite (capObj a.1) (a.2 + 69632 * x.1) (u.bankRecord x.2))
      (s.bump.mapLaunch (fun x => if x.vi = l.vi && x.id = l.id then { x with copied := ks } else x))
/-- A core is free to be bound again (R383). -/
def State.freeCore (s : State) (c : Nat) : State :=
  { s with fw := { s.fw with
    bind := tset 0 s.fw.bind c 0, bindSt := tset 0 s.fw.bindSt c 0, doneCores := s.fw.doneCores.filter (fun x => x ≠ c) } }
/-- Has a launch run longer than its Quantum, which is not 0, since its dispatch or resume (R387)? -/
def State.overQuantum (s : State) (l : Launch) : Bool :=
  fieldAt l.record 12 4 ≠ 0 && l.since + 1024 * fieldAt l.record 12 4 < s.now
/-- A launch comes to be SAVED. One that has run longer than its Quantum goes behind the launches that wait: so a ready one of its
priority waits no longer than R387 says (DESIGN CHOICE, log entry 40). -/
def State.saveLaunch (s : State) (m : Launch) : State :=
  if s.overQuantum m then
    { s with fw := { s.fw with launches := s.fw.launches.filter (fun x => !(x.vi = m.vi && x.id = m.id)) ++ [m] } }
  else s.mapLaunch (fun x => if x.vi = m.vi && x.id = m.id then m else x)
/-- One core of a STOPPING launch has stopped, or is done: with every core stopped or done the launch is SAVED, and its cores are free
(R386, R388). -/
def State.lastStopped (s : State) (l : Launch) : State :=
  if l.st ≠ 4 || !(s.boundTo l.no).all (s.doneCore l) then s
  else
    let m := { l with preemptions := l.preemptions + 1, st := 5 }
    let t := s.saveLaunch m
    (s.boundTo l.no).foldl State.freeCore (t.copyBanks m)
/-- Where the slot of a logical core begins in the save area of a launch (R389). -/
def Launch.slot (l : Launch) (logical : Nat) : Nat := capLower l.bankArea.1 + 327680 * (logical - fieldAt l.record 28 4)
/-- The save of this core is written to its slot of the save area, whose layout is internal to firmware: how many of its bytes are
written, and what they hold, are free values (R389, log entry 103). -/
def State.writeSlot (s : State) (l : Launch) : State :=
  let n := s.freeNat 9 % 327681
  s.bump.objWrite (capObj l.bankArea.1) (l.slot s.ctl.lcore) ((List.range n).map (fun i => Config.freeByte s.env.free i))
/-- The holds of this launch's groups as another core of the package sees them once this one is saved (R368). -/
def State.otherHolds (s : State) : List OtherHold :=
  s.grp.table.filterMap (fun gx => match gx.2 with
    | some x => if x.hold.st ≠ 0 || x.hold.late then some ⟨s.ctl.launchNo, gx.1, x.members, x.notice, x.hold⟩ else none
    | none => none)
/-- The core is saved, and is free to be bound again; with no other core to stop, the launch is SAVED (R383, R386, R388 to R391). -/
def State.saveCore (s : State) (live held : Option Nat) : State :=
  let l? := s.fw.launches.find? s.mine
  let t := match l? with | some l => s.writeSlot l | none => s
  let t := { (t.freeCore s.ctl.coreId) with
    trap := Trap.reset
    sx := { t.sx with on := false, saved := true, preempt := false, safe := none } }
  let t := { t with fw := { t.fw with saved := t.fw.saved ++ [s.saveOf live held], holds := t.fw.holds ++ s.otherHolds } }
  match l? with | some l => t.lastStopped l | none => t
/-- Other cores of a launch on this package that still run (R386). -/
def State.othersRunning (s : State) (l : Launch) : List Nat :=
  (s.boundTo l.no).filter (fun c => c ≠ s.ctl.coreId && tget 0 s.fw.bindSt c = 2 && !s.fw.doneCores.contains c)
/-- Another core of the package, of a STOPPING launch, is saved (R386, R388). Which one it is shows nowhere but in its bind entry: the
lowest (DESIGN CHOICE, log entry 104). -/
def State.otherStops (s : State) : State :=
  match s.fw.launches.find? (fun l => l.st = 4 && !(s.othersRunning l).isEmpty) with
  | some l => (s.freeCore ((s.othersRunning l).headD 0)).lastStopped l
  | none => s
/-- CORE_STOP_RECORD (R397, R399, R404, R406): after the drain the core records its frame, and enters its handler, waits for a
restart or ends its launch; a core stopped for pre-emption is saved. Where this core has nothing to record, it is the record of another
core of the package (R386). -/
def execCoreStopRecord (s : State) : Out :=
  if !s.trap.ready then .next s.otherStops
  else
    let t := s.settled
    match s.trap.stop with
    | some f => .next (t.dispose (t.frameOf f))
    | none =>
      match s.trap.save with
      | some i => .next (t.saveCore (if i < s.code.safeCount then some i else none) (if s.run.phase = .held then some s.run.group else none))
      | none => .next s
/-- Is S in a wait that directly follows a SAFE executed with no request pending, and not met (R388)? -/
def State.savable (s : State) : Option Nat :=
  match s.sx.hold with
  | .no => none
  | .run => if s.run.phase = .held then some s.code.safeCount else none
  | .exit => none
  | _ => if s.heldMet then none else s.sx.safe
/-- A pre-emption request at this core (R331, R388, R392): it stops at once in a savable wait, otherwise at its next SAFE. -/
def State.preemptHere (s : State) : State :=
  let t := { s with sx := { s.sx with preempt := true } }
  match s.savable with
  | some i => if s.trap.handler || s.stopping then t else { t with trap := { t.trap with save := some i } }
  | none => t

/-- A group has come to hold after a DEADLINE_MISS (R158, R371): the failover pattern is installed and this core waits for the
restart of its group, or its launch ends: without a record that may still be used, and where the launch has no failover pattern to
install (DESIGN CHOICE, log entry 88). -/
def State.missTurn1 (s : State) (gx : Nat × Option Group) : State :=
  match gx.2 with
  | none => s
  | some x =>
    if x.hold.st ≠ 2 || !x.hold.miss || !x.members.contains s.ctl.lcore then s
    else
      let t := s.setGroup gx.1 { x with hold := { x.hold with miss := false } }
      if t.groupEnds gx.1 0x100 || (t.fab.failRoutes.isNone && !t.grp.failover) then t.endLaunch 0x100
      else
        let u := t.failOver.chainsBack
        { u with
          run := { u.run with phase := .off }
          sx := { u.sx with on := false, hold := .no }
          grp := { u.grp with waitRestart := some (gx.1, 0x100) } }
/-- The groups that hold after a miss (R158). -/
def State.missTurn (s : State) : State := if s.sx.on then s.grp.table.foldl State.missTurn1 s else s

/-! ### Quiet boundaries, EXIT and trips (R333, R373, R408) -/

/-- A quiet boundary of the core (R408). -/
def State.boundary (s : State) : Bool :=
  s.sx.on && s.run.phase = .off && !s.trap.handler && s.sx.blk.isNone && s.sx.hold ≠ .exit && !s.stopping
/-- ASYNC_ABORT_TAKEN (R408): at a quiet boundary the core stops with Source 4 and the launch's code. -/
def execAsyncAbortTaken (code : Nat) (s : State) : Out :=
  if s.boundary then
    .next { s with trap := { s.trap with stop := some ⟨s.now, code, 0, 4, 0, 0, 0, false, true⟩ } }
  else .next s
/-- Has a chain engine nothing left to run (R333)? -/
def Chain.spent (c : Chain) : Bool := c.cmds.isEmpty && (c.st = 0 || (c.st = 1 && c.e = c.t && c.cur.isNone))
/-- Is EXIT complete? -/
def State.exitDone (s : State) : Bool :=
  s.sx.hold = .exit && s.sx.on && !s.stopping && s.cv.spent && s.cm.spent && s.cc.spent
/-- A member that has exited counts as arrived at every later seam (R330). -/
def State.exitGroups (s : State) : State :=
  let gs := s.grp.table.filterMap (fun gx => match gx.2 with
    | some x => if x.members.contains s.ctl.lcore && !x.exited.contains s.ctl.lcore then some gx.1 else none
    | none => none)
  let t := gs.foldl (fun (s : State) g => match s.group g with
    | some x => s.setGroup g { x with exited := x.exited ++ [s.ctl.lcore] }
    | none => s) s
  gs.foldl State.meet t
/-- Another core of the package reports that it is done: the lowest that runs (R386; DESIGN CHOICE, log entry 104). -/
def State.otherDone (s : State) : State :=
  match s.fw.launches.find? (fun l => (l.st = 3 || l.st = 4) && !(s.othersRunning l).isEmpty) with
  | some l =>
    let t := { s with fw := { s.fw with doneCores := s.fw.doneCores ++ [(s.othersRunning l).headD 0] } }
    if (t.boundTo l.no).length < fieldAt l.record 32 2 then t.lastStopped l else t
  | none => s
/-- CORE_DONE (R330, R333): the core reports that it is done, the last of a launch whose other cores are saved too (R388). Where this
core has not, it is the report of another. -/
def execCoreDone (s : State) : Out :=
  if s.exitDone then
    let t := s.exitGroups.flushComb (2 ^ 16 - 1)
    let t := { t with sx := { t.sx with on := false, done := true, hold := .no } }
    .next (match t.fw.launches.find? t.mine with
      | some l => if (t.boundTo l.no).length < fieldAt l.record 32 2 then t.lastStopped l else t
      | none => t)
  else .next s.otherDone
/-- An island: ISLCTL's ratio and voltage, a held write, Trip (R440). -/
def State.island (s : State) (i : Nat) : W64 × Option W64 × Bool := tget (0, none, false) s.fw.islands i
/-- Write an island. -/
def State.setIsland (s : State) (i : Nat) (x : W64 × Option W64 × Bool) : State :=
  { s with fw := { s.fw with islands := tset (0, none, false) s.fw.islands i x } }
/-- Is the group of this core's run HELD, with the run still to start (R373)? -/
def State.leadHeld (s : State) : Bool :=
  s.run.phase = .lead && (match s.group s.run.group with | some x => x.hold.st = 2 | none => false)
/-- Is an island timed by this core (R372)? While a hold is HELD the group's islands are not (R373). -/
def State.islandTimed (s : State) (i : Nat) : Bool :=
  usesIsland s.ctl.coreId i && (s.run.phase = .lead || s.run.phase = .running) && !s.leadHeld
/-- THERMAL_TRIP (R373): the island's clock stops; a run that uses it is aborted, an untimed core on it faults. -/
def execThermalTrip (island : BitVec 7) (s : State) : Out :=
  let i := island.toNat
  let x := s.island i
  let t := s.setIsland i (x.1, x.2.1, true)
  if !usesIsland s.ctl.coreId i then .next t
  else if t.run.phase ≠ .off then .next (t.failRun (t.failOf 0x281 5))
  else if t.sx.on then .next (t.raiseF ⟨t.now, 0x281, 0, 5, 0, 0, 0, false, true⟩)
  else .next t

end Sys2Proof.Machine
end

