-- ==== Sys2Proof/Machine/Rings.lean ====
section
/-! DEFINITION. Host memory, completion rings and the reading of authenticated command rings (R394, R395, R420 to R425,
R434 to R436). -/

namespace Sys2Proof.Machine

/-! ### Interfaces, their rings and host memory -/

/-- Virtual interface v. -/
def State.vif (s : State) (v : Nat) : Vi := tget .reset s.tr.vis v
/-- Write an interface. -/
def State.setVif (s : State) (v : Nat) (x : Vi) : State := { s with tr := { s.tr with vis := tset .reset s.tr.vis v x } }
/-- Command ring r of an interface. -/
def Vi.ring (x : Vi) (r : Nat) : Ring := tget .reset x.rings r
/-- Write a command ring. -/
def Vi.setRing (x : Vi) (r : Nat) (k : Ring) : Vi := { x with rings := tset .reset x.rings r k }
/-- Bytes of host memory. -/
def State.hostRead (s : State) (a n : Nat) : List Byte := mreadN s.tr.host a n
/-- Write host memory. -/
def State.hostWrite (s : State) (a : Nat) (b : List Byte) : State := { s with tr := { s.tr with host := mwriteN s.tr.host a b } }
/-- Slots of a ring from its RINGSIZE (R436). -/
def slotsOf (size : W64) : Nat := 2 ^ (size.toNat % 32)

/-! ### Completion records (R425, R436) -/

/-- May the next completion record be written: would RINGHEAD not reach CPLHEAD (R436)? -/
def Vi.cplRoom (x : Vi) : Bool := (x.cplTail.toNat + 1) % slotsOf x.cplSize ≠ x.cplHead.toNat % slotsOf x.cplSize
/-- Write a record at RINGHEAD and advance it (R436). -/
def State.writeCpl (s : State) (vi : Nat) (b : List Byte) : State :=
  let x := s.vif vi
  let n := slotsOf x.cplSize
  (s.hostWrite (x.cplBase.toNat + 32 * (x.cplTail.toNat % n)) b).setVif vi
    { x with cplTail := BitVec.ofNat 64 ((x.cplTail.toNat + 1) % n) }
/-- A record for the completion ring: written, or held while the ring is full (R436). -/
def State.putCpl (s : State) (vi : Nat) (b : List Byte) : State :=
  let x := s.vif vi
  if x.heldRecs.isEmpty && x.cplRoom then s.writeCpl vi b else s.setVif vi { x with heldRecs := x.heldRecs ++ [b] }
/-- Held records go out while there is room. -/
def State.releaseRecs : Nat → Nat → State → State
  | 0, _, s => s
  | f + 1, vi, s =>
    let x := s.vif vi
    match x.heldRecs with
    | b :: t => if x.cplRoom then State.releaseRecs f vi ((s.setVif vi { x with heldRecs := t }).writeCpl vi b) else s
    | [] => s
/-- The record of a command other than LAUNCH (R425). -/
def cmdRecord (seq status : Nat) : List Byte :=
  leBytes 8 seq ++ leBytes 2 status ++ leBytes 1 0x80 ++ List.replicate 21 0
/-- The retirement record (R394). -/
def retireRecord (id status flags tape preempts : Nat) : List Byte :=
  leBytes 8 id ++ leBytes 2 status ++ leBytes 1 flags ++ List.replicate 5 0 ++ leBytes 8 tape ++ leBytes 8 preempts

/-! ### Reading a ring (R420 to R422, R436) -/

/-- The commands of an interface that a ring has handed on. -/
def ringCmd (vi : Nat) (i : Instr) : Bool :=
  match i with
  | .launch v _ _ => v.toNat = vi
  | .abort v _ _ => v.toNat = vi
  | .releaseId v _ _ => v.toNat = vi
  | .cutIdle v _ _ => v.toNat = vi
  | .parkRead v _ _ => v.toNat = vi
  | .parkRelease v _ _ => v.toNat = vi
  | .receipt v _ _ _ => v.toNat = vi
  | .keyNew v _ _ _ => v.toNat = vi
  | .keyLoad v _ _ _ => v.toNat = vi
  | .keyDrop v _ _ => v.toNat = vi
  | _ => false
/-- The payload of an entry (R420). -/
def State.payload (s : State) (e : List Byte) : List Byte :=
  let op := fieldAt e 8 2
  if op = 1 then s.hostRead (fieldAt e 16 8) 256 else if op = 9 then s.hostRead (fieldAt e 24 8) 128 else []
/-- Are the bytes of an entry from `o` on, up to its tag, zero? -/
def restZero (e : List Byte) (o : Nat) : Bool := ((e.take 48).drop o).all (fun b => b = 0)
/-- The command that an entry holds; none where its opcode, a reserved byte or its Entry is not valid (R420). -/
def cmdOf (vi : Nat) (e payload : List Byte) : Option Instr :=
  let v := BitVec.ofNat 6 vi
  let seq := BitVec.ofNat 64 (fieldAt e 0 8)
  let op := fieldAt e 8 2
  let a := BitVec.ofNat 64 (fieldAt e 16 8)
  let a2 := BitVec.ofNat 64 (fieldAt e 24 8)
  let obj := fieldAt e 16 3
  let en := fieldAt e 16 1
  let gap := fieldAt e 17 7 = 0
  if fieldAt e 10 6 ≠ 0 then none
  else if op = 1 then (if restZero e 24 then some (.launch v seq payload) else none)
  else if op = 2 then (if restZero e 24 then some (.abort v seq a) else none)
  else if op = 3 then (if restZero e 19 then some (.releaseId v seq obj) else none)
  else if op = 4 then (if restZero e 19 then some (.cutIdle v seq obj) else none)
  else if op = 5 then (if restZero e 24 then some (.parkRead v seq a) else none)
  else if op = 6 then (if restZero e 24 then some (.parkRelease v seq a) else none)
  else if op = 7 then (if restZero e 32 then some (.receipt v seq a a2) else none)
  else if op = 8 then (if restZero e 32 && gap && en < 16 then some (.keyNew v seq (BitVec.ofNat 4 en) a2) else none)
  else if op = 9 then (if restZero e 32 && gap && en < 16 then some (.keyLoad v seq (BitVec.ofNat 4 en) payload) else none)
  else if op = 10 then (if restZero e 17 && en < 16 then some (.keyDrop v seq (BitVec.ofNat 4 en)) else none)
  else none
/-- The message of a ring tag (R422). -/
def ringMsg (vi ring : Nat) (e payload : List Byte) : List Byte := leBytes 1 vi ++ leBytes 1 ring ++ e.take 48 ++ payload
/-- Does a tag hold (R422)? -/
def Ring.tagOk (k : Ring) (msg tag : List Byte) : Bool :=
  match k.key with
  | some x => fitBytes 16 (kmac256 (leBytes 32 x.toNat) msg) = tag
  | none => false
/-- RING_ENTRY_CHECK (R421): the entry at the head of a ring; whether the ring may be read on, and the command to run. -/
def State.ringEntry (s : State) (vi r : Nat) : State × Option Instr :=
  let x := s.vif vi
  let k := x.ring r
  let n := slotsOf k.size
  let h := k.head.toNat % n
  let e := s.hostRead (k.base.toNat + 64 * h) 64
  let p := s.payload e
  let seq := fieldAt e 0 8
  let next : Ring := { k with head := BitVec.ofNat 64 ((h + 1) % n) }
  if !k.tagOk (ringMsg vi r e p) (e.drop 48) then
    ((s.setVif vi (x.setRing r { next with authFails := (k.authFails + 1) % 2 ^ 24 })).putCpl vi (cmdRecord 0 0x303), none)
  else if seq < k.n.toNat then
    ((s.setVif vi (x.setRing r { next with replays := (k.replays + 1) % 2 ^ 24 })).putCpl vi (cmdRecord 0 0x300), none)
  else if k.n.toNat < seq then ((s.setVif vi (x.setRing r { k with st := 1 })).putCpl vi (cmdRecord 0 0x301), none)
  else
    let t := s.setVif vi (x.setRing r { next with n := k.n + 1 })
    match cmdOf vi e p with
    | some i => (t, some i)
    | none => (t.putCpl vi (cmdRecord seq 0x307), none)
/-- Has a ring an entry to read: ACTIVE, and its head not at its tail (R421, R436)? -/
def Ring.pending (k : Ring) : Bool := k.st = 0 && k.head.toNat % slotsOf k.size ≠ k.tail.toNat % slotsOf k.size
/-- Is the command processor free to read the rings of an interface (R419, R434, R436)? -/
def State.readsRings (s : State) (vi : Nat) : Bool :=
  let x := s.vif vi
  !s.env.unstreamed.contains vi && x.st = 3 && !x.stopping && x.heldRecs.isEmpty && !s.env.inbox.any (ringCmd vi)
/-- RING_WRAP (R421): a ring whose N has reached 2^64 − 1 is WRAP_LOCKED once the entry that brought it there has run. -/
def State.wrapRing (vi : Nat) (s : State) (r : Nat) : State :=
  let k := (s.vif vi).ring r
  if k.st = 0 && k.n = BitVec.allOnes 64 then
    (s.setVif vi ((s.vif vi).setRing r { k with st := 2 })).putCpl vi (cmdRecord 0 0x302)
  else s
/-- RING_WRAP in each ring of an interface that runs no command now. -/
def State.wrapRings (s : State) (vi : Nat) : State :=
  if s.env.inbox.any (ringCmd vi) then s else [0, 1, 2, 3].foldl (State.wrapRing vi) s
/-- Read entries until one is to be executed, which then is the next step. Which ring goes first is open: a free value. -/
def State.pumpN : Nat → Nat → State → State
  | 0, _, s => s
  | f + 1, vi, s =>
    if !s.readsRings vi then s
    else
      let r0 := s.freeNat 3
      match [0, 1, 2, 3].find? (fun i => ((s.vif vi).ring ((r0 + i) % 4)).pending) with
      | none => s
      | some i =>
        let x := s.ringEntry vi ((r0 + i) % 4)
        match x.2 with
        | some c => { x.1 with env := { x.1.env with inbox := c :: x.1.env.inbox } }
        | none => State.pumpN f vi (x.1.wrapRings vi)
/-- The command processor goes on with the rings of an interface. -/
def State.pump (s : State) (vi : Nat) : State := State.pumpN 262144 vi (s.wrapRings vi)
/-- A command ends with a status (R425), and the rings are read on. -/
def State.cmdDone (s : State) (vi : Nat) (seq : W64) (status : Nat) : Out :=
  .next ((s.putCpl vi (cmdRecord seq.toNat status)).pump vi)

/-- DOORBELL (R435): RING_ENTRY_CHECK follows for what the host has put behind the head. The rings of a function without an
established stream are ignored, their doorbells too (R434). -/
def execDoorbell (vi : BitVec 6) (ring : BitVec 2) (v : W64) (s : State) : Out :=
  let x := s.vif vi.toNat
  if x.st ≠ 3 || s.env.unstreamed.contains vi.toNat || v.toNat / 2 ^ 16 ≠ 0 then .next s
  else .next ((s.setVif vi.toNat (x.setRing ring.toNat { x.ring ring.toNat with tail := v })).pump vi.toNat)
/-- RINGKEY (R422). -/
def execRingkey (vi : BitVec 6) (ring : BitVec 2) (key : BitVec 256) (s : State) : Out :=
  let x := s.vif vi.toNat
  .next ((s.setVif vi.toNat (x.setRing ring.toNat { x.ring ring.toNat with key := some key, n := 1, st := 0 })).pump vi.toNat)
/-- RINGRESYNC (R423). -/
def execRingresync (vi : BitVec 6) (ring : BitVec 2) (b : List Byte) (s : State) : Out :=
  let x := s.vif vi.toNat
  let k := x.ring ring.toNat
  let nx := fieldAt b 8 8
  let msg := leBytes 1 vi.toNat ++ leBytes 1 ring.toNat ++ b.take 16
  if k.st ≠ 1 then .next s
  else if k.tagOk msg (b.drop 16) && fieldAt b 0 8 = k.n.toNat && k.n.toNat ≤ nx && nx < 2 ^ 64 - 1 then
    .next ((s.setVif vi.toNat (x.setRing ring.toNat
      { k with n := BitVec.ofNat 64 nx, st := 0, resyncs := k.resyncs + 1 })).pump vi.toNat)
  else .next (s.setVif vi.toNat (x.setRing ring.toNat { k with authFails := (k.authFails + 1) % 2 ^ 24 }))
/-- CPLHEAD (R436): the host has consumed records; held ones go out, and the rings are read on. -/
def execCplhead (vi : BitVec 6) (v : W64) (s : State) : Out :=
  let x := s.vif vi.toNat
  let t := s.setVif vi.toNat { x with cplHead := BitVec.ofNat 64 (v.toNat % 2 ^ 16) }
  .next ((State.releaseRecs x.heldRecs.length vi.toNat t).pump vi.toNat)

end Sys2Proof.Machine
end

