-- ==== Sys2Proof/Machine/Launches.lean ====
section
/-! DEFINITION. Launches: the record and its checks, measurement, binding, dispatch, pre-emption, resume, retirement, and the ring
commands that the scheduler serves (R51, R76, R353, R376 to R395, R411 to R414, R426 to R429, R481). -/

namespace Sys2Proof.Machine

/-! ### The record and its lists (R377 to R379) -/

/-- A field of a launch record. -/
def Launch.f (l : Launch) (o n : Nat) : Nat := fieldAt l.record o n
/-- A capability of a launch record. -/
def recCap (r : List Byte) (o : Nat) : Cap := BitVec.ofNat 128 (fieldAt r o 16)
/-- Bytes of an object as the command processor and firmware read them. -/
def State.objRange (s : State) (k : Cap) (o n : Nat) : List Byte := s.objRead (capObj k) o n
/-- Does a list of n bytes at an offset lie inside a capability? -/
def listIn (k : Cap) (o n : Nat) : Bool := n = 0 || (capLower k ≤ o && o + n ≤ capUpper k)
/-- A list of a record in its table object: the offset field, the entry size and the count. -/
def State.table (s : State) (r : List Byte) (off size count : Nat) : List (List Byte) :=
  (List.range count).map (fun i => s.objRange (recCap r 80) (fieldAt r off 4 + size * i) size)
/-- The group entries of a record (R378). -/
def State.groupEntries (s : State) (r : List Byte) : List (List Byte) := s.table r 96 32 (fieldAt r 34 2)
/-- The members of a group entry (R378). -/
def State.memberList (s : State) (r g : List Byte) : List Nat :=
  let n := fieldAt g 4 4
  let b := s.objRange (recCap r 80) (fieldAt g 0 4) (4 * n)
  (List.range n).map (fun i => fieldAt b (4 * i) 4)
/-- The panel map of a record: coordinates, count, first logical core (R378). -/
def State.panelOf (s : State) (r : List Byte) : List (Nat × Nat × Nat) :=
  (s.table r 120 8 (fieldAt r 124 2)).map (fun p => (fieldAt p 0 2, fieldAt p 2 2, fieldAt p 4 4))
/-- The lease records: object, rights, pin (R378). -/
def State.leaseList (s : State) (r : List Byte) : List (Nat × Nat × Bool) :=
  (s.table r 100 8 (fieldAt r 36 2)).map (fun b => (fieldAt b 0 3, fieldAt b 3 1, bitsOf (fieldAt b 4 1) 0 1 = 1))
/-- The route records (R149). -/
def State.routeList (s : State) (r : List Byte) : List (List Byte) := s.table r 112 16 (fieldAt r 40 2)
/-- Bytes of a record's pattern sets: one, or with Flags bit 3 two (R379); 0 without a pattern. -/
def patternLen (r : List Byte) : Nat :=
  if fieldAt r 108 4 = 0 then 0 else if bitsOf (fieldAt r 6 2) 3 1 = 1 then 32768 else 16384
/-- A pattern set: 0 the pattern, 1 the failover set (R379). -/
def State.patternSet (s : State) (r : List Byte) (which : Nat) : List Byte :=
  if patternLen r ≤ 16384 * which then [] else s.objRange (recCap r 80) (fieldAt r 108 4 + 16384 * which) 16384
/-- Bit i of a bitmap at a byte offset (R379). -/
def bitAt (b : List Byte) (o i : Nat) : Bool := (nthD 0 b (o + i / 8)).toNat / 2 ^ (i % 8) % 2 = 1
/-- The slots of a link direction or port 6 that a set marks, with their kinds (R147, R379). -/
def linkSlots (b : List Byte) (k : Nat) : List (Nat × Nat) :=
  let seg := (b.drop (256 * k)).take 256
  ((List.range 256).zip seg).flatMap (fun x => (List.range 4).filterMap (fun j =>
    let v := bitsOf x.2.toNat (2 * j) 2
    if v = 0 then none else some (4 * x.1 + j, v)))
/-- The slots that a bitmap of a set marks. -/
def bitSlots (b : List Byte) (o n : Nat) : List Nat :=
  ((List.range n).zip ((b.drop o).take n)).flatMap (fun x =>
    if x.2 = 0 then [] else (List.range 8).filterMap (fun j => if bitsOf x.2.toNat j 1 = 1 then some (8 * x.1 + j) else none))
/-- The whole pattern, keyed by resource: links and port 6 are 0 to 6, memory ports 7 to 18 (R379). -/
def patternTable (b : List Byte) : Table (List (Nat × Nat)) :=
  let ports := (List.range 12).map (fun p =>
    (7 + p, (if p < 8 then bitSlots b (1792 + 768 * p) 768 else bitSlots b (7936 + 64 * (p - 8)) 64).map (fun x => (x, 1))))
  (((List.range 7).map (fun k => (k, linkSlots b k))) ++ ports).filter (fun x => x.2 ≠ [])

/-! ### The checks of a record (R51, R52, R149, R380, R381, R411, R481) -/

/-- Is a capability of a record one of an object of the interface, with the rights it needs? -/
def State.recCapOk (s : State) (vi : Nat) (k : Cap) (need : Nat) : Bool :=
  hasRights need (capRights k) && (match tget none s.mem.obj (capObj k) with
    | some e => e.ownerVI = vi && e.kind < 3 && e.state ≠ 0 && e.state < 4
    | none => false)
/-- LAUNCH_BAD (R380). -/
def State.recordBad (s : State) (vi : Nat) (r : List Byte) : Bool :=
  let f (o n : Nat) : Nat := fieldAt r o n
  let zero (o n : Nat) : Bool := ((r.drop o).take n).all (fun b => b = 0)
  let tab := recCap r 80
  let save := recCap r 168
  let n := 327680 * f 32 2
  r.length ≠ 256 || f 0 4 ≠ 0x584C4B34 || f 4 2 ≠ 1 || 16 ≤ f 6 2 || !zero 42 6 || !zero 126 2 || !zero 184 72 ||
  7 < f 8 1 || f 16 8 = 0 || f 24 4 = 0 || 131072 < f 24 4 || f 32 2 = 0 || 256 < f 32 2 || 256 < f 34 2 || 4096 < f 36 2 ||
  256 < f 38 2 || 256 < f 40 2 || [96, 100, 104, 108, 112, 116].any (fun o => f o 4 % 8 ≠ 0) || f 124 2 = 0 || 512 < f 124 2 ||
  s.fw.launches.any (fun l => l.vi = vi && l.id = BitVec.ofNat 64 (f 16 8)) || (profOf (f 10 2)).isNone ||
  (bitsOf (f 6 2) 1 1 = 1 && vi ≠ 0) ||
  !s.recCapOk vi (recCap r 48) (rEX ||| rRD) || !s.recCapOk vi (recCap r 64) rRD || !s.recCapOk vi tab rRD ||
  !s.recCapOk vi save (rRD ||| rWR) || capUpper save < capLower save + n ||
  (match tget none s.mem.obj (capObj save) with | some e => e.size < n | none => true) ||
  (listIn tab (f 104 4) (32 * f 38 2) && (s.table r 104 32 (f 38 2)).any (fun x => !hasRights rRD (capRights (recCap x 0)))) ||
  !listIn tab (f 96 4) (32 * f 34 2) || !listIn tab (f 100 4) (8 * f 36 2) || !listIn tab (f 104 4) (32 * f 38 2) ||
  !listIn tab (f 108 4) (patternLen r) || !listIn tab (f 112 4) (16 * f 40 2) ||
  (bitsOf (f 6 2) 2 1 = 1 && !listIn tab (f 116 4) 32) || !listIn tab (f 120 4) (8 * f 124 2) ||
  (s.groupEntries r).any (fun g => !listIn tab (fieldAt g 0 4) (4 * fieldAt g 4 4))
/-- Do two ranges overlap? -/
def secOverlap (a b : Nat × Nat) : Bool := a.2 ≠ 0 && b.2 ≠ 0 && a.1 < b.1 + b.2 && b.1 < a.1 + a.2
/-- Does some pair of a list overlap? -/
def anyOverlap : List (Nat × Nat) → Bool
  | [] => false
  | x :: t => t.any (secOverlap x) || anyOverlap t
/-- BAD_CODE_OBJECT (R51, R52): of the wrong size is an object that does not hold its header. Sections that overlap are two of the five:
a section that begins inside the header is taken as it stands (DESIGN CHOICE, log entry 42). -/
def State.codeBad (s : State) (r : List Byte) : Bool :=
  let k := recCap r 48
  let size := match tget none s.mem.obj (capObj k) with | some e => Nat.min e.size (capUpper k) | none => 0
  let h := s.objRange k 0 64
  let f (o n : Nat) : Nat := fieldAt h o n
  let secs := [(f 8 4, f 12 4), (f 16 4, f 20 4), (f 24 4, 64 * f 28 2), (f 32 4, 128 * f 30 2), (f 36 4, f 40 4)]
  let runs := (List.range (Nat.min (f 28 2) 4096)).map (fun i => s.objRange k (f 24 4 + 64 * i) 64)
  f 0 4 ≠ 0x43344B58 || f 4 2 ≠ 1 || f 12 4 % 4 ≠ 0 || 4096 < f 28 2 || anyOverlap secs || capLower k ≠ 0 || size < 64 ||
  secs.any (fun x => size < x.1 + x.2) || [f 8 4, f 16 4, f 24 4, f 32 4, f 36 4, f 44 4].any (fun o => o % 4 ≠ 0) ||
  runs.any (fun d => [0, 1, 2, 3].any (fun i => 4096 < fieldAt d (12 + 8 * i) 4))
/-- Strictly rising, below a bound? -/
def rising (bound : Nat) : List Nat → Bool
  | [] => true
  | [x] => x < bound
  | x :: y :: t => x < y && rising bound (y :: t)
/-- Does following parents end within three steps (R381)? -/
def parentsEnd (es : List (List Byte)) : Nat → Nat → Bool
  | 0, _ => false
  | f + 1, g =>
    match es[g]? with
    | none => false
    | some e => bitsOf (fieldAt e 11 1) 0 1 = 0 || parentsEnd es f (fieldAt e 10 1)
/-- Where the panel map stands after n entries that follow one another from 0; none at a gap. -/
def panelWalk (ps : List (Nat × Nat × Nat)) : Nat → Nat → Option Nat
  | 0, at_ => some at_
  | n + 1, at_ =>
    match ps.find? (fun p => p.2.2 = at_) with
    | some p => if p.2.1 = 0 then none else panelWalk ps n (at_ + p.2.1)
    | none => none
/-- GROUP_BAD (R378, R380, R381). -/
def State.groupsBad (s : State) (r : List Byte) : Bool :=
  let es := s.groupEntries r
  let size := fieldAt r 24 4
  let ms := es.map (s.memberList r)
  let flags := fieldAt r 6 2
  let ps := s.panelOf r
  let bad (x : Nat × List Byte) : Bool :=
    let e := x.2
    let n := fieldAt e 4 4
    let m := nthD [] ms x.1
    let p := fieldAt e 10 1
    let has := bitsOf (fieldAt e 11 1) 0 1 = 1
    fieldAt e 0 4 % 4 ≠ 0 || n = 0 || size < n || !rising size m || fieldAt e 8 1 = 0 || 64 < fieldAt e 8 1 || 1 < fieldAt e 9 1 ||
    1 < fieldAt e 11 1 || fieldAt e 17 15 ≠ 0 ||
    (has && (fieldAt e 16 1 = 0 || es.length ≤ p || !parentsEnd es 4 x.1 || m.any (fun c => !(nthD [] ms p).contains c)))
  ((List.range es.length).zip es).any bad ||
  (uniq ms.flatten).any (fun c => 4 < (ms.filter (fun m => m.contains c)).length) ||
  (bitsOf flags 0 1 = 1 && es.length ≤ fieldAt r 9 1) ||
  ps.any (fun p => 512 ≤ p.1 || p.2.1 = 0 || 256 < p.2.1) || panelWalk ps ps.length 0 ≠ some size ||
  ps.filter (fun p => p.1 = s.fab.coord) ≠ [(s.fab.coord, fieldAt r 32 2, fieldAt r 28 4)]
/-- Does some pair of routes share source and destination? -/
def routePairs : List (List Byte) → Bool
  | [] => false
  | x :: t => t.any (fun y => fieldAt x 0 4 = fieldAt y 0 4) || routePairs t
/-- ROUTE_BAD (R147 to R149). -/
def State.routesBad (s : State) (vi : Nat) (r : List Byte) : Bool :=
  let rs := s.routeList r
  let bad (x : List Byte) : Bool :=
    512 ≤ fieldAt x 0 2 || 512 ≤ fieldAt x 2 2 || 5 < fieldAt x 4 1 || 7 < fieldAt x 5 1 || fieldAt x 7 1 ≠ 0 ||
    5 < fieldAt x 8 1 || 7 < fieldAt x 9 1 || fieldAt x 11 5 ≠ 0
  let slots (b : List Byte) : Bool := (List.range 7).any (fun k =>
    (linkSlots b k).any (fun y => y.2 = 3 || !(tget [] s.fab.grants (8 * vi + k)).contains y.1))
  rs.any bad || routePairs rs || slots (s.patternSet r 0) || slots (s.patternSet r 1)
/-- LEASEMASK of an interface; reset 0xFF (R481). -/
def State.leaseMask (s : State) (vi : Nat) : Nat := (tget 0xFF#64 s.fw.leaseMask vi).toNat % 256
/-- May a lease record stand: LEASE_BAD otherwise (R76, R380, R481)? -/
def State.leaseOk (s : State) (vi : Nat) (l : Nat × Nat × Bool) : Bool :=
  match tget none s.mem.obj l.1 with
  | some e => e.ownerVI = vi && e.kind < 3 && (e.state = 1 || e.state = 2) && l.2.1 &&& s.leaseMask vi = l.2.1 &&
      !(l.2.2 && e.kind = 2)
  | none => false
/-- The sealed-key entry that a record names: key of the table, and whether the handle holds (R411). -/
def State.keyHandle (s : State) (vi : Nat) (r : List Byte) : Option (Nat × Bool) :=
  let h := fieldAt r 128 8
  if h = 0 then none
  else
    let k := 16 * vi + h % 16
    let e := tget .reset s.tr.keys k
    some (k, e.key.isSome && e.gen = h / 2 ^ 32 && h / 16 % 2 ^ 28 = 0)
/-- The code with which a record is refused (R380, R411). -/
def State.recordCode (s : State) (vi : Nat) (r : List Byte) : Option Nat :=
  if s.recordBad vi r then some 0x2C1
  else if s.codeBad r then some 0x2C0
  else if s.groupsBad r then some 0x2C2
  else if s.routesBad vi r then some 0x102
  else if (s.leaseList r).any (fun l => !s.leaseOk vi l) then some 0x2C3
  else match s.keyHandle vi r with
    | some (_, false) => some 0x305
    | _ => none

/-! ### Measurement (R426 to R429) -/

/-- KeyId (R426). -/
def keyId : List Byte := shake256 Config.publicKey 64
/-- The first chain value (R426). -/
def chainStart (vi id accept : Nat) : List Byte :=
  shake256 ([0x58, 0x4B, 0x34, 0x20, 0x43, 0x48, 0x41, 0x49, 0x4E] ++ keyId ++ leBytes 2 vi ++ leBytes 8 id ++ leBytes 8 accept) 64
/-- A record of the chain (R427). -/
def measRecord (kind index id num : Nat) (b extra : List Byte) : List Byte :=
  leBytes 2 kind ++ leBytes 2 index ++ leBytes 4 0 ++ leBytes 8 id ++ leBytes 8 num ++ leBytes 8 b.length ++
    fitBytes 64 (shake256 b 64) ++ fitBytes 32 extra
/-- Extend a launch's chain by one record (R426, R427). -/
def Launch.measure (l : Launch) (kind index : Nat) (b extra : List Byte) : Launch :=
  let r := measRecord kind index l.id.toNat (l.recs.length + 1) b extra
  { l with recs := l.recs ++ [r], chain := shake256 (l.chain ++ r) 64 }
/-- What the LAUNCH record measures (R428). -/
def State.launchBytes (s : State) (r : List Byte) : List Byte :=
  let tab := recCap r 80
  let es := s.groupEntries r
  r.take 28 ++ List.replicate 6 0 ++ r.drop 34 ++
    es.flatMap (fun g => g ++ s.objRange tab (fieldAt g 0 4) (4 * fieldAt g 4 4)) ++
    s.objRange tab (fieldAt r 100 4) (8 * fieldAt r 36 2) ++ s.objRange tab (fieldAt r 104 4) (32 * fieldAt r 38 2) ++
    s.patternSet r 0 ++ s.patternSet r 1 ++ s.objRange tab (fieldAt r 112 4) (16 * fieldAt r 40 2) ++
    (if bitsOf (fieldAt r 6 2) 2 1 = 1 then s.objRange tab (fieldAt r 116 4) 32 else []) ++
    s.objRange tab (fieldAt r 120 4) (8 * fieldAt r 124 2)
/-- Extra of the LAUNCH record (R428). -/
def launchExtra (r : List Byte) : List Byte :=
  (r.drop 6).take 2 ++ (r.drop 8).take 1 ++ [0] ++ (r.drop 10).take 2 ++ [0, 0] ++ (r.drop 24).take 4
/-- Does a range touch a cut bolt or a hole (R429)? -/
def State.rangeLost (s : State) (id o n : Nat) : Bool :=
  match tget none s.mem.obj id with
  | some e => e.state = 3 || s.keyOf e = 0 || e.size < o + n ||
      (n ≠ 0 && (match walkSegs s.mem.xk4m e none (e.segs.length + 1) (o / 4096) ((o + n - 1) / 4096) with
        | .bad _ => true
        | _ => false))
  | none => true
/-- Measure the window of a capability (R428 CODE and ARG). -/
def State.measureCap (s : State) (l : Launch) (kind : Nat) (k : Cap) : Launch :=
  let n := capUpper k - capLower k
  let m := l.measure kind 0 (s.objRange k (capLower k) n) []
  { m with
    tainted := m.tainted || s.rangeLost (capObj k) (capLower k) n
    watch := m.watch ++ [(capObj k, capLower k, capUpper k)] }
/-- Measure one result record (R428 RESULT). -/
def State.measureResult (s : State) (l : Launch) (i : Nat) : Launch :=
  let b := s.objRange (recCap l.record 80) (l.f 104 4 + 32 * i) 32
  let k := recCap b 0
  let o := fieldAt b 16 8
  let n := fieldAt b 24 8
  let m := l.measure 4 i (s.objRange k o n) (leBytes 3 (capObj k) ++ List.replicate 5 0 ++ leBytes 8 o)
  { m with tainted := m.tainted || s.rangeLost (capObj k) o n }

/-! ### Retirement (R386, R393, R394) -/

/-- Is a chain complete and untainted (R428, R429)? -/
def chainGood (recs : List (List Byte)) (results : Nat) (tainted : Bool) : Bool := recs.length = 4 + results && !tainted
/-- A launch becomes RETIRED: its RETIRE record, its completion record, its kept status (R394, R428, R430). -/
def State.retired (s : State) (l : Launch) : State :=
  let inc : Bool := l.det && l.no ≠ 0 && s.mem.detLost.contains l.no
  let good := chainGood (l.recs ++ [[]]) (l.f 38 2) l.tainted
  let flags := (if inc then 1 else 0) + (if good then 2 else 0)
  let m := l.measure 5 0 [] (leBytes 2 l.status ++ leBytes 1 flags ++ List.replicate 5 0 ++ leBytes 8 l.preemptions)
  let keep : Retained := ⟨l.vi, l.id, l.status, m.chain, m.recs, l.accept, !good, l.det, l.world ≠ 0⟩
  let mine := s.fw.retained.filter (fun x => x.vi = l.vi)
  let old := if 1024 ≤ mine.length then mine.head? else none
  let t := { s with fw := { s.fw with
    launches := s.fw.launches.filter (fun x => !(x.vi = l.vi && x.id = l.id))
    retained := s.fw.retained.filter (fun x => some x ≠ old) ++ [keep] } }
  t.putCpl l.vi (retireRecord l.id.toNat l.status flags s.now l.preemptions)
/-- Find an unretired launch of an interface. -/
def State.launchId (s : State) (vi : Nat) (id : W64) : Option Launch := s.fw.launches.find? (fun l => l.vi = vi && l.id = id)
/-- Rewrite one launch. -/
def State.setLaunch (s : State) (l : Launch) : State :=
  s.mapLaunch (fun x => if x.vi = l.vi && x.id = l.id then l else x)
/-- The host ends a launch: RETIRED at once where it is QUEUED, otherwise RETIRING (R386). -/
def State.hostAbort (s : State) (l : Launch) : State :=
  if l.st = 0 then s.retired { l with status := 0x2C5 } else s.setLaunch (l.finish 0x2C5)
/-- LAUNCH (R380, R386): refused with its code, or QUEUED with the first record of its chain. -/
def execLaunch (vi : BitVec 6) (seq : W64) (r : List Byte) (s : State) : Out :=
  let v := vi.toNat
  let id := BitVec.ofNat 64 (fieldAt r 16 8)
  if (s.vif v).st ≠ 3 then .next s
  else match s.recordCode v r with
    | some c => .next ((s.putCpl v (retireRecord id.toNat c 0 s.now 0)).pump v)
    | none =>
      let l : Launch :=
        { vi := v, id := id, seq := seq, st := 0, no := 0, status := 0, record := r, world := 0, leases := s.leaseList r, bolts := []
          depends := [136, 144, 152, 160].map (fun o => BitVec.ofNat 64 (fieldAt r o 8)), preemptions := 0
          chain := chainStart v id.toNat s.now, recs := [], accept := s.now, tainted := false, watch := []
          det := bitsOf (fieldAt r 6 2) 0 1 = 1, scrubAt := 0, copied := [], since := 0 }
      .next ({ s with fw := { s.fw with launches := s.fw.launches ++ [l.measure 1 0 (s.launchBytes r) (launchExtra r)] } }.pump v)
/-- ABORT (R386, R395). -/
def execAbort (vi : BitVec 6) (seq id : W64) (s : State) : Out :=
  let v := vi.toNat
  if (s.vif v).st ≠ 3 then .next s
  else match s.launchId v id with
    | some l => (if l.st = 6 then s else s.hostAbort l).cmdDone v seq 0
    | none => s.cmdDone v seq 0

/-! ### Dependences, leases and worlds (R76, R382, R386, R412, R413) -/

/-- DEPENDENCES_SETTLED (R382 step 1, R386). -/
def execDependencesSettled (vi : BitVec 6) (id : W64) (s : State) : Out :=
  match s.launchId vi.toNat id with
  | none => .next s
  | some l =>
    let ds := l.depends.filter (fun d => d ≠ 0)
    if l.st ≠ 0 || ds.any (fun d => (s.launchId vi.toNat d).isSome) then .next s
    else if ds.any (fun d => s.fw.retained.any (fun x => x.vi = l.vi && x.id = d && x.status ≠ 0)) then
      .next (s.setLaunch (l.finish 0x2C4))
    else .next (s.setLaunch { l with st := 1 })
/-- Is no segment of an object left in tier 2 (R76, R78)? A tier code of 3 to 7 is a hole, not a place (R62; DEDUCED). -/
def residentObj (e : ObjEntry) : Bool := e.segs.all (fun g => !g.valid || g.tier ≠ 2)
/-- Take one lease (R76). -/
def leaseEntry (e : ObjEntry) (rights : Nat) (pin : Bool) : ObjEntry :=
  { e with state := 2, leaseCount := (e.leaseCount + 1) % 256, maxRights := e.maxRights ||| BitVec.ofNat 8 rights, pin := e.pin || pin }
/-- What a launch leases: its list, and its code and argument objects with RD (R76, R428). -/
def Launch.leased (l : Launch) : List (Nat × Nat × Bool) :=
  l.leases ++ [(capObj (recCap l.record 48), rRD, false), (capObj (recCap l.record 64), rRD, false)]
/-- The world of a launch as its leases become resident: a live one of the same sealed-key entry, a new one, or none while 256
live (R412). The ID of a new world is a free one of those that no live world holds. -/
def State.worldFor (s : State) (key : Nat) : Option Nat :=
  match s.tr.worlds.find? (fun w => 16 * w.2.1 + w.2.2 = key) with
  | some w => some w.1
  | none =>
    if 256 ≤ s.tr.worlds.length then none
    else
      let start := s.freeNat 4
      ((List.range 257).map (fun i => 1 + (start + i) % 0xFFFE)).find? (fun w => !s.tr.worlds.any (fun x => x.1 = w))
/-- WORLD_CREATE (R412): the key is installed under the WorldID; an existing world is joined. -/
def State.enterWorld (s : State) (w key : Nat) : State :=
  if s.tr.worlds.any (fun x => x.1 = w) then s
  else
    let t := { s.bump with tr := { s.tr with worlds := s.tr.worlds ++ [(w, key / 16, key % 16)] } }
    { t with mem := { t.mem with worldKey := tset 0 t.mem.worldKey w (((tget .reset s.tr.keys key).key).getD 0) } }
/-- Lease one object for a launch; in a world, bind it and give it the WorldID (R76, R412, R413). -/
def State.leaseOne (s : State) (world key : Nat) (l : Nat × Nat × Bool) : State :=
  match tget none s.mem.obj l.1 with
  | none => s
  | some e =>
    let e := leaseEntry e l.2.1 l.2.2
    if world = 0 || e.kind = 2 then s.setEntry l.1 (some e)
    else
      let b := (tget none s.mem.bound l.1).getD key
      let e := if b = key then { e with worldID := world } else e
      ({ s with mem := { s.mem with bound := tset none s.mem.bound l.1 (some b) } }).setEntry l.1 (some e)
/-- The page to which a segment of host swap comes: the lowest free one of its interface, in HBM4 before DDR5, and what is then left
of the pool (R62, R472; DESIGN CHOICE, log entry 84). -/
def State.swapPage (s : State) (vi z : Nat) : Option (Nat × Nat × Pool) :=
  let p := s.pool vi
  (if s.mem.xk4m then [0, 1] else [0]).findSome? (fun t => match tget [] p.pages (pageKey t z) with
    | b :: r => some (t, b, { p with pages := tset [] p.pages (pageKey t z) r })
    | [] => none)
/-- One segment of an object comes out of host swap (R62, R76, R84): its page moves as it is, ciphertext with the identities under
which it was written, from the segment's base (DESIGN CHOICE, log entry 84). -/
def State.swapSeg (vi obj : Nat) (s : State) (ig : Nat × Seg) : State :=
  let g := ig.2
  if !g.valid || g.tier ≠ 2 then s
  else match s.swapPage vi g.pageSize with
    | none => s
    | some (t, b, p) =>
      let u := (s.setPool vi p).setSeg obj ig.1 { g with tier := t, base := b }
      { u with mem := u.mem.moveBytes g.base b (pageBytes g.pageSize) }
/-- Every segment of an object that host swap holds comes to tier 0 or 1, while there are pages (R76). -/
def State.swapIn (vi : Nat) (s : State) (obj : Nat) : State :=
  match tget none s.mem.obj obj with
  | some e => ((List.range e.segs.length).zip e.segs).foldl (State.swapSeg vi obj) s
  | none => s
/-- LEASES_RESIDENT (R76, R386, R412, R428): every segment comes into tier 0 or 1; it waits while there is no page for one or no
world to be had. -/
def execLeasesResident (vi : BitVec 6) (id : W64) (s : State) : Out :=
  match s.launchId vi.toNat id with
  | none => .next s
  | some l =>
    if l.st ≠ 1 then .next s
    else if l.leases.any (fun x => !s.leaseOk vi.toNat x) then .next (s.setLaunch (l.finish 0x2C3))
    else
      let kh := s.keyHandle vi.toNat l.record
      match (match kh with | some (k, _) => (s.worldFor k).map (fun w => (w, k)) | none => some (0, 0)) with
      | none => .next s
      | some (w, k) =>
        let t := if w = 0 then s else s.enterWorld w k
        let t := l.leased.foldl (fun (u : State) x => u.leaseOne w k x) t
        let t := (uniq (l.leased.map Prod.fst)).foldl (State.swapIn vi.toNat) t
        let es := l.leased.map (fun x => tget none t.mem.obj x.1)
        if es.any (fun e => match e with | some e => !residentObj e | none => false) then .next s
        else
          let m := t.measureCap { l with st := 2, world := w } 2 (recCap l.record 48)
          .next (t.setLaunch (t.measureCap m 3 (recCap l.record 64)))

/-! ### Binding and dispatch (R383 to R385) -/

/-- State of a core's bind entry. -/
def State.bindState (s : State) (core : Nat) : Nat := tget 0 s.fw.bindSt core
/-- The bind entry of a core. -/
def State.bindOf (s : State) (core : Nat) : Nat := (tget 0 s.fw.bind core).toNat
/-- Set the state of a bind entry. -/
def State.setBindSt (s : State) (core st : Nat) : State := { s with fw := { s.fw with bindSt := tset 0 s.fw.bindSt core st } }
/-- Cores of a launch number that are BOUND. -/
def State.boundWaiting (s : State) (no : Nat) : List Nat := (s.boundTo no).filter (fun c => s.bindState c = 1)
/-- BINDGO (R383). -/
def execBindgo (v : W64) (s : State) : Out :=
  let no := v.toNat % 256
  if s.fw.go.isSome || no = 0 || (s.boundWaiting no).isEmpty then .next s
  else .next { s with fw := { s.fw with go := some (no, s.now) } }
/-- The coordinates of ordinal k: level Perm[5] varies fastest (R385). -/
def tileCoords (counts perm : List Nat) : Nat → List Nat → List (Nat × Nat)
  | _, [] => []
  | k, p :: t =>
    let c := Nat.max 1 (nthD 1 counts p)
    (p, k % c) :: tileCoords counts perm (k / c) t
/-- s4 to s7 of a core under the sequencer (R385). -/
def seqRegs (d : List Byte) (panel i : Nat) : List Nat :=
  let counts := (List.range 6).map (fun j => fieldAt d (2 * j) 2)
  let perm := (List.range 6).map (fun j => fieldAt d (12 + j) 1)
  let T := counts.foldl (fun a c => a * c) 1
  let first := i * T / panel
  let n := (i + 1) * T / panel - first
  let xs := tileCoords counts perm first perm.reverse
  let at_ (lv : Nat) : Nat := match xs.find? (fun x => x.1 = lv) with | some x => x.2 | none => 0
  [first, n, at_ 0 + 2 ^ 16 * at_ 1 + 2 ^ 32 * at_ 2 + 2 ^ 48 * at_ 3, at_ 4 + 2 ^ 16 * at_ 5]
/-- Hops of the default route between two packages (R150). -/
def State.hopsBetween (s : State) (a b : Nat) : Nat :=
  ((List.range 3).map (fun i => (ringHops (s.loomSize i) (bitsOf a (3 * i) 3) (bitsOf b (3 * i) 3)).1)).foldl (fun x y => x + y) 0
/-- Span of a group (R364). -/
def State.spanOf (s : State) (panel : List (Nat × Nat × Nat)) (ms : List Nat) : Nat :=
  let ps := (panel.filter (fun p => ms.any (fun m => p.2.2 ≤ m && m < p.2.2 + p.2.1))).map Prod.fst
  let h := (ps.flatMap (fun a => ps.map (fun b => s.hopsBetween a b))).foldl Nat.max 0
  if ps.length ≤ 1 then 0 else 8 + 24 * h
/-- The group table of a launch (R378, R381). -/
def State.groupTable (s : State) (r : List Byte) : Table (Option Group) :=
  let panel := s.panelOf r
  let es := s.groupEntries r
  ((List.range es.length).zip es).map (fun x =>
    let e := x.2
    let ms := s.memberList r e
    (x.1, some { members := ms, rel := fieldAt e 8 1, grain := if fieldAt e 9 1 = 1 then 256 else 1
                 parent := if bitsOf (fieldAt e 11 1) 0 1 = 1 then some (fieldAt e 10 1) else none
                 notice := fieldAt e 12 4, ratio := fieldAt e 16 1, span := s.spanOf panel ms
                 here := ms.any (fun m => panel.any (fun p => p.1 = s.fab.coord && p.2.2 ≤ m && m < p.2.2 + p.2.1))
                 arrived := [], released := 0, met := none, releaseAt := 0, withheld := false, fixed := false, restartable := false
                 hold := ⟨0, 0, false, false, 0, false⟩, exited := [] }))
/-- The groups of a launch as they stand at its dispatch (R353, R364, R378). -/
def State.groupsOf (s : State) (l : Launch) : Groups :=
  { table := s.groupTable l.record, detGroup := if l.det then some (l.f 9 1) else none, holdGroup := s.grp.holdGroup
    holdLaunch := s.grp.holdLaunch, restart := [], panel := s.panelOf l.record, waitRestart := none, failover := false }
/-- Dimensions in the order of a route record (R149). -/
def dimOrder (o : Nat) : List Nat :=
  nthD [0, 1, 2] [[0, 1, 2], [0, 2, 1], [1, 0, 2], [1, 2, 0], [2, 0, 1], [2, 1, 0]] o
/-- The links of a route with an order and directions (R149, R150). -/
def State.linksOf (s : State) (dest order dir : Nat) : List Nat :=
  (dimOrder order).flatMap (fun i =>
    let n := s.loomSize i
    let a := bitsOf s.fab.coord (3 * i) 3
    let b := bitsOf dest (3 * i) 3
    let back := bitsOf dir i 1 = 1
    let hops := if n = 0 then 0 else if back then (a + n - b) % n else (b + n - a) % n
    List.replicate hops (2 * i + if back then 1 else 0))
/-- The routes from this package (R149): those of the records, or of their failover columns. -/
def State.routesFor (s : State) (r : List Byte) (fail : Bool) : List (Nat × Nat × List Nat) :=
  (s.routeList r).filterMap (fun x =>
    if fieldAt x 0 2 ≠ s.fab.coord then none
    else if fail then some (fieldAt x 2 2, fieldAt x 10 1, s.linksOf (fieldAt x 2 2) (fieldAt x 8 1) (fieldAt x 9 1))
    else some (fieldAt x 2 2, fieldAt x 6 1, s.linksOf (fieldAt x 2 2) (fieldAt x 4 1) (fieldAt x 5 1)))
/-- Has a launch a failover pattern (R379)? -/
def hasFailover (r : List Byte) : Bool := patternLen r = 32768
/-- What a record has firmware install (R149, R379). -/
def State.installedOf (s : State) (r : List Byte) : Installed :=
  let p := s.patternSet r 0
  let f := s.patternSet r 1
  { pattern := patternTable p, failPattern := patternTable f, xbar := bitSlots p 8192 8192, failXbar := bitSlots f 8192 8192
    routes := s.routesFor r false, failRoutes := if hasFailover r then some (s.routesFor r true) else none }
/-- The patterns and routes of a launch are installed with its number, before it is bound (R149, R382 step 5). -/
def State.install (s : State) (no : Nat) (r : List Byte) : State :=
  let x := s.installedOf r
  { s with fab := { s.fab with installed := tset none s.fab.installed no (some x), xbar := tset [] s.fab.xbar no x.xbar } }
/-- The patterns and routes of a launch are those of the core of this model. -/
def State.usePattern (s : State) (no : Nat) : State :=
  match tget none s.fab.installed no with
  | some x => { s with fab := { s.fab with
      pattern := x.pattern, failPattern := x.failPattern, xbar := tset [] s.fab.xbar no x.xbar, routes := x.routes
      failRoutes := x.failRoutes, failXbar := x.failXbar } }
  | none => s
/-- Does a launch go before another that was submitted earlier (R387)? -/
def Launch.outranks (l x : Launch) : Bool := x.f 8 1 < l.f 8 1
/-- The launch that firmware binds next, of the READY ones that have no number yet and the SAVED ones: highest Priority first, then
order of submission (R387), in which one saved at the end of its Quantum comes anew (log entry 40). -/
def State.nextBound (s : State) : Option Launch :=
  (s.fw.launches.filter (fun l => (l.st = 2 && l.no = 0) || l.st = 5)).foldl (fun (b : Option Launch) l =>
    match b with
    | some x => if l.outranks x then some l else b
    | none => some l) none
/-- A launch number that no launch has yet goes to the READY launch that is bound next, whose patterns are installed; a SAVED launch
keeps its own (R382, R386, R387). -/
def State.nameLaunch (s : State) (no : Nat) : State :=
  if no = 0 || s.fw.launches.any (fun l => l.no = no) then s
  else match s.nextBound with
    | some l => if l.st = 2 then (s.setLaunch { l with no := no }).install no l.record else s
    | none => s
/-- BINDENT (R383): ignored for a core that is RUNNING or in SCRUB. -/
def execBindent (core : BitVec 8) (v : W64) (s : State) : Out :=
  let c := core.toNat
  let no := v.toNat % 256
  if 2 ≤ s.bindState c then .next s
  else .next (({ s with fw := { s.fw with bind := tset 0 s.fw.bind c (v &&& 0x7FFFFFF#64) } }.setBindSt c
    (if no = 0 then 0 else 1)).nameLaunch no)
/-- Cores of this package that no launch holds or that a STOPPING one is to give back (R386, R387). -/
def State.coresToCome (s : State) : Nat :=
  ((List.range 256).filter (fun c => s.bindState c = 0 ||
    s.fw.launches.any (fun l => l.st = 4 && l.no ≠ 0 && s.bindOf c % 256 = l.no))).length
/-- Which of two running launches a launch of some priority takes first (R387): one of lower priority, the lowest first; then of those
over their Quantum the one that has run longest. -/
def takenFirst (p : Nat) (a b : Launch) : Bool :=
  if a.f 8 1 < p || b.f 8 1 < p then a.f 8 1 < b.f 8 1 else a.since < b.since
/-- The running launch that firmware pre-empts next for another (R387). -/
def State.victimFor (s : State) (w : Launch) : Option Launch :=
  (s.fw.launches.filter (fun l => l.st = 3 && l.no ≠ 0 && (l.f 8 1 < w.f 8 1 || (l.f 8 1 = w.f 8 1 && s.overQuantum l)))).foldl
    (fun (b : Option Launch) l => match b with
      | some x => if takenFirst (w.f 8 1) l x then some l else b
      | none => some l) none
/-- The launch that firmware pre-empts of its own accord: the one that is bound next wants more cores than there are to come (R387). -/
def State.preemptee (s : State) : Option Launch :=
  match s.nextBound with
  | some w => if s.coresToCome < w.f 32 2 then s.victimFor w else none
  | none => none
/-- The registers that a starting core holds (R384, R385). -/
def State.startRegs (s : State) (r : List Byte) (no logical entry : Nat) : Regs :=
  let panel := fieldAt r 24 4
  let q := if bitsOf (fieldAt r 6 2) 2 1 = 1 then seqRegs (s.objRange (recCap r 80) (fieldAt r 116 4) 32) panel logical else [0, 0, 0, 0]
  let vals := [logical, panel, no] ++ q
  { s := ((List.range 7).zip vals).foldl (fun (t : Table W64) x => tset 0 t (x.1 + 1) (BitVec.ofNat 64 x.2)) []
    c := tset 0 (tset 0 [] 0 (mkCap spadId 0xB7 0 (2 ^ 24))) 1 (recCap r 64)
    b := [], m := [], pc := BitVec.ofNat 64 entry }
/-- The code of a starting core (R51, R53, R384). -/
def State.startCodeOf (s : State) (r : List Byte) : Code :=
  let k := recCap r 48
  let h := s.objRange k 0 64
  ⟨mkCap (capObj k) (capRights k) 0 (fieldAt h 12 4), fieldAt h 8 4, fieldAt h 24 4, fieldAt h 28 2, fieldAt h 30 2, fieldAt h 32 4,
    fieldAt h 36 4, fieldAt h 44 4⟩
/-- The core of this model starts (R384): what the table does not name has its value after package reset. The duplicates of R161 and
the signatures of R356 are the launch's own; lines that another launch left dirty hold no byte of its stores (R344). -/
def State.startCoreHere (s : State) (l : Launch) : State :=
  let v := s.bindOf s.ctl.coreId
  let logical := bitsOf v 8 17
  let code := s.startCodeOf l.record
  let t := s.usePattern l.no
  { t with
    fab := { t.fab with served := t.fab.served.filter (fun r => r.launch ≠ l.no) }
    mem := { t.mem with sigs := t.mem.sigs.filter (fun x => x.launch ≠ l.no), detLost := t.mem.detLost.filter (fun n => n ≠ l.no) }
    sram := { t.sram with lines := t.sram.lines.map (fun (x : Line) => { x with first := none, classes := 0, plain := 0 }) }
    regs := s.startRegs l.record l.no logical code.entryOff
    ctl := { Ctl.reset with
      coreId := s.ctl.coreId, lcore := logical, panel := l.f 24 4, launchNo := l.no, vi := l.vi, world := l.world
      slicesel := BitVec.ofNat 64 (8 * bitsOf v 25 2), mgmt := bitsOf (l.f 6 2) 1 1 = 1, defProf := l.f 10 2 }
    code := code
    sx := { SIssue.reset with on := true, next := s.now }
    trap := Trap.reset, pend := [], iss := [], cmp := [], cv := .reset, cm := .reset, cc := .reset, cx := .reset, rs := .reset
    dq := [], dpend := [], me := .reset, run := .reset, grp := s.groupsOf l }
/-- A generator walks on from its next beat as if GO had issued now (R211). -/
def AGen.resume (g : AGen) (t : Nat) (lam : Nat) : AGen := { g with kf := g.k, nextR := t, pops := [], beats := [], lam := lam }
/-- A group as a resume finds it (R323, R330, R388): a seam that was met has released since; the arrivals at one that was not were
withdrawn, every core having stopped or being done. -/
def Group.resumed (x : Group) : Group :=
  { x with
    released := if x.met.isSome then x.released + 1 else x.released
    arrived := [], met := none, withheld := false, fixed := false }
/-- The hold of a group goes with the core's launch: a HOLDCTL that named it meanwhile has changed it (R368, R392). -/
def State.holdBack1 (s : State) (no : Nat) (gx : Nat × Option Group) : Nat × Option Group :=
  (gx.1, gx.2.map (fun x =>
    match s.fw.holds.find? (fun h => h.launch = no && h.group = gx.1) with
    | some h => { x.resumed with hold := h.hold }
    | none => x.resumed))
/-- A saved core comes back into the core of this model, still to start, and its launch's patterns and routes take force again (R147,
R149, R211, R261, R298, R391). -/
def State.restore (s : State) (x : Saved) : State :=
  let p := s.usePattern x.no
  let grp := { x.grp with
    table := x.grp.table.map (s.holdBack1 x.no), holdGroup := s.grp.holdGroup, holdLaunch := s.grp.holdLaunch }
  let q := { p with
    ctl := { x.ctl with coreId := s.ctl.coreId }, grp := grp, fw := { p.fw with holds := p.fw.holds.filter (fun h => h.launch ≠ x.no) }
    sram := { p.sram with lines := p.sram.lines.map (fun (l : Line) => { l with first := l.first.map (fun _ => 0) }) } }
  let s := if x.grp.failover then q.failOver else q
  { s with
    regs := x.regs, code := x.code, rs := x.rs, dq := x.dq, iss := x.iss, cmp := x.cmp
    cv := { x.v with next := s.now }, cm := { x.m with next := s.now }, cc := { x.c with next := s.now }, cx := x.cx
    dpend := [], pend := [], me := MEng.reset, run := Run.reset, trap := Trap.reset
    sx := { SIssue.reset with next := s.now, epoch := x.epoch } }
/-- A core saved with its run end delayed stands again in that delay, and goes on after the lift (R366, R392). -/
def State.holdAgain (s : State) (g : Nat) : State :=
  { s with
    regs := { s.regs with pc := s.regs.pc - 4 }
    sx := { s.sx with hold := .run }
    run := { Run.reset with phase := .held, group := g }
    cv := s.cv.enterRun, cm := s.cm.enterRun, cc := s.cc.enterRun }
/-- One bank comes back from its record: content, mode, FIFO layout and FIFOST (R390). -/
def State.bankBack (s : State) (k : Nat) (b : List Byte) : State :=
  let st := fieldAt b 65544 8
  let c := BankCfg.ofWord (fieldAt b 65536 8)
  { s with sram := { s.sram with
    bytes := mwriteN s.sram.bytes (65536 * k) (b.take 65536)
    cfg := tset .reset s.sram.cfg k { c with changing := false }
    fifo := tset ⟨0, 0, 0⟩ s.sram.fifo k ⟨bitsOf st 0 13, bitsOf st 32 12, bitsOf st 48 12⟩ } }
/-- Banks that were copied out are restored before any core resumes (R390). -/
def State.banksBack (s : State) (l : Launch) : State :=
  let a := l.bankArea
  (((List.range l.copied.length).zip l.copied).foldl (fun (u : State) x =>
    u.bankBack x.2 (s.objRead (capObj a.1) (a.2 + 69632 * x.1) 65552)) s).setLaunch { l with copied := [] }
/-- Firmware restores into a core the save of the same logical index and tenant (R391); of another core's save this model holds
nothing. A core saved with its run end delayed stands in that delay again (R392). -/
def State.bringBack (s : State) (l : Launch) (c : Nat) : State :=
  let v := s.bindOf c
  match s.fw.saved.find? (fun x => x.no = l.no && x.logical = bitsOf v 8 17 && bitsOf x.ctl.slicesel.toNat 3 2 = bitsOf v 25 2) with
  | none => if c = s.ctl.coreId then s else { s with fw := { s.fw with back := s.fw.back ++ [c] } }
  | some x =>
    let t := { s with fw := { s.fw with saved := s.fw.saved.filter (fun y => y ≠ x), back := s.fw.back ++ [c] } }
    if c ≠ s.ctl.coreId then t
    else match x.held with
      | some g => (t.restore x).holdAgain g
      | none => t.restore x
/-- The core of this model, restored, starts to run: its generators walk on as if GO had issued now, and the saved launch's patterns are
in force (R211, R391). -/
def State.wake (s : State) : State :=
  let t := s.mapAgs (fun _ g => g.resume s.now (match g.nest with | some ne => s.lambda ne | none => 6))
  { t with
    cv := { t.cv with next := s.now }, cm := { t.cm with next := s.now }, cc := { t.cc with next := s.now }
    sx := { t.sx with on := true, next := s.now } }
/-- Every BOUND core of a number becomes RUNNING. -/
def State.runBound (s : State) (no : Nat) : State := (s.boundWaiting no).foldl (fun (u : State) c => u.setBindSt c 2) s
/-- Is a start due (R383)? -/
def State.goDue (s : State) : Bool := match s.fw.go with | some g => g.2 + 16 ≤ s.now | none => false
/-- CORE_START (R383, R384, R391): sixteen cycles after BINDGO the BOUND cores of the launch start; those of a SAVED one together, each
with its save restored into it. -/
def execCoreStart (s : State) : Out :=
  match s.fw.go with
  | none => .next s
  | some (no, _) =>
    if !s.goDue then .next s
    else
      let here : Bool := (s.boundWaiting no).contains s.ctl.coreId
      let t := { (s.runBound no) with fw := { (s.runBound no).fw with go := none } }
      match t.launchNo no with
      | none => .next t
      | some l =>
        let m := { l with st := if l.st = 2 || l.st = 5 then 3 else l.st, since := s.now }
        let u := t.setLaunch m
        if l.st = 2 then .next (if here then u.startCoreHere l else u)
        else if l.st = 5 then
          let w := (s.boundWaiting no).foldl (fun (x : State) c => if x.fw.back.contains c then x else x.bringBack m c) (u.banksBack m)
          let v := { w with fw := { w.fw with back := w.fw.back.filter (fun c => !(s.boundWaiting no).contains c) } }
          .next (if here && w.fw.back.contains s.ctl.coreId then v.wake else v)
        else .next u

/-! ### HOLDCTL (R365 to R368) -/

/-- Does a write of HOLDCTL name a group with a member on this package (R368): of this core's launch, or of another here? -/
def State.holdNames (s : State) (launch g : Nat) : Bool :=
  let x := if launch = s.ctl.launchNo then s.group g
    else (s.launchNo launch).bind (fun l => tget none (s.groupTable l.record) g)
  match x with
  | some x => x.here
  | none => false
/-- HOLDCTL names a launch and a group. -/
def State.nameHold (s : State) (launch g : Nat) : State :=
  { s with grp := { s.grp with holdGroup := g % 256, holdLaunch := launch % 256 } }
/-- Change the hold of another launch's group. -/
def State.mapHold (s : State) (n g : Nat) (f : GHold → GHold) : State :=
  { s with fw := { s.fw with holds := s.fw.holds.map (fun x => if x.launch = n && x.group = g then { x with hold := f x.hold } else x) } }
/-- A hold of a group is requested: of this core's launch, or of another with a member here (R365, R367). -/
def State.requestAny (s : State) (n g : Nat) (miss : Bool) : State :=
  if n = s.ctl.launchNo then s.requestHold g miss
  else if s.fw.holds.any (fun x => x.launch = n && x.group = g) then s.mapHold n g (fun h => h.request s.now miss)
  else match (s.launchNo n).bind (fun l => tget none (s.groupTable l.record) g) with
    | some x => { s with fw := { s.fw with holds := s.fw.holds ++ [⟨n, g, x.members, x.notice, x.hold.request s.now miss⟩] } }
    | none => s
/-- Are members of a launch saved, or about to be: its holds are lifted only after every member has been restored (R392). -/
def State.heldSaved (s : State) (n : Nat) : Bool := (s.launchNo n).any (fun l => l.st = 4 || l.st = 5)
/-- A hold of a group is lifted (R366, R367, R392). -/
def State.liftAny (s : State) (n g : Nat) : State :=
  if s.heldSaved n then s
  else if n = s.ctl.launchNo then s.liftHold g
  else s.mapHold n g (fun h => h.lifted s.now)
/-- HOLD_REQUEST (R365, R367, R368): of a group with no member here it has no effect. -/
def execHoldRequest (launch g : Nat) (s : State) : Out :=
  .next (if s.holdNames launch g then (s.nameHold launch g).requestAny launch g false else s)
/-- HOLD_LIFT (R366, R367, R368): of a group with no member here it has no effect. -/
def execHoldLift (launch g : Nat) (s : State) : Out :=
  .next (if s.holdNames launch g then (s.nameHold launch g).liftAny launch g else s)
/-- The hold of a group as this package knows it. -/
def State.holdOf (s : State) (n g : Nat) : Option GHold :=
  if n = s.ctl.launchNo then (s.group g).map (fun x => x.hold)
  else (s.fw.holds.find? (fun x => x.launch = n && x.group = g)).map (fun x => x.hold)
/-- HOLDCTL as it reads (R368). -/
def State.holdCtl (s : State) : W64 :=
  let h : Nat × Bool := match s.holdOf s.grp.holdLaunch s.grp.holdGroup with
    | some h => (h.st, h.late)
    | none => (0, false)
  BitVec.ofNat 64 (s.grp.holdGroup + 2 ^ 8 * s.grp.holdLaunch + 2 ^ 32 * h.1 + (if h.2 then 2 ^ 34 else 0))
/-- Late falls (R368). -/
def State.clearLate (s : State) (n g : Nat) : State :=
  if n = s.ctl.launchNo then
    (match s.group g with
     | some x => s.setGroup g { x with hold := { x.hold with late := false } }
     | none => s)
  else s.mapHold n g (fun h => { h with late := false })
/-- A write of HOLDCTL whole (R368): Late falls to a 1 in its place, and Op requests or lifts. -/
def State.holdCtlWrite (s : State) (v : W64) : State :=
  let g := bitsOf v.toNat 0 8
  let n := bitsOf v.toNat 8 8
  let op := bitsOf v.toNat 16 2
  if !s.holdNames n g then s
  else
    let t := s.nameHold n g
    let t := if bitsOf v.toNat 34 1 = 1 then t.clearLate n g else t
    if op = 1 then t.requestAny n g false else if op = 2 then t.liftAny n g else t
/-- DEADLINE_CHECK (R158): the miss is counted at the link; a core of the run's group records it, and a hold of that group is
requested. -/
def execDeadlineCheck (s : State) : Out :=
  match s.missing with
  | none => .next s
  | some p =>
    let l := s.link p.link
    let t := s.setLink p.link { l with misses := (l.misses + 1) % 2 ^ 16 }
    let t := { t with fab := { t.fab with pieces := t.fab.pieces.map (fun x => if x = p then { x with missed := true } else x) } }
    let t := if p.no = s.ctl.launchNo && s.member p.group then t.stickyS bDeadlineMiss else t
    .next (t.requestAny p.no p.group true)

/-! ### Pre-emption and resume (R386 to R392) -/

/-- Another member that waits at a seam which is not met withdraws its arrival where the wait directly follows a SAFE (R323, R388);
whether it does is a free value (log entry 102). -/
def Group.othersLeave (x : Group) (me : Nat) (stays : Nat → Bool) : Group :=
  if x.met.isSome then x
  else { x with arrived := x.arrived.map (fun a => if a.1 = me || stays a.1 then a else (a.1, Nat.min a.2 x.released)) }
/-- The other members of this core's groups act on the request. -/
def State.othersLeave (s : State) : State :=
  let stays (m : Nat) : Bool := s.freeNat 8 / 2 ^ m % 2 = 1
  { s.bump with grp := { s.grp with table := s.grp.table.map (fun gx =>
    (gx.1, gx.2.map (fun x => if s.seamMet gx.1 then x else x.othersLeave s.ctl.lcore stays))) } }
/-- A running launch is to be pre-empted (R386, R388, R392): at the core of this model too, and of a group in a run by a hold, which the scheduler requests
(R365; DEDUCED, log entry 101). -/
def State.preemptLaunch (s : State) (l : Launch) : State :=
  if l.st ≠ 3 then s
  else
    let t := s.setLaunch { l with st := 4 }
    if !t.mine l then t
    else
      let t := t.othersLeave
      if !t.sx.on then t
      else (if t.run.phase = .off then t else t.requestHold t.run.group false).preemptHere
/-- PREEMPT_REQUEST (R386, R388). -/
def execPreemptRequest (launch : Nat) (s : State) : Out :=
  .next (match s.launchNo launch with
    | some l => s.preemptLaunch l
    | none => s)
/-- Is a core in a cluster that holds the launch's banks (R391)? -/
def State.bankCluster (s : State) (l : Launch) (c : Nat) : Bool :=
  let ks := s.savedBanks l.no
  ks.isEmpty || ks.any (fun k => k / 256 = c / 8)
/-- RESUME (R391): the save of a SAVED launch is restored into a core that is bound to it, in a cluster that holds its banks; the core
starts with the others (CORE_START). -/
def execResume (launch : Nat) (core : BitVec 8) (s : State) : Out :=
  let c := core.toNat
  match s.launchNo launch with
  | none => .next s
  | some l =>
    if l.st ≠ 5 || s.bindState c ≠ 1 || s.bindOf c % 256 ≠ launch || s.fw.back.contains c || !s.bankCluster l c then .next s
    else .next ((s.banksBack l).bringBack { l with copied := [] } c)

/-! ### Retirement (R389, R393, R394, R414, R428) -/

/-- Every bank of a launch number begins its change to OFF, with no tags (R393 step 2). -/
def State.closeBanks (s : State) (no : Nat) : State :=
  let ks := (s.sram.cfg.filter (fun kc => kc.2.launchTag = no)).map Prod.fst
  let t := { s with sram := { s.sram with changes := s.sram.changes.filter (fun c => !ks.contains c.key) } }
  ks.foldl (fun (u : State) k => u.closeBank k .reset) t
/-- Steps 1 and 3 of R393 at the core of this model. -/
def State.scrubCore (s : State) : State :=
  { s with
    rs := .reset, cv := .reset, cm := .reset, cc := .reset, cx := .reset, me := .reset, iss := [], cmp := [], dq := [], dpend := []
    trap := Trap.reset, run := Run.reset, sx := SIssue.reset, pend := [], grp := { s.grp with table := [], restart := [], waitRestart := none }
    ctl := { s.ctl with launchNo := 0 } }
/-- May a launch begin its scrub: RETIRING, or every core done, with this core at rest (R386, R393)? -/
def State.mayRetire (s : State) (l : Launch) : Bool :=
  let here := s.mine l && (s.sx.on || s.sx.done || s.trap.frame.isSome)
  (l.st = 6 && l.scrubAt = 0 && (!here || (!s.sx.on && s.quiet))) ||
  ((l.st = 3 || l.st = 4) && !s.fw.saved.any (fun x => x.no = l.no) && (!here || (s.sx.done && s.quiet)))
/-- LAUNCH_RETIRE (R386, R389, R393, R406, R428): the frame goes to the save area, the results are measured, the scrub begins. -/
def execLaunchRetire (vi : BitVec 6) (id : W64) (s : State) : Out :=
  match s.launchId vi.toNat id with
  | none => .next s
  | some l =>
    if !s.mayRetire l then .next s
    else
      let here := s.mine l
      let t := match s.trap.frame with
        | some f => if here && !s.sx.done then s.objWrite (capObj (recCap l.record 168)) (l.slot s.ctl.lcore) f.bytes else s
        | none => s
      let l := (t.launchId vi.toNat id).getD l
      let m := if 3 ≤ l.recs.length then (List.range (l.f 38 2)).foldl (fun (x : Launch) i => t.measureResult x i) l else l
      let m := { m with st := 6, scrubAt := t.now + 1 + t.delay % 2304 }
      let t := (t.setLaunch m).popDelay
      let t := if l.no = 0 then t else (t.closeBanks l.no)
      let t := { t with fw := { t.fw with saved := t.fw.saved.filter (fun x => x.no ≠ l.no || l.no = 0) } }
      let t := (t.boundTo l.no).foldl (fun (u : State) c => u.setBindSt c 3) t
      .next (if here then t.scrubCore else t)
/-- Rights that the unretired launches other than one grant on an object (R76). -/
def State.otherRights (s : State) (l : Launch) (obj : Nat) : Nat :=
  ((s.fw.launches.filter (fun x => !(x.vi = l.vi && x.id = l.id) && 3 ≤ x.recs.length)).flatMap (fun x =>
    x.leased ++ x.bolts.map (fun b => (b, 0x47, false)))).foldl (fun n y => if y.1 = obj then n ||| y.2.1 else n) 0
/-- Give one lease back (R76). -/
def State.unlease (s : State) (l : Launch) (obj : Nat) : State :=
  match tget none s.mem.obj obj with
  | none => s
  | some e =>
    if e.state = 3 then s
    else if e.leaseCount ≤ 1 then
      s.setEntry obj (some { e with leaseCount := 0, state := if e.state = 2 then 1 else e.state, pin := false, maxRights := 0 })
    else s.setEntry obj (some { e with leaseCount := e.leaseCount - 1, maxRights := BitVec.ofNat 8 (s.otherRights l obj) })
/-- Is a launch's scrub over (R393)? -/
def State.scrubDue (s : State) (l : Launch) : Bool :=
  l.st = 6 && l.scrubAt ≠ 0 && l.scrubAt ≤ s.now && !s.sram.changes.any (fun c => l.no ≠ 0 && (s.cfgOf c.key).launchTag = l.no)
/-- What this package holds for a launch number that is freed: its patterns, the holds of its groups (R382, R393 step 5). -/
def State.forget (s : State) (no : Nat) : State :=
  if no = 0 then s
  else { s with
    fab := { s.fab with installed := tset none s.fab.installed no none, xbar := tset [] s.fab.xbar no [] }
    fw := { s.fw with holds := s.fw.holds.filter (fun h => h.launch ≠ no) } }
/-- SCRUB_END (R393 steps 4 to 6, R394). -/
def execScrubEnd (vi : BitVec 6) (id : W64) (s : State) : Out :=
  match s.launchId vi.toNat id with
  | none => .next s
  | some l =>
    if !s.scrubDue l then .next s
    else
      let leased := if 3 ≤ l.recs.length then l.leased.map Prod.fst else []
      let t := (leased ++ l.bolts).foldl (fun (u : State) o => u.unlease l o) s
      let t := (t.boundTo l.no).foldl (fun (u : State) c =>
        { u with fw := { u.fw with
          bind := tset 0 u.fw.bind c 0, bindSt := tset 0 u.fw.bindSt c 0, doneCores := u.fw.doneCores.filter (fun x => x ≠ c)
          back := u.fw.back.filter (fun x => x ≠ c) } }) t
      .next (t.forget l.no |>.retired l)
/-- Does an unretired launch name the entry (R409, R412)? -/
def State.keyNamed (s : State) (vi e : Nat) : Bool :=
  s.fw.launches.any (fun l => l.vi = vi && l.f 128 8 ≠ 0 && l.f 128 8 % 16 = e)
/-- A world whose last launch has retired (R412, R414). -/
def State.deadWorld (s : State) : Option Nat := (s.tr.worlds.find? (fun x => !s.keyNamed x.2.1 x.2.2)).map Prod.fst
/-- A world ends: its key slot is zeroed, its objects belong to no world, and its ID is free (R413, R414). -/
def State.endWorld (s : State) (w : Nat) : State :=
  let gone (t : Table (Option ObjEntry)) : Table (Option ObjEntry) :=
    t.map (fun x => (x.1, x.2.map (fun e => if e.worldID = w then { e with worldID := 0xFFFF } else e)))
  { s with
    tr := { s.tr with worlds := s.tr.worlds.filter (fun x => x.1 ≠ w) }
    mem := { s.mem with worldKey := tset 0 s.mem.worldKey w 0, obj := gone s.mem.obj, port := gone s.mem.port } }
/-- WORLD_END (R412, R414). -/
def execWorldEnd (w : Nat) (s : State) : Out :=
  .next (if s.tr.worlds.any (fun x => x.1 = w && !s.keyNamed x.2.1 x.2.2) then s.endWorld w else s)

/-! ### The other ring commands of the scheduler (R395) -/

/-- RELEASE_ID (R91, R395): a release of the bolt's pages that is still to come takes place first. -/
def execReleaseId (vi : BitVec 6) (seq : W64) (obj : Nat) (s : State) : Out :=
  let v := vi.toNat
  if (s.vif v).st ≠ 3 then .next s
  else match tget none s.mem.obj obj with
    | some e =>
      if e.kind = 2 && e.state = 3 && e.ownerVI = v then
        let t := (s.mem.rels.filter (fun r => r.id = obj)).foldl State.releaseBolt s
        let p := t.pool v
        ((t.setEntry obj none).setPool v { p with ids := putUp obj p.ids }).cmdDone v seq 0
      else s.cmdDone v seq 0x307
    | none => s.cmdDone v seq 0x307
/-- CUT_IDLE (R91, R395). -/
def execCutIdle (vi : BitVec 6) (seq : W64) (obj : Nat) (s : State) : Out :=
  let v := vi.toNat
  if (s.vif v).st ≠ 3 then .next s
  else match tget none s.mem.obj obj with
    | some e =>
      if e.kind = 2 && e.state = 1 && e.ownerVI = v then (s.killBolt obj e).cmdDone v seq 0 else s.cmdDone v seq 0x307
    | none => s.cmdDone v seq 0x307
/-- PARK_READ (R185, R395). -/
def execParkRead (vi : BitVec 6) (seq addr : W64) (s : State) : Out :=
  let v := vi.toNat
  if (s.vif v).st ≠ 3 then .next s
  else match s.sh.parks.find? (fun p => p.tenant = v) with
    | some p => (s.hostWrite addr.toNat (s.parkBytes p)).cmdDone v seq 0
    | none => s.cmdDone v seq 0x308
/-- PARK_RELEASE (R185, R395). -/
def execParkRelease (vi : BitVec 6) (seq park : W64) (s : State) : Out :=
  let v := vi.toNat
  if (s.vif v).st ≠ 3 then .next s
  else match s.sh.parks.find? (fun p => p.tenant = v && p.seq = park.toNat) with
    | some p => { s with sh := { s.sh with parks := s.sh.parks.filter (fun x => x.seq ≠ p.seq) } }.cmdDone v seq 0
    | none => s.cmdDone v seq 0x308

end Sys2Proof.Machine
end

