-- ==== Sys2Proof/Machine/Cycle.lean ====
section
/-! DEFINITION. CLOCK_CYCLE: the swallowing of clock cycles, and all that the end of a tape cycle and the start of the next one
bring with them (R9, R13, R55, R94 to R96, R117, R348, R359, R360, R372). -/

namespace Sys2Proof.Machine

/-! ### Timed requests at the banks (R95, R96, R348) -/

/-- May a timed request of this launch use its bank (R96)? -/
def State.reqUsable (s : State) (r : TReq) : Bool := s.routerBank (s.reqKey r / 2 ^ 24) (s.reqKey r % 2 ^ 24)
/-- Does q take the bank from r: a lower requester number, or before it among the router's (R95, R96)? -/
def TReq.beats (q r : TReq) : Bool := q.num < r.num || (q.num = 128 && r.num = 128 && q.order < r.order)
/-- Does a request change bytes of its bank? -/
def TReq.isWrite (r : TReq) : Bool :=
  match r.act with
  | .write _ => true
  | .red _ _ _ _ => true
  | _ => false
/-- Bytes that a timed transfer has read go on to where they become visible (R131). -/
def State.landBytes (s : State) (r : TReq) (land : Nat) (dst : Tgt) (num : Nat) (b : List Byte) : State :=
  match dst with
  | .sram ((k, lane) :: _) =>
    { s with sram := { s.sram with
      timed := s.sram.timed ++ [⟨land, num, if num = 128 then 24 + lane.toNat else r.order, k, false, .write b, r.iss, r.own⟩] } }
  | .obj id o _ => s.pushIss r.iss land .c (.obj id o b)
  | .rs ((y, _) :: _) => s.pushIss r.iss land .c (.rs (cellsAt y b))
  | _ => s
/-- A beat that a generator has read in a run. -/
def AGen.fillBeat (g : AGen) (k : Nat) (b : List Byte) : AGen :=
  { g with beats := g.beats.map (fun x => if x.2.1 = k then (x.1, k, fitBytes 256 b) else x) }
/-- A row of a fill that the gather unit has read in a run (R209). -/
def State.fillRead (s : State) (fill n : Nat) (b : List Byte) : State :=
  { s with rs := { s.rs with fills := s.rs.fills.map (fun (f : GFill) =>
    if f.id = fill then { f with rows := setNth f.rows n b } else f) } }
/-- A bank answers a timed request; one that it does not serve reads zeros and writes nothing (R96). -/
def State.answer (s : State) (r : TReq) (won : Bool) : State :=
  let k := s.reqKey r
  let rd (n : Nat) : List Byte := if won then mreadN s.sram.bytes k n else List.replicate n 0
  match r.act with
  | .write b => if won then { s with sram := { s.sram with bytes := mwriteN s.sram.bytes k b } } else s
  | .readS d n sg land => s.pushIss r.iss land .s (.sreg d (loadVal sg (rd n)))
  | .readC d land => s.pushIss r.iss land .s (.creg d (loadCap (rd 16)))
  | .readAG g n =>
    let w := match (s.agen g).nest with | some ne => 2 ^ ne.widthLog | none => 256
    s.setAgen g ((s.agen g).fillBeat n (rd w))
  | .readG fill n => s.fillRead fill n (rd (match s.rs.fills.find? (fun (f : GFill) => f.id = fill) with | some f => f.width | none => 256))
  | .move n land dst num => s.landBytes r land dst num (rd n)
  | .fetch _ _ _ _ _ _ => s
  | .touch => s
  | .send n pkg core link p => s.sendPiece pkg core link p (rd n)
  | .ask _ _ _ _ => s
  | .red op wire b own =>
    if won then
      let r := redPiece op wire 16 (mreadN s.sram.bytes k b.length) b
      let t := { s with sram := { s.sram with bytes := mwriteN s.sram.bytes k r.1 } }
      if r.2 && own then t.stickyC bRedOvf else t
    else s
/-- What a timed request does at no bank: a read of an object (R65, R131), the request of a GET that leaves (R151). -/
def State.doFetch (s : State) (r : TReq) : State :=
  match r.act with
  | .fetch k o n land dst num =>
    if s.badAt k o n then s.failRun ⟨s.now, 0x08D, 0, 3, k, BitVec.ofNat 64 o, 0, false, true⟩
    else s.landBytes r land dst num (s.objRead (capObj k) o n)
  | .ask pkg core link p => s.sendPiece pkg core link p (p.data.getD [])
  | _ => s
/-- An event of a bank reaches the core whose request it is (R96). -/
def State.missed (s : State) (r : TReq) (v : W64) : State := if r.own then s.stickySram v else s
/-- A request whose bank is not usable, or serves another (R96). -/
def State.answerOne (s : State) (all : List TReq) (r : TReq) : State :=
  let b := s.reqKey r / 65536
  if !s.reqUsable r then (s.answer r false).missed r bBankMiss
  else if all.any (fun q => s.reqKey q / 65536 = b && q.beats r) then (s.answer r false).missed r bBankCollide
  else s.answer r true
/-- Put a request behind every one issued no later. -/
def insReq (r : TReq) : List TReq → List TReq
  | [] => [r]
  | q :: t => if r.order < q.order then r :: q :: t else q :: insReq r t
/-- Requests in the order of their issue (R55, R96). -/
def reqsByOrder (l : List TReq) : List TReq := l.foldl (fun a r => insReq r a) []
/-- Does the island that serves a timed request advance: its cluster SRAM, or the port that it reads (R372, R373, R440)? -/
def State.servable (s : State) (r : TReq) : Bool :=
  match r.act with
  | .fetch k o _ _ _ _ => s.portTicks (s.portAt (capObj k) o)
  | .ask _ _ _ _ => true
  | _ => s.ticks (64 + s.reqKey r / 2 ^ 24)
/-- The bank cycles of this tape cycle: writes first, then reads (R95, R96, R348). A request to an island whose clock is stopped
waits for it. -/
def State.resolveBanks (s : State) : State :=
  let now := s.sram.timed.filter (fun r => r.cycle ≤ s.now && s.servable r)
  let t := { s with sram := { s.sram with timed := s.sram.timed.filter (fun r => !(r.cycle ≤ s.now && s.servable r)) } }
  let t := (now.filter TReq.isFetch).foldl State.doFetch t
  let at_ := reqsByOrder (now.filter (fun r => !r.isFetch))
  let t := (at_.filter TReq.isWrite).foldl (fun (u : State) r => u.answerOne at_ r) t
  (at_.filter (fun r => !r.isWrite)).foldl (fun (u : State) r => u.answerOne at_ r) t
/-- Untimed requests that waited at a bank which served another (R94, R111). -/
def State.stallTurn (s : State) : State :=
  let here := s.sram.timed.filter (fun r => r.cycle ≤ s.now && !r.isFetch && s.servable r)
  let busy := uniq ((s.sram.served ++ here.map (fun r => s.reqKey r / 65536)).filter (fun k => k / 256 = s.cluster))
  let n := s.stalled busy
  if n = 0 then s
  else
    let c := tset 0 s.sram.bcstall s.cluster (tget 0 s.sram.bcstall s.cluster + BitVec.ofNat 64 n)
    { s with sram := { s.sram with bcstall := c } }

/-! ### The end of a tape cycle -/

/-- The decoded entry of an engine becomes ready once its tokens are met (R117). -/
def State.readyTurn1 (s : State) (e : Engine) : State :=
  let c := s.chain e
  match c.cur with
  | some en => if !en.ready && s.needsMet en then s.setChain e { c with cur := some { en with ready := true } } else s
  | none => s
/-- All chain engines. -/
def State.readyTurn (s : State) : State := [Engine.v, .m, .c].foldl State.readyTurn1 s
/-- A request for pre-emption looks again at a wait that S has entered since (R388). -/
def State.preemptTurn (s : State) : State := if s.sx.preempt && s.sx.on then s.preemptHere else s
/-- The end of tape cycle t: banks, links, matrix paths, gather rows, tokens, stops. -/
def State.endCycle (s : State) : State :=
  let s := (s.preemptTurn.drainStep).stallTurn.resolveBanks
  let s := if s.rosodTicks then s.sendTurn else s
  let s := if s.coreTicks then s.tickM.fillRows else s
  s.readyTurn.markReady

/-! ### A cycle in which the core's island does not advance (R372) -/

/-- A cycle that has not come moves one on. -/
def later (t x : Nat) : Nat := if t ≤ x then x + 1 else x
/-- A wait of S. -/
def Hold.slide : Hold → Hold
  | .token i n a b => .token i n (a + 1) b
  | .counter i n v a b => .counter i n v (a + 1) b
  | .seam g a b r x => .seam g (a + 1) b r x
  | .tape v => .tape v
  | .no => .no
  | .run => .run
  | .exit => .exit
/-- A chain engine. -/
def Chain.slide (t : Nat) (c : Chain) : Chain :=
  { c with
    next := later t c.next
    cur := c.cur.map (fun e => { e with at_ := e.at_ + 1 })
    cmds := c.cmds.map (fun (x : Cmd) =>
      { x with decodedAt := x.decodedAt + 1, doneAt := x.doneAt.map (later t), tokAt := later t x.tokAt }) }
/-- A generator. -/
def AGen.slide (t n : Nat) (g : AGen) : AGen :=
  { g with nextR := later t g.nextR, beats := g.beats.map (fun b => (if 6 ≤ n then later t b.1 else b.1 + 1, b.2)) }
/-- A drain of M. -/
def MDrain.slide (t : Nat) (d : MDrain) : MDrain :=
  { d with next := later t d.next, pushes := d.pushes.map (fun p => (later t p.1, p.2)) }
/-- The matrix engine. -/
def MEng.slide (t : Nat) (m : MEng) : MEng :=
  { m with
    loads := m.loads.map (fun l => { l with next := later t l.next, switchAt := later t l.switchAt })
    stream := m.stream.map (fun x => { x with next := later t x.next })
    rows := m.rows.map (fun r => { r with at_ := later t r.at_ })
    drain := m.drain.map (MDrain.slide t)
    pushing := m.pushing.map (MDrain.slide t) }
/-- S. -/
def SIssue.slide (t : Nat) (x : SIssue) : SIssue :=
  { x with
    next := later t x.next
    hold := x.hold.slide
    blk := x.blk.map (fun b => { b with ready := later t b.ready })
    loads := x.loads.map (fun l => { l with at_ := l.at_ + 1, due := match l.src with
      | .sram _ => l.due.map (later t)
      | .obj _ _ => l.due })
    stores := x.stores.map (fun r => { r with at_ := r.at_ + 1 }) }
/-- A stream of a run. -/
def Stream.slide (t : Nat) (x : Stream) : Stream := { x with next := later t x.next }
/-- Every count that the units of the core make stands still for this cycle (R372); ports of memory go on. -/
def State.slide (s : State) : State :=
  let t := s.now
  { s with
    pend := s.pend.map (fun p => match p.tgt with
      | .obj _ _ _ => p
      | _ => { p with due := later t p.due })
    sx := s.sx.slide t
    cv := s.cv.slide t, cm := s.cm.slide t, cc := s.cc.slide t
    me := s.me.slide t
    rs := { s.rs with
      power := s.rs.power.map (fun p => (p.1, p.2.1, if p.2.1 = 2 then later t p.2.2 else p.2.2))
      ags := s.rs.ags.map (fun g => (g.1, g.2.slide t g.1))
      fills := s.rs.fills.map (fun (f : GFill) => { f with nextAt := later t f.nextAt, endAt := later t f.endAt }) }
    run := { s.run with s := s.run.s.slide t, v := s.run.v.slide t, m := s.run.m.slide t, c := s.run.c.slide t } }

/-- Do the ports of an object stand still? -/
def State.portStill (s : State) (id o : Nat) : Bool := !s.portTicks (s.portAt id o)
/-- Does the port of a capability's window stand still? -/
def State.capStill (s : State) (k : Cap) : Bool := !isSpad k && s.portStill (capObj k) (capLower k)
/-- Accesses under way at a memory port that does not advance wait a cycle more (R372, R440). -/
def State.slidePorts (s : State) : State :=
  let t := s.now
  if s.fw.islands.isEmpty then s
  else
    { s with
      pend := s.pend.map (fun p => match p.tgt with
        | .obj id o _ => if s.portStill id o then { p with due := later t p.due } else p
        | _ => p)
      sx := { s.sx with
        loads := s.sx.loads.map (fun l => match l.src with
          | .obj id o => if s.portStill id o then { l with due := l.due.map (later t) } else l
          | .sram _ => l)
        stores := s.sx.stores.map (fun r => match r.dest with
          | .obj id o => if s.portStill id o then { r with due := r.due.map (later t) } else r
          | .sram _ => r) }
      cc := { s.cc with cmds := s.cc.cmds.map (fun (c : Cmd) =>
        if s.capStill c.src || s.capStill c.dst then { c with doneAt := c.doneAt.map (later t) } else c) }
      fab := { s.fab with
        landing := s.fab.landing.map (fun (l : Landing) =>
          if s.capStill l.data.cap || s.capStill l.data.from_ then { l with at_ := later t l.at_ } else l)
        leaving := s.fab.leaving.map (fun (l : Leaving) => 
          if s.cc.cmds.any (fun c => c.id = l.cmd && s.capStill c.src) then { l with at_ := later t l.at_ } else l) }
      sh := { s.sh with eng := s.sh.eng.map (fun v => { v with acc := v.acc.map (fun a =>
        if s.capStill a.cap then { a with ready := later t a.ready } else a) }) } }

/-! ### The next tape cycle -/

/-- What firmware does of its own accord: a world whose last launch has retired ends, and a running launch gives its cores to one that
outranks it (R387, R414). -/
def State.firmwareTurn (s : State) : State :=
  let t := match s.deadWorld with | some w => s.endWorld w | none => s
  match t.preemptee with
  | some l => t.preemptLaunch l
  | none => t

/-- The tape advances, or takes the value loaded, and what is due in the new cycle lands (R9, R55, R358, R439). -/
def State.newCycle (s : State) : State :=
  let s := { s with
    clk := { s.clk with tape := s.clk.load.getD (s.clk.tape + 1), load := none }, sram := { s.sram with served := [] } }
  let s := (if s.coreTicks then s else s.slide).slidePorts
  let s := (s.landLoads.landDue s.now).mSwitch.landFills.agStops
  let s := if s.chainsRun then s.skipTurn else s
  (s.sx.sigs.foldl (fun (t : State) _ => t.sigTurn) s).heldBack.fabTurn.linksUp.holdTurn.missTurn.firmwareTurn
/-- Is this clock cycle swallowed, and by how much does it move StepPending (R359, R360)? A unit that is due swallows a cycle which
the rate does not, or keeps one which it does. -/
def Clock.swallow (c : Clock) : Bool × Int :=
  let carry := 2 ^ 32 ≤ c.phase.toNat + c.rate.toNat
  if carry then (if c.unit < 0 && c.stepPending < 0 then (false, 1) else (true, 0))
  else if 0 < c.unit && 0 < c.stepPending then (true, -1)
  else (false, 0)
/-- CLOCK_CYCLE (R359): the phase advances; the clock cycle is swallowed, or the tape cycle ends and the next one begins. -/
def execClockCycle (s : State) : Out :=
  let r := s.clk.swallow
  let c : Clock := { s.clk with
    phase := s.clk.phase + s.clk.rate, stepPending := s.clk.stepPending + r.2, unit := if r.2 = 0 then s.clk.unit else 0
    clocks := Nat.min 1024 (s.clk.clocks + 1) }
  let t := { s with clk := c }
  .next (if r.1 then t else t.endCycle.newCycle)

end Sys2Proof.Machine
end

