-- ==== Sys2Proof/Machine/Trust.lean ====
section
/-! DEFINITION. Interface configuration and VICTL, sealed keys, receipts, islands, snapshots, checkpoints, package reset and plain
register writes (R17, R19, R75, R103, R107, R178 to R180, R368, R409, R410, R418, R419, R430 to R432, R436 to R442, R481), and the capability list (R2, R437). -/

namespace Sys2Proof.Machine

/-! ### The capability list (R2, R437) -/

/-- The data of an entry of the capability list (R437); how each fills its 12 bytes the spec does not say (log entry 85). -/
inductive CapData where
  /-- Ordering code (0 XK4-P, 1 XK4-M), silicon revision, DDR5 channels present. -/
  | package (ordering revision channels : Nat)
  /-- Loom size in X, Y and Z, and the package's coordinates. -/
  | loom (x y z coord : Nat)
  /-- BAR offsets of the public key and of its endorsement. -/
  | signingKey (key endorsement : Nat)
  /-- Count of published profiles, and the BAR offset of their IDs. -/
  | profiles (count ids : Nat)
  /-- Bolt key slots, delivery counters and park records of the function. -/
  | limits (slots counters parks : Nat)
  deriving DecidableEq, Repr
/-- An entry of the capability list (R437): `next` counts 16 bytes from 0x1000, and 0 ends the list. -/
structure CapEntry where
  id : Nat
  version : Byte
  next : Nat
  data : CapData
  deriving DecidableEq, Repr
/-- The DDR5 channels that a package reports: none on an XK4-P (R2). -/
def State.ddrChannels (s : State) : Nat := if s.mem.xk4m then 12 else 0
/-- The IDs of the published profiles (R240). -/
def publishedIds : List Nat := [0x0101, 0x0102, 0x0201, 0x0202, 0x0301, 0x0401]
/-- The capability list as the function of an interface reads it (R2, R437): five entries, one behind the other from 0x1000. -/
def State.capList (s : State) (vi : Nat) : List CapEntry :=
  let e (id next : Nat) (d : CapData) : CapEntry := ⟨id, Config.capVersion id, next, d⟩
  [e 1 1 (.package (if s.mem.xk4m then 1 else 0) Config.siliconRevision s.ddrChannels),
   e 2 2 (.loom (s.loomSize 0) (s.loomSize 1) (s.loomSize 2) s.fab.coord),
   e 3 3 (.signingKey Config.keyOffset Config.endorsementOffset),
   e 4 4 (.profiles publishedIds.length Config.profilesOffset),
   e 5 0 (.limits (s.pool vi).slots.length (bitsOf (tget 0 s.fab.dcPart vi).toNat 12 13)
     (Nat.min 16 (256 - (s.sh.parks.filter (fun p => p.tenant ≠ vi)).length)))]

/-- The numbers of an entry's data, in the table's order. -/
def CapData.numbers : CapData → List Nat
  | .package o r c => [o, r, c]
  | .loom x y z c => [x, y, z, c]
  | .signingKey k e => [k, e]
  | .profiles n i => [n, i]
  | .limits s c p => [s, c, p]
/-- The 16 bytes of an entry (R437): ID, Version, Next, and the data, whose layout the spec leaves open (log entry 85). -/
def CapEntry.bytes (e : CapEntry) : List Byte :=
  leBytes 2 e.id ++ [e.version] ++ leBytes 1 e.next ++ (Config.capBytes e.id e.data.numbers).toList

/-! ### The register space of a function: BAR0 (R434 to R437) -/

/-- RINGST (R424). -/
def Ring.stat (k : Ring) : W64 := BitVec.ofNat 64 (k.st + 2 ^ 16 * k.replays + 2 ^ 40 * k.authFails)
/-- The registers of a command ring's block as they read (R17, R424, R436): RINGRESYNC is WO. -/
def Ring.block (k : Ring) : List Byte :=
  fitBytes 0x80 (leBytes 8 k.base.toNat ++ leBytes 8 k.size.toNat ++ leBytes 8 k.head.toNat ++ leBytes 8 k.stat.toNat ++ leBytes 8 k.n.toNat)
/-- The registers of the completion ring's block as they read (R436). -/
def Vi.cplBlock (x : Vi) : List Byte :=
  fitBytes 0x80 (leBytes 8 x.cplBase.toNat ++ leBytes 8 x.cplSize.toNat ++ leBytes 8 x.cplTail.toNat ++ leBytes 8 x.cplHead.toNat)
/-- A byte of a function's BAR0 as the host reads it (R434): the doorbells are WO, the capability list stands at 0x1000, the blocks
of the rings at 0x2000, that of the completion ring at 0x2200; the rest is reserved and reads 0 (R17, R19). -/
def State.barByte (s : State) (vi a : Nat) : Byte :=
  if a < 0x1000 then 0
  else if a < 0x2000 then nthD 0 ((s.capList vi).flatMap CapEntry.bytes) (a - 0x1000)
  else if a < 0x2200 then nthD 0 ((s.vif vi).ring ((a - 0x2000) / 0x80)).block (a % 0x80)
  else if a < 0x2280 then nthD 0 (s.vif vi).cplBlock (a % 0x80)
  else 0
/-! ### Configuration registers (R418, R419) -/

/-- The numbers of a bolt-pool limit: n from the first on. -/
def limitRange (first n : Nat) : List Nat := (List.range n).map (fun i => first + i)
/-- A bolt-pool limit sets what of its kind is free (R86): of the object IDs, those whose entry is FREE; of the key slots, those
that hold no key; of the pages of a tier and page size, those that no segment holds. The spec gives the limits no layout: First in
bits 23:0 and Count in 48:24 of the IDs, First in 15:0 and Count in 31:16 of the slots, Base in 47:0 and Count in 63:48 of the pages
are the model's (DESIGN CHOICE, log entry 100). -/
def State.setLimit (s : State) (vi key : Nat) (v : W64) : State :=
  let p := s.pool vi
  let w := v.toNat
  if key = 33 then s.setPool vi { p with ids := (limitRange (bitsOf w 0 24) (bitsOf w 24 25)).filter (fun i =>
    match tget none s.mem.obj i with | some e => e.state = 0 | none => true) }
  else if key = 34 then s.setPool vi { p with slots := (limitRange (bitsOf w 0 16) (bitsOf w 16 16)).filter (fun i =>
    tget 0 s.mem.keySlot i = 0) }
  else
    let n := pageBytes ((key - 40) % 8)
    let base := bitsOf w 0 48 - bitsOf w 0 48 % n
    s.setPool vi { p with pages := tset [] p.pages (key - 40) (((List.range (bitsOf w 48 16)).map (fun i => base + n * i)).filter (fun b =>
      !s.mem.obj.any (fun x => x.2.any (fun e => e.segs.any (fun g => g.valid && g.base = b))))) }
/-- A write reaches the copy that the hardware obeys; RO and reserved bits are ignored (R17, R19). Keys: 0 DCPART, 1 SHPERM,
2 LEASEMASK, 4 + w and 8 + w the low and high dword of SHWINCAP, 12 + w SHWINCTL, 16 + r RINGBASE, 24 + r RINGSIZE (r = 4:
completion ring), 33, 34 and 40 + 8 × tier + page size the bolt-pool limits, 64 + 1024 × resource + slot a grant bit. The low dword of
SHWINCAP takes effect with the high one (R179). -/
def State.effect (s : State) (vi key : Nat) (v : W64) : State :=
  let x := s.vif vi
  if key = 0 then { s with fab := { s.fab with dcPart := tset 0 s.fab.dcPart vi (v &&& 0x1FFFFFF#64) } }
  else if key = 1 then { s with sh := { s.sh with perm := tset 0 s.sh.perm vi (v &&& 0x1FFFFFFFFF#64) } }
  else if key = 2 then { s with fw := { s.fw with leaseMask := tset 0xFF#64 s.fw.leaseMask vi (v &&& 0xFF#64) } }
  else if key < 8 then s
  else if key < 12 then
    let k := 4 * vi + (key - 8)
    let lo : W64 := (tget none x.live (key - 4)).getD ((s.winCap vi (key - 8)).setWidth 64)
    { s with sh := { s.sh with winCap := tset 0 s.sh.winCap k ((v.setWidth 128 <<< 64) ||| lo.setWidth 128) } }
  else if key < 16 then
    { s with sh := { s.sh with winCtl := tset 0 s.sh.winCtl (4 * vi + (key - 12)) (v &&& 0xFFFF003F#64) } }
  else if key < 24 then
    let b := v &&& ~~~0xFFF#64
    if key = 20 then s.setVif vi { x with cplBase := b } else s.setVif vi (x.setRing (key - 16) { x.ring (key - 16) with base := b })
  else if 32 < key && key < 64 then s.setLimit vi key v
  else if key < 64 then
    let n := v &&& 31#64
    if key = 28 then s.setVif vi { x with cplSize := n } else s.setVif vi (x.setRing (key - 24) { x.ring (key - 24) with size := n })
  else
    let g := 8 * vi + (key - 64) / 1024
    let slot := (key - 64) % 1024
    let old := (tget [] s.fab.grants g).filter (fun i => i ≠ slot)
    { s with fab := { s.fab with grants := tset [] s.fab.grants g (if v.toNat % 2 = 1 then old ++ [slot] else old) } }
/-- Is a key the low dword of a window capability? -/
def lowDword (key : Nat) : Bool := 4 ≤ key && key < 8
/-- A configuration write, by the state of its interface (R419). -/
def State.configWrite (s : State) (vi key : Nat) (v : W64) : State :=
  let x := s.vif vi
  if 2 ≤ x.st then s.setVif vi { x with live := tset none x.live key (some v), cfgPending := true }
  else if lowDword key then s.setVif vi { x with live := tset none x.live key (some v) }
  else
    let t := s.effect vi key v
    if 8 ≤ key && key < 12 then
      let y := t.vif vi
      t.setVif vi { y with live := tset none y.live (key - 4) none }
    else t
/-- The effective copies take the live ones (R419); the low dword of a window capability waits for its high one (R179). -/
def State.takeLive (s : State) (vi : Nat) : State :=
  let l := (s.vif vi).live
  let t := l.foldl (fun (u : State) k => match k.2 with | some v => u.effect vi k.1 v | none => u) s
  t.setVif vi { t.vif vi with live := l.filter (fun k => lowDword k.1 && (tget none l (k.1 + 4)).isNone), cfgPending := false }

/-! ### VICTL (R418, R419, R436) -/

/-- A refused Op: VI_STATE (R418). -/
def State.refuseOp (s : State) (vi : Nat) : State := s.setVif vi { s.vif vi with refused := true }
/-- Enter a state. -/
def State.viState (s : State) (vi st : Nat) : State := s.setVif vi { s.vif vi with st := st }
/-- VI_ENABLE. -/
def execViEnable (vi : BitVec 6) (s : State) : Out :=
  .next (if (s.vif vi.toNat).st = 0 then s.viState vi.toNat 1 else s)
/-- Are the sizes of all five rings lawful (R436)? -/
def Vi.ringsOk (x : Vi) : Bool :=
  (x.cplSize :: [0, 1, 2, 3].map (fun r => (x.ring r).size)).all (fun n => 6 ≤ n.toNat && n.toNat ≤ 16)
/-- VI_LOCK. -/
def execViLock (vi : BitVec 6) (s : State) : Out :=
  let x := s.vif vi.toNat
  .next (if x.st = 0 then s.refuseOp vi.toNat
    else if x.st = 1 then (if x.ringsOk then s.viState vi.toNat 2 else s.refuseOp vi.toNat)
    else s)
/-- VI_START: in RUN, the command processor reads what the rings hold below their tails (R436). -/
def execViStart (vi : BitVec 6) (s : State) : Out :=
  let x := s.vif vi.toNat
  .next (if x.st ≤ 1 then s.refuseOp vi.toNat
    else if x.st = 2 then
      (if [0, 1, 2, 3].all (fun r => (x.ring r).st ≠ 3) then (s.viState vi.toNat 3).pump vi.toNat else s.refuseOp vi.toNat)
    else s)
/-- VI_STOP. -/
def execViStop (vi : BitVec 6) (s : State) : Out :=
  let x := s.vif vi.toNat
  .next (if x.st ≤ 1 then s.refuseOp vi.toNat
    else if x.st = 3 then s.setVif vi.toNat { x with stopping := true }
    else s)
/-- VI_UNLOCK. -/
def execViUnlock (vi : BitVec 6) (s : State) : Out :=
  let x := s.vif vi.toNat
  .next (if x.st = 0 || x.st = 3 then s.refuseOp vi.toNat
    else if x.st = 2 then (s.takeLive vi.toNat).viState vi.toNat 1
    else s)
/-- The first interface whose stop is complete (R419). -/
def State.stoppedVi (s : State) : Option Nat :=
  (s.tr.vis.find? (fun x => x.2.st = 3 && x.2.stopping && !s.fw.launches.any (fun l => l.vi = x.1))).map Prod.fst
/-- VI_STOP_COMPLETE. -/
def execViStopComplete (s : State) : Out :=
  match s.stoppedVi with
  | some v => .next (s.setVif v { s.vif v with st := 2, stopping := false })
  | none => .next s
/-- A shuttle of the interface? -/
def shOf (vi : Nat) (sh : Shuttle) : Bool := sh.tenant.toNat = vi
/-- A flit of a shuttle of the interface that has not left yet? -/
def ofShuttle (vi : Nat) (f : Flit) : Bool := f.seq.isNone && (match f.load with | .shuttle x _ => shOf vi x | _ => false)
/-- The shuttles of an interface in flight at this package are dropped, each of them counted, with their flits that have not left and
their accesses at banks and ports (R186). One all of whose flits have left is in flight to the next package (DESIGN CHOICE, log entry
99). -/
def State.dropShuttles (s : State) (v : Nat) : State :=
  let mine := s.sh.eng.filter (fun x => shOf v x.sh)
  let out (x : Nat × Shuttle) : Bool := shOf v x.2 && [0, 1, 2, 3, 4, 5].any (fun k => (s.link k).out.any (fun f =>
    ofShuttle v f && (match f.load with | .shuttle y _ => y = x.2 | _ => false)))
  let n := (s.sh.buffer.filter (fun x => shOf v x.2)).length + mine.length + (s.sh.departed.filter out).length
  let t := mine.foldl (fun (t : State) x => t.dropAsks (.visit x.id)) s
  let t := [0, 1, 2, 3, 4, 5].foldl (fun (t : State) k =>
    t.setLink k { t.link k with out := (t.link k).out.filter (fun f => !ofShuttle v f) }) t
  { t with
    mem := { t.mem with parked := t.mem.parked.filter (fun p => !mine.any (fun x => p.who = .visit x.id)) }
    sh := { t.sh with
      buffer := t.sh.buffer.filter (fun x => !shOf v x.2), eng := t.sh.eng.filter (fun x => !shOf v x.sh)
      departed := t.sh.departed.filter (fun x => !out x), drops := (t.sh.drops + n) % 2 ^ 16 } }
/-- VI_RESET (R186, R419). -/
def execViReset (vi : BitVec 6) (s : State) : Out :=
  let v := vi.toNat
  let t := ((s.fw.launches.filter (fun l => l.vi = v)).foldl (fun (u : State) l => u.hostAbort l) s).dropShuttles v
  let keep (w : Table W64) : Table W64 := w.filter (fun x => x.1 / 4 ≠ v)
  .next { t with
    sh := { t.sh with
      parks := t.sh.parks.filter (fun p => p.tenant ≠ v), perm := tset 0 t.sh.perm v 0
      winCap := t.sh.winCap.filter (fun x => x.1 / 4 ≠ v), winCtl := keep t.sh.winCtl }
    fab := { t.fab with dcPart := tset 0 t.fab.dcPart v 0, grants := t.fab.grants.filter (fun x => x.1 / 8 ≠ v) }
    mem := { t.mem with pools := tset .reset t.mem.pools v .reset }
    fw := { t.fw with leaseMask := tset 0xFF#64 t.fw.leaseMask v 0xFF#64 }
    tr := { t.tr with vis := tset .reset t.tr.vis v .reset, keys := t.tr.keys.filter (fun x => x.1 / 16 ≠ v) } }

/-! ### Sealed keys (R409, R410) -/

/-- A sealed-key entry. -/
def State.sealed (s : State) (vi e : Nat) : SealedKey := tget .reset s.tr.keys (16 * vi + e)
/-- Write a sealed-key entry. -/
def State.setSealed (s : State) (vi e : Nat) (k : SealedKey) : State :=
  { s with tr := { s.tr with keys := tset .reset s.tr.keys (16 * vi + e) k } }
/-- The next Generation of an interface (R409). -/
def State.nextGen (s : State) (vi : Nat) : Nat :=
  ((List.range 16).map (fun e => (s.sealed vi e).high)).foldl Nat.max 0 + 1
/-- A sealed blob (R410): a key is its serial number, and the sealing is an opaque function. -/
def blobOf (vi e gen key : Nat) (iv : List Byte) : List Byte :=
  let ad := leBytes 1 vi ++ leBytes 1 e ++ leBytes 2 0 ++ leBytes 4 gen ++ iv
  ad ++ fitBytes 80 (Config.gcmSeal (ad ++ leBytes 64 (key - 1)) iv) ++ List.replicate 28 0
/-- KEY_NEW (R409, R410). -/
def execKeyNew (vi : BitVec 6) (seq : W64) (entry : BitVec 4) (addr : W64) (s : State) : Out :=
  let v := vi.toNat
  let e := entry.toNat
  if (s.vif v).st ≠ 3 then .next s
  else if s.keyNamed v e then s.cmdDone v seq 0x305
  else
    let g := s.nextGen v
    let key := s.mem.keySerial + 1
    let iv := (List.range 12).map (fun i => Config.freeByte s.env.free i)
    let t := ({ s.bump with mem := { s.mem with keySerial := key } }).setSealed v e ⟨some key, g, g⟩
    (t.hostWrite addr.toNat (blobOf v e g key iv)).cmdDone v seq 0
/-- The key in a blob, where this package sealed it for the interface and entry (R410): DEDUCED, log 28. -/
def State.openBlob (s : State) (vi e : Nat) (b : List Byte) : Option Nat :=
  ((List.range s.mem.keySerial).map (fun k => k + 1)).find? (fun k => blobOf vi e (fieldAt b 4 4) k ((b.drop 8).take 12) = b)
/-- KEY_LOAD (R409, R410). -/
def execKeyLoad (vi : BitVec 6) (seq : W64) (entry : BitVec 4) (blob : List Byte) (s : State) : Out :=
  let v := vi.toNat
  let e := entry.toNat
  if (s.vif v).st ≠ 3 then .next s
  else if s.keyNamed v e then s.cmdDone v seq 0x305
  else match s.openBlob v e blob with
    | none => s.cmdDone v seq 0x305
    | some k => (s.setSealed v e ⟨some k, s.nextGen v, s.nextGen v⟩).cmdDone v seq 0
/-- KEY_DROP (R409): the highest Generation of the interface stays known. -/
def execKeyDrop (vi : BitVec 6) (seq : W64) (entry : BitVec 4) (s : State) : Out :=
  let v := vi.toNat
  let e := entry.toNat
  if (s.vif v).st ≠ 3 then .next s
  else if s.keyNamed v e then s.cmdDone v seq 0x305
  else (s.setSealed v e ⟨none, 0, (s.sealed v e).high⟩).cmdDone v seq 0

/-! ### Receipts (R430 to R432) -/

/-- A receipt before its signature (R431). -/
def receiptBody (coord serial : Nat) (x : Retained) : List Byte :=
  leBytes 4 0x52434B34 ++ leBytes 2 1 ++ leBytes 2 ((if x.det then 1 else 0) + (if x.world then 2 else 0)) ++ leBytes 8 x.id.toNat ++
  leBytes 2 x.vi ++ leBytes 2 coord ++ leBytes 4 x.recs.length ++ leBytes 8 x.accept ++ leBytes 8 serial ++ fitBytes 64 keyId ++
  fitBytes 64 x.chain ++ x.recs.flatten
/-- RECEIPT (R430, R431). -/
def execReceipt (vi : BitVec 6) (seq id addr : W64) (s : State) : Out :=
  let v := vi.toNat
  if (s.vif v).st ≠ 3 then .next s
  else match s.fw.retained.reverse.find? (fun x => x.vi = v && x.id = id && !x.tainted) with
    | none => s.cmdDone v seq 0x306
    | some x =>
      let t := { s with tr := { s.tr with receipts := s.tr.receipts + 1 } }
      let b := receiptBody t.fab.coord t.tr.receipts.toNat x
      (t.hostWrite addr.toNat (b ++ fitBytes 3309 (Config.mldsa65 b))).cmdDone v seq 0

/-! ### Islands (R372, R440) -/

/-- The fields of ISLCTL that a write sets: Ratio 3 is stored as 2 (R440). -/
def islFields (v : W64) : W64 := if v.toNat % 4 = 3 then BitVec.ofNat 64 (v.toNat % 64 - 1) else BitVec.ofNat 64 (v.toNat % 64)
/-- A write takes effect at an island: Trip is cleared by a one. -/
def State.islWrite (s : State) (i : Nat) (v : W64) : State :=
  s.setIsland i (islFields v, none, (s.island i).2.2 && bitsOf v.toNat 7 1 = 0)
/-- ISLCTL (R440): a write to a timed island waits whole, and the last of several. -/
def execIslctl (island : BitVec 7) (v : W64) (s : State) : Out :=
  let i := island.toNat
  let x := s.island i
  .next (if s.islandTimed i then s.setIsland i (x.1, some v, x.2.2) else s.islWrite i v)
/-- The first island whose held write may be applied. -/
def State.islandDue (s : State) : Option Nat :=
  (s.fw.islands.find? (fun x => x.2.2.1.isSome && !s.islandTimed x.1)).map Prod.fst
/-- ISLAND_CHANGE_APPLY (R440). -/
def execIslandChangeApply (s : State) : Out :=
  match s.islandDue with
  | some i =>
    .next (s.islWrite i ((s.island i).2.1.getD 0))
  | none => .next s

/-! ### Snapshots (R441) -/

/-- LINKSTAT (R164). -/
def Link.stat (l : Link) : W64 := BitVec.ofNat 64 (l.st + 2 ^ 16 * l.replays + 2 ^ 32 * l.retrains + 2 ^ 48 * l.misses)
/-- SHSTAT (R188). -/
def Shuttles.stat (x : Shuttles) : W64 :=
  BitVec.ofNat 64 (x.visits + 2 ^ 16 * x.parkCount + 2 ^ 32 * x.drops + 2 ^ 48 * x.parks.length + 2 ^ 57 * x.eng.length)
/-- TAPECTL (R361). -/
def Clock.ctl (c : Clock) : W64 :=
  BitVec.ofNat 64 (c.rate.toNat + 2 ^ 32 * lowBits c.stepPending 16 + (if c.aligned then 2 ^ 48 else 0) + (if c.loaded then 2 ^ 49 else 0))
/-- TAPESYNC (R362). -/
def Link.sync (l : Link) : W64 :=
  BitVec.ofNat 64 (lowBits l.offset 32 + 2 ^ 32 * lowBits l.delay 24 + (if l.valid then 2 ^ 63 else 0))
/-- ISLCTL as it reads (R440). -/
def State.islStat (s : State) (i : Nat) : W64 :=
  let x := s.island i
  BitVec.ofNat 64 (x.1.toNat % 64 + (if x.2.1.isSome then 64 else 0) + (if x.2.2 then 128 else 0))
/-- Occ of any cluster (R104). -/
def State.occOf (s : State) (cl n t : Nat) : Nat :=
  (s.sram.lines.filter (fun l => l.cluster = cl && l.slice = n && l.tenant = t)).length
/-- Every snapshot register (R441), keyed by kind and number. -/
def State.snapshot (s : State) : Table W64 :=
  let tab (base n : Nat) (f : Nat → W64) : Table W64 := (List.range n).map (fun i => (base + i, f i))
  (tab 0 6 (fun i => (s.link i).stat) ++ tab 16 1 (fun _ => s.sh.stat) ++ tab 17 1 (fun _ => s.clk.ctl) ++
    tab 32 6 (fun i => (s.link i).sync) ++ tab 256 256 (fun i => ((s.vif (i / 4)).ring (i % 4)).stat) ++
    tab 512 32 (fun i => tget 0 s.sram.bcstall i) ++
    tab 1024 512 (fun i => BitVec.ofNat 64 (s.occOf (i / 16) (i / 4 % 4) (i % 4))) ++
    tab 2048 128 (fun i => tget 0 s.sram.hits i) ++ tab 2304 128 (fun i => tget 0 s.sram.misses i) ++
    tab 4096 128 s.islStat).filter (fun x => x.2 ≠ 0)
/-- One snapshot per tape cycle (R441). -/
def State.takeSnap (s : State) : State :=
  if s.fw.snapAt = some s.now then s
  else { s with fw := { s.fw with snap := s.snapshot, snapSeq := s.fw.snapSeq + 1, snapAt := some s.now } }
/-- SNAPTRIG (R441). -/
def execSnaptrig (v : W64) (s : State) : Out := .next (if v = 1 then s.takeSnap else s)
/-- SNAP_PIN (R441). -/
def execSnapPin (s : State) : Out := .next s.takeSnap

/-! ### Package reset and checkpoints (R438, R442) -/

/-- PACKAGE_RESET (R18, R438): all is at reset but what lies outside the package or in its fuses and pins: host memory, the safe
tier, the memory cells with the identities of their blocks, coordinates, absent links; keys are drawn anew. -/
def execPackageReset (s : State) : Out :=
  let z := State.reset
  .next { z with
    env := s.env
    ctl := { z.ctl with coreId := s.ctl.coreId }
    mem := { z.mem with xk4m := s.mem.xk4m, phys := s.mem.phys, tags := s.mem.tags, bad := s.mem.bad
                        pkgKey := s.mem.keySerial + 1, keySerial := s.mem.keySerial + 1 }
    fab := { z.fab with coord := s.fab.coord, dims := s.fab.dims
                        links := s.fab.links.filterMap (fun x => if x.2.st = 4 then some (x.1, { Link.reset with st := 4 }) else none) }
    fw := { z.fw with ckpt := s.fw.ckpt }
    tr := { z.tr with host := s.tr.host } }
/-- Is a physical byte in a page of an object that is no bolt? -/
def inPages (t : Table (Option ObjEntry)) (p : Nat) : Bool :=
  t.any (fun x => match x.2 with
    | some e => e.kind ≠ 2 && e.segs.any (fun g => g.valid && g.base ≤ p && p < g.base + pageBytes g.pageSize)
    | none => false)
/-- An entry as a checkpoint holds it: a bolt is CUT and has no pages (R442). -/
def ckptEntry (e : ObjEntry) : ObjEntry := if e.kind = 2 then { e with state := 3, segs := [] } else e
/-- A bank in SCRATCH or FIFO mode. -/
def savedBank (cfg : Table BankCfg) (k : Nat) : Bool :=
  let m := (tget .reset cfg k).mode
  m = 1 || m = 3
/-- A block of the package domain is decrypted under one key and encrypted under another (R84, R442); any other block is copied
as it is. -/
def BlkTag.rekey (old new : Nat) (b : BlkTag) : BlkTag := if b.dom = 0 && b.key = old then { b with key := new } else b
/-- The checkpoint key, drawn anew, as the seal key wraps it (R410, R442). -/
def State.wrappedKey (s : State) : List Byte :=
  Config.gcmSeal (leBytes 32 s.mem.keySerial) ((List.range 12).map (fun i => Config.freeByte s.env.free i))
/-- The image of the package under a checkpoint key of its own (R442). -/
def State.image (s : State) : Image :=
  { obj := s.mem.obj.map (fun x => (x.1, x.2.map ckptEntry)), bound := s.mem.bound
    phys := s.mem.phys.filter (fun c => inPages s.mem.obj c.1)
    tags := (s.mem.tags.filter (fun c => inPages s.mem.obj (16 * c.1))).map (fun c =>
      (c.1, c.2.map (BlkTag.rekey s.mem.pkgKey (s.mem.keySerial + 1))))
    key := s.mem.keySerial + 1, wrapped := s.wrappedKey
    bytes := s.sram.bytes.filter (fun c => savedBank s.sram.cfg (c.1 / 65536)), cfg := s.sram.cfg.filter (fun c => savedBank s.sram.cfg c.1)
    fifo := s.sram.fifo }
/-- CKPT (R442, R443): CKPT_BUSY while a launch is neither SAVED nor retired. -/
def execCkpt (s : State) : Out :=
  if s.fw.launches.all (fun l => l.st = 5) then
    .next { s.bump with
      mem := { s.mem with keySerial := s.mem.keySerial + 1 }
      fw := { s.fw with ckpt := some s.image, ckptStatus := 0 } }
  else .next { s with fw := { s.fw with ckptStatus := 0x340 } }
/-- Put an image back (R442): its blocks under the checkpoint key come under the present package key. -/
def State.loadImage (s : State) (x : Image) : State :=
  let phys := x.phys.foldl (fun (m : List Host.Cell) c => tins m c.1 c.2) (s.mem.phys.filter (fun c => !inPages x.obj c.1))
  let tags := x.tags.foldl (fun (m : Table (Option BlkTag)) c => tins m c.1 (c.2.map (BlkTag.rekey x.key s.mem.pkgKey)))
    (s.mem.tags.filter (fun c => !inPages x.obj (16 * c.1)))
  { s with
    mem := { s.mem with obj := x.obj, port := x.obj, bound := x.bound, phys := phys, tags := tags }
    sram := { s.sram with
      bytes := x.bytes.foldl (fun (m : List Host.Cell) c => tins m c.1 c.2) (s.sram.bytes.filter (fun c => !savedBank x.cfg (c.1 / 65536)))
      cfg := x.cfg.foldl (fun (m : Table BankCfg) c => tins m c.1 c.2) s.sram.cfg
      fifo := x.fifo.foldl (fun (m : Table Fifo) c => tins m c.1 c.2) s.sram.fifo } }
/-- CHECKPOINT_RESTORE (R442, R443): CKPT_AUTH where the tags fail, with the object table unchanged. -/
def execCheckpointRestore (tagsHold : Bool) (s : State) : Out :=
  match s.fw.ckpt with
  | none => .next s
  | some x =>
    if tagsHold then
      let t := s.loadImage x
      .next { t with fw := { t.fw with ckptStatus := 0 } }
    else .next { s with fw := { s.fw with ckptStatus := 0x341 } }

/-! ### Plain register writes (R17, R19) -/

/-- REGISTER_WRITE (R17, R19, R75, R103, R107, R368, R418, R419, R481). MPOTBASE keeps bits 47:0 of any value, one that is not aligned
to 4 KiB too: R75 says that Base is aligned and not what such a write leaves (DESIGN CHOICE, log entry 106). -/
def execRegisterWrite (r : RegName) (v : W64) (s : State) : Out :=
  match r with
  | .mpRetry p =>
    let c := v.toNat % 32
    let total := tget 0 s.mem.parkedTotal p
    .next { s with mem := { s.mem with
      retryCeil := tset 20 s.mem.retryCeil p (if c < 6 then 6 else if 20 < c then 20 else c)
      parkedTotal := tset 0 s.mem.parkedTotal p (if v.toNat / 2 ^ 32 = 2 ^ 32 - 1 then 0 else total) } }
  | .mpOtBase => .next { s with mem := s.mem.rebase (v &&& 0xFFFFFFFFFFFF#64) }
  | .clDebug c => .next { s with sram := { s.sram with pendEn := tset false s.sram.pendEn c (v.toNat % 2 = 1) } }
  | .sliceLimit c n t =>
    let k := 16 * c + 4 * n + t
    let lim := v.toNat % 2 ^ 16
    .next { s with sram := { s.sram with way := tset (0, 0) s.sram.way k ((tget (0, 0) s.sram.way k).1 &&& lim, lim) } }
  | .shPerm vi => .next (s.configWrite vi.toNat 1 v)
  | .shWinCapLo vi w => .next (s.configWrite vi.toNat (4 + w.toNat) v)
  | .shWinCapHi vi w => .next (s.configWrite vi.toNat (8 + w.toNat) v)
  | .shWinCtl vi w => .next (s.configWrite vi.toNat (12 + w.toNat) v)
  | .dcPart vi => .next (s.configWrite vi.toNat 0 v)
  | .leaseMask vi => .next (s.configWrite vi.toNat 2 v)
  | .ringBase vi r => .next (if r < 5 then s.configWrite vi.toNat (16 + r) v else s)
  | .ringSize vi r => .next (if r < 5 then s.configWrite vi.toNat (24 + r) v else s)
  | .holdCtl => .next (s.holdCtlWrite v)
  | .victlFlags vi =>
    let x := s.vif vi.toNat
    .next (if bitsOf v.toNat 12 1 = 1 then s.setVif vi.toNat { x with refused := false } else s)
  | .linkWeight vi => .next { s with fab := { s.fab with weights := tset 0 s.fab.weights vi.toNat v.toNat } }
  | .boltIds vi => .next (s.configWrite vi.toNat 33 v)
  | .boltSlots vi => .next (s.configWrite vi.toNat 34 v)
  | .boltPages vi tier size => .next (if tier < 2 && size < 6 then s.configWrite vi.toNat (40 + 8 * tier + size) v else s)
  | .grant vi k slot => .next (if k < 7 && slot < 1024 then s.configWrite vi.toNat (64 + 1024 * k + slot) v else s)

/-! ### Host writes to BAR0 (R434 to R436) -/

/-- What a host write of a dword to a function's BAR0 does (R434 to R436): a doorbell, a register of the configuration or CPLHEAD;
nothing where the place is reserved or read-only (R17, R19). -/
def State.barWrite (s : State) (vi : BitVec 6) (a : Nat) (v : W64) : Out :=
  if a < 0x20 && a % 8 = 0 then execDoorbell vi (BitVec.ofNat 2 (a / 8)) v s
  else if a < 0x2000 || 0x2280 ≤ a then .next s
  else
    let r := (a - 0x2000) / 0x80
    if a % 0x80 = 0 then execRegisterWrite (.ringBase vi r) v s
    else if a % 0x80 = 8 then execRegisterWrite (.ringSize vi r) v s
    else if a = 0x2218 then execCplhead vi v s
    else .next s
/-- A host write of 32 bytes to BAR0: RINGRESYNC of a command ring's block (R423, R436). -/
def State.barResync (s : State) (vi : BitVec 6) (a : Nat) (b : List Byte) : Out :=
  if 0x2000 ≤ a && a < 0x2200 && a % 0x80 = 0x40 then execRingresync vi (BitVec.ofNat 2 ((a - 0x2000) / 0x80)) b s else .next s

end Sys2Proof.Machine
end

