-- ==== Sys2Proof/Machine/Dispatch.lean ====
section
/-! DEFINITION. One arm per constructor of Instr: a direct call of its meaning. -/

namespace Sys2Proof.Machine

def exec (i : Instr) (s : State) : Host.Outcome State Fault Refusal :=
  match i with
  | .add d a b => Sys2Proof.Machine.execAdd d a b s
  | .sub d a b => Sys2Proof.Machine.execSub d a b s
  | .and d a b => Sys2Proof.Machine.execAnd d a b s
  | .or d a b => Sys2Proof.Machine.execOr d a b s
  | .xor d a b => Sys2Proof.Machine.execXor d a b s
  | .andn d a b => Sys2Proof.Machine.execAndn d a b s
  | .shl d a b => Sys2Proof.Machine.execShl d a b s
  | .shr d a b => Sys2Proof.Machine.execShr d a b s
  | .sra d a b => Sys2Proof.Machine.execSra d a b s
  | .ror d a b => Sys2Proof.Machine.execRor d a b s
  | .slt d a b => Sys2Proof.Machine.execSlt d a b s
  | .sltu d a b => Sys2Proof.Machine.execSltu d a b s
  | .min d a b => Sys2Proof.Machine.execMin d a b s
  | .max d a b => Sys2Proof.Machine.execMax d a b s
  | .minu d a b => Sys2Proof.Machine.execMinu d a b s
  | .maxu d a b => Sys2Proof.Machine.execMaxu d a b s
  | .adds d a b => Sys2Proof.Machine.execAdds d a b s
  | .subs d a b => Sys2Proof.Machine.execSubs d a b s
  | .clz d a => Sys2Proof.Machine.execClz d a s
  | .popc d a => Sys2Proof.Machine.execPopc d a s
  | .sextb d a => Sys2Proof.Machine.execSextb d a s
  | .sexth d a => Sys2Proof.Machine.execSexth d a s
  | .sextw d a => Sys2Proof.Machine.execSextw d a s
  | .addi d a im => Sys2Proof.Machine.execAddi d a im s
  | .andi d a im => Sys2Proof.Machine.execAndi d a im s
  | .ori d a im => Sys2Proof.Machine.execOri d a im s
  | .xori d a im => Sys2Proof.Machine.execXori d a im s
  | .shi d a k n => Sys2Proof.Machine.execShi d a k n s
  | .lui d q im => Sys2Proof.Machine.execLui d q im s
  | .slti d a im => Sys2Proof.Machine.execSlti d a im s
  | .mul d a b => Sys2Proof.Machine.execMul d a b s
  | .mulh d a b => Sys2Proof.Machine.execMulh d a b s
  | .mulhu d a b => Sys2Proof.Machine.execMulhu d a b s
  | .div d a b => Sys2Proof.Machine.execDiv d a b s
  | .divu d a b => Sys2Proof.Machine.execDivu d a b s
  | .rem d a b => Sys2Proof.Machine.execRem d a b s
  | .remu d a b => Sys2Proof.Machine.execRemu d a b s
  | .sel d a b k c => Sys2Proof.Machine.execSel d a b k c s
  | .movb d a => Sys2Proof.Machine.execMovb d a s
  | .setb d a => Sys2Proof.Machine.execSetb d a s
  | .mget d a q => Sys2Proof.Machine.execMget d a q s
  | .mput d a q => Sys2Proof.Machine.execMput d a q s
  | .ldb d c sr o => Sys2Proof.Machine.execLdb d c sr o s
  | .ldh d c sr o => Sys2Proof.Machine.execLdh d c sr o s
  | .ldw d c sr o => Sys2Proof.Machine.execLdw d c sr o s
  | .ldd d c sr o => Sys2Proof.Machine.execLdd d c sr o s
  | .stb d c sr o => Sys2Proof.Machine.execStb d c sr o s
  | .sth d c sr o => Sys2Proof.Machine.execSth d c sr o s
  | .stw d c sr o => Sys2Proof.Machine.execStw d c sr o s
  | .std d c sr o => Sys2Proof.Machine.execStd d c sr o s
  | .ldbn d c sr o => Sys2Proof.Machine.execLdbn d c sr o s
  | .ldhn d c sr o => Sys2Proof.Machine.execLdhn d c sr o s
  | .ldwn d c sr o => Sys2Proof.Machine.execLdwn d c sr o s
  | .ldc d c sr o => Sys2Proof.Machine.execLdc d c sr o s
  | .stc d c sr o => Sys2Proof.Machine.execStc d c sr o s
  | .amo d a b c r z o => Sys2Proof.Machine.execAmo d a b c r z o s
  | .ldaq d a b c p z => Sys2Proof.Machine.execLdaq d a b c p z s
  | .strl d a b c p z => Sys2Proof.Machine.execStrl d a b c p z s
  | .sts d a b c z => Sys2Proof.Machine.execSts d a b c z s
  | .stcb d a b c z => Sys2Proof.Machine.execStcb d a b c z s
  | .fence a p => Sys2Proof.Machine.execFence a p s
  | .cmov d a => Sys2Proof.Machine.execCmov d a s
  | .cjoin d a b => Sys2Proof.Machine.execCjoin d a b s
  | .clo d a b => Sys2Proof.Machine.execClo d a b s
  | .chi d a b => Sys2Proof.Machine.execChi d a b s
  | .cright d a b => Sys2Proof.Machine.execCright d a b s
  | .cget d a f => Sys2Proof.Machine.execCget d a f s
  | .cchk d a b => Sys2Proof.Machine.execCchk d a b s
  | .pbr k im => Sys2Proof.Machine.execPbr k im s
  | .br d a k l c => Sys2Proof.Machine.execBr d a k l c s
  | .loopend d k => Sys2Proof.Machine.execLoopend d k s
  | .tksig im => Sys2Proof.Machine.execTksig im s
  | .tkwait a im => Sys2Proof.Machine.execTkwait a im s
  | .tkiss d im => Sys2Proof.Machine.execTkiss d im s
  | .tkcmp d im => Sys2Proof.Machine.execTkcmp d im s
  | .cwait d a b => Sys2Proof.Machine.execCwait d a b s
  | .cread d a => Sys2Proof.Machine.execCread d a s
  | .cwrite a b => Sys2Proof.Machine.execCwrite a b s
  | .chwin a e => Sys2Proof.Machine.execChwin a e s
  | .chhead a b e => Sys2Proof.Machine.execChhead a b e s
  | .chtail a e => Sys2Proof.Machine.execChtail a e s
  | .chstat d f e => Sys2Proof.Machine.execChstat d f e s
  | .chstop e => Sys2Proof.Machine.execChstop e s
  | .tread d => Sys2Proof.Machine.execTread d s
  | .tuntil a => Sys2Proof.Machine.execTuntil a s
  | .tadj a => Sys2Proof.Machine.execTadj a s
  | .runAt a b => Sys2Proof.Machine.execRunAt a b s
  | .runSeam a b => Sys2Proof.Machine.execRunSeam a b s
  | .seam a b => Sys2Proof.Machine.execSeam a b s
  | .seamR a b => Sys2Proof.Machine.execSeamR a b s
  | .safe im => Sys2Proof.Machine.execSafe im s
  | .srd d sr => Sys2Proof.Machine.execSrd d sr s
  | .swr a sr => Sys2Proof.Machine.execSwr a sr s
  | .trap n => Sys2Proof.Machine.execTrap n s
  | .bankset a b => Sys2Proof.Machine.execBankset a b s
  | .bankget d a => Sys2Proof.Machine.execBankget d a s
  | .waymask a => Sys2Proof.Machine.execWaymask a s
  | .csel a => Sys2Proof.Machine.execCsel a s
  | .cstat d a => Sys2Proof.Machine.execCstat d a s
  | .fstat d a => Sys2Proof.Machine.execFstat d a s
  | .freset a => Sys2Proof.Machine.execFreset a s
  | .regmode a => Sys2Proof.Machine.execRegmode a s
  | .regstat d => Sys2Proof.Machine.execRegstat d s
  | .viewld d a b => Sys2Proof.Machine.execViewld d a b s
  | .viewget d a f => Sys2Proof.Machine.execViewget d a f s
  | .agset g a b => Sys2Proof.Machine.execAgset g a b s
  | .go a => Sys2Proof.Machine.execGo a s
  | .agstop a => Sys2Proof.Machine.execAgstop a s
  | .agget d g f => Sys2Proof.Machine.execAgget d g f s
  | .gset a b => Sys2Proof.Machine.execGset a b s
  | .ggo m v b im => Sys2Proof.Machine.execGgo m v b im s
  | .gstat d => Sys2Proof.Machine.execGstat d s
  | .boltnew d a => Sys2Proof.Machine.execBoltnew d a s
  | .boltgrow d a b => Sys2Proof.Machine.execBoltgrow d a b s
  | .cut a => Sys2Proof.Machine.execCut a s
  | .idle k => Sys2Proof.Machine.execIdle k s
  | .loop n l => Sys2Proof.Machine.execLoop n l s
  | .vadd t m d a b p => Sys2Proof.Machine.execVadd t m d a b p s
  | .vsub t m d a b p => Sys2Proof.Machine.execVsub t m d a b p s
  | .vmul t m d a b p => Sys2Proof.Machine.execVmul t m d a b p s
  | .vfma t m d a b p => Sys2Proof.Machine.execVfma t m d a b p s
  | .vfms t m d a b p => Sys2Proof.Machine.execVfms t m d a b p s
  | .vfnma t m d a b p => Sys2Proof.Machine.execVfnma t m d a b p s
  | .vmin t m d a b p => Sys2Proof.Machine.execVmin t m d a b p s
  | .vmax t m d a b p => Sys2Proof.Machine.execVmax t m d a b p s
  | .vabs t m d a p => Sys2Proof.Machine.execVabs t m d a p s
  | .vneg t m d a p => Sys2Proof.Machine.execVneg t m d a p s
  | .vdiv t m d a b p => Sys2Proof.Machine.execVdiv t m d a b p s
  | .vsqrt t m d a p => Sys2Proof.Machine.execVsqrt t m d a p s
  | .vrcpe t m d a p => Sys2Proof.Machine.execVrcpe t m d a p s
  | .vrsqe t m d a p => Sys2Proof.Machine.execVrsqe t m d a p s
  | .vexp2 m d a p => Sys2Proof.Machine.execVexp2 m d a p s
  | .vlog2 m d a p => Sys2Proof.Machine.execVlog2 m d a p s
  | .vand t m d a b p => Sys2Proof.Machine.execVand t m d a b p s
  | .vor t m d a b p => Sys2Proof.Machine.execVor t m d a b p s
  | .vxor t m d a b p => Sys2Proof.Machine.execVxor t m d a b p s
  | .vandn t m d a b p => Sys2Proof.Machine.execVandn t m d a b p s
  | .vshl t m d a b p => Sys2Proof.Machine.execVshl t m d a b p s
  | .vshr t m d a b p => Sys2Proof.Machine.execVshr t m d a b p s
  | .vsra t m d a b p => Sys2Proof.Machine.execVsra t m d a b p s
  | .vclz t m d a p => Sys2Proof.Machine.execVclz t m d a p s
  | .vadds t m d a b p => Sys2Proof.Machine.execVadds t m d a b p s
  | .vsubs t m d a b p => Sys2Proof.Machine.execVsubs t m d a b p s
  | .vmulhi t m d a b p => Sys2Proof.Machine.execVmulhi t m d a b p s
  | .vabd t m d a b p => Sys2Proof.Machine.execVabd t m d a b p s
  | .vrshr t m d a b p => Sys2Proof.Machine.execVrshr t m d a b p s
  | .vclamp t m d a b p => Sys2Proof.Machine.execVclamp t m d a b p s
  | .vsel t sr d a b p => Sys2Proof.Machine.execVsel t sr d a b p s
  | .vmov t m d a p => Sys2Proof.Machine.execVmov t m d a p s
  | .vceq t m d a b p => Sys2Proof.Machine.execVceq t m d a b p s
  | .vcne t m d a b p => Sys2Proof.Machine.execVcne t m d a b p s
  | .vclt t m d a b p => Sys2Proof.Machine.execVclt t m d a b p s
  | .vcle t m d a b p => Sys2Proof.Machine.execVcle t m d a b p s
  | .vcun t m d a b p => Sys2Proof.Machine.execVcun t m d a b p s
  | .vmand d a b => Sys2Proof.Machine.execVmand d a b s
  | .vmor d a b => Sys2Proof.Machine.execVmor d a b s
  | .vmxor d a b => Sys2Proof.Machine.execVmxor d a b s
  | .vcvt t m d a e v p => Sys2Proof.Machine.execVcvt t m d a e v p s
  | .vpack t m d a b p => Sys2Proof.Machine.execVpack t m d a b p s
  | .vunpk t m d a h p => Sys2Proof.Machine.execVunpk t m d a h p s
  | .qblk t d a => Sys2Proof.Machine.execQblk t d a s
  | .vbcast t m d b => Sys2Proof.Machine.execVbcast t m d b s
  | .vlane t m d => Sys2Proof.Machine.execVlane t m d s
  | .vperm t m d a b p => Sys2Proof.Machine.execVperm t m d a b p s
  | .vslide t m d a b p => Sys2Proof.Machine.execVslide t m d a b p s
  | .vrsum t m d a p => Sys2Proof.Machine.execVrsum t m d a p s
  | .vrmax t m d a p => Sys2Proof.Machine.execVrmax t m d a p s
  | .vrmin t m d a p => Sys2Proof.Machine.execVrmin t m d a p s
  | .vrdot t m d a b p => Sys2Proof.Machine.execVrdot t m d a b p s
  | .vrev t m d a p => Sys2Proof.Machine.execVrev t m d a p s
  | .vzip t m d a b p => Sys2Proof.Machine.execVzip t m d a b p s
  | .vunzip t m d a b p => Sys2Proof.Machine.execVunzip t m d a b p s
  | .vshuf t m d a b p => Sys2Proof.Machine.execVshuf t m d a b p s
  | .defer t m q a => Sys2Proof.Machine.execDefer t m q a s
  | .drain t d a k q => Sys2Proof.Machine.execDrain t d a k q s
  | .vdqcnt d q => Sys2Proof.Machine.execVdqcnt d q s
  | .mldw p t b => Sys2Proof.Machine.execMldw p t b s
  | .mldwBd p t e z b => Sys2Proof.Machine.execMldwBd p t e z b s
  | .mldb p t b => Sys2Proof.Machine.execMldb p t b s
  | .mwclr t b => Sys2Proof.Machine.execMwclr t b s
  | .mmul sr w p t im => Sys2Proof.Machine.execMmul sr w p t im s
  | .macc sr w p t im => Sys2Proof.Machine.execMacc sr w p t im s
  | .maccn sr w p t im => Sys2Proof.Machine.execMaccn sr w p t im s
  | .mmulg sr w p t im => Sys2Proof.Machine.execMmulg sr w p t im s
  | .maccg sr w p t im => Sys2Proof.Machine.execMaccg sr w p t im s
  | .mdrn w p t im => Sys2Proof.Machine.execMdrn w p t im s
  | .mdrnc w p t im => Sys2Proof.Machine.execMdrnc w p t im s
  | .mdrnr sr w p t im => Sys2Proof.Machine.execMdrnr sr w p t im s
  | .mclr w => Sys2Proof.Machine.execMclr w s
  | .msfmt sr h a b => Sys2Proof.Machine.execMsfmt sr h a b s
  | .mstat p => Sys2Proof.Machine.execMstat p s
  | .ccpy d a r c sr t => Sys2Proof.Machine.execCcpy d a r c sr t s
  | .ccpyt d a r c sr t => Sys2Proof.Machine.execCcpyt d a r c sr t s
  | .cgath d a r c sr t => Sys2Proof.Machine.execCgath d a r c sr t s
  | .cscat d a r c sr t => Sys2Proof.Machine.execCscat d a r c sr t s
  | .cfill d r c sr t => Sys2Proof.Machine.execCfill d r c sr t s
  | .cldrec a r sr => Sys2Proof.Machine.execCldrec a r sr s
  | .rcfence r l => Sys2Proof.Machine.execRcfence r l s
  | .migrate a sr t => Sys2Proof.Machine.execMigrate a sr t s
  | .put d a r c sr t => Sys2Proof.Machine.execPut d a r c sr t s
  | .putred d a r c sr t => Sys2Proof.Machine.execPutred d a r c sr t s
  | .get d a r c sr t => Sys2Proof.Machine.execGet d a r c sr t s
  | .carm sr t => Sys2Proof.Machine.execCarm sr t s
  | .craise sr t => Sys2Proof.Machine.execCraise sr t s
  | .shsend a sr t => Sys2Proof.Machine.execShsend a sr t s
  | .cpref a r sr => Sys2Proof.Machine.execCpref a r sr s
  | .ccpyr a r c sr t => Sys2Proof.Machine.execCcpyr a r c sr t s
  | .ccpyrt a r c sr t => Sys2Proof.Machine.execCcpyrt a r c sr t s
  | .cgatht d a r c sr t => Sys2Proof.Machine.execCgatht d a r c sr t s
  | .cscatt d a r c sr t => Sys2Proof.Machine.execCscatt d a r c sr t s
  | .cxpose d a r c sr t => Sys2Proof.Machine.execCxpose d a r c sr t s
  | .ccvt d a r c sr t => Sys2Proof.Machine.execCcvt d a r c sr t s
  | .cflush a r sr => Sys2Proof.Machine.execCflush a r sr s
  | .cinval a r sr => Sys2Proof.Machine.execCinval a r sr s
  | .cwrw d c sr t => Sys2Proof.Machine.execCwrw d c sr t s
  | .catom d o c sr t => Sys2Proof.Machine.execCatom d o c sr t s
  | .shPushi im => Sys2Proof.Machine.execShPushi im s
  | .shPushg g => Sys2Proof.Machine.execShPushg g s
  | .shPopg g => Sys2Proof.Machine.execShPopg g s
  | .shShl sr => Sys2Proof.Machine.execShShl sr s
  | .shShr sr => Sys2Proof.Machine.execShShr sr s
  | .shSkz n => Sys2Proof.Machine.execShSkz n s
  | .shSknz n => Sys2Proof.Machine.execShSknz n s
  | .shSkip n => Sys2Proof.Machine.execShSkip n s
  | .shLload k => Sys2Proof.Machine.execShLload k s
  | .shRdw w => Sys2Proof.Machine.execShRdw w s
  | .shAddw w => Sys2Proof.Machine.execShAddw w s
  | .shClone d => Sys2Proof.Machine.execShClone d s
  | .shDir d => Sys2Proof.Machine.execShDir d s
  | .runAbort code => Sys2Proof.Machine.execRunAbort code s
  | .seamArrival group member => Sys2Proof.Machine.execSeamArrival group member s
  | .asyncAbortTaken code => Sys2Proof.Machine.execAsyncAbortTaken code s
  | .launch vi seq rec => Sys2Proof.Machine.execLaunch vi seq rec s
  | .abort vi seq id => Sys2Proof.Machine.execAbort vi seq id s
  | .releaseId vi seq obj => Sys2Proof.Machine.execReleaseId vi seq obj s
  | .cutIdle vi seq obj => Sys2Proof.Machine.execCutIdle vi seq obj s
  | .parkRead vi seq addr => Sys2Proof.Machine.execParkRead vi seq addr s
  | .parkRelease vi seq park => Sys2Proof.Machine.execParkRelease vi seq park s
  | .receipt vi seq id addr => Sys2Proof.Machine.execReceipt vi seq id addr s
  | .keyNew vi seq entry addr => Sys2Proof.Machine.execKeyNew vi seq entry addr s
  | .keyLoad vi seq entry blob => Sys2Proof.Machine.execKeyLoad vi seq entry blob s
  | .keyDrop vi seq entry => Sys2Proof.Machine.execKeyDrop vi seq entry s
  | .launchRetire vi id => Sys2Proof.Machine.execLaunchRetire vi id s
  | .scrubEnd vi id => Sys2Proof.Machine.execScrubEnd vi id s
  | .slwb => Sys2Proof.Machine.execSlwb s
  | .slinv => Sys2Proof.Machine.execSlinv s
  | .tret => Sys2Proof.Machine.execTret s
  | .exit => Sys2Proof.Machine.execExit s
  | .shNop => Sys2Proof.Machine.execShNop s
  | .shDup => Sys2Proof.Machine.execShDup s
  | .shDrop => Sys2Proof.Machine.execShDrop s
  | .shSwap => Sys2Proof.Machine.execShSwap s
  | .shAdd => Sys2Proof.Machine.execShAdd s
  | .shSub => Sys2Proof.Machine.execShSub s
  | .shAnd => Sys2Proof.Machine.execShAnd s
  | .shOr => Sys2Proof.Machine.execShOr s
  | .shXor => Sys2Proof.Machine.execShXor s
  | .shClt => Sys2Proof.Machine.execShClt s
  | .shCeq => Sys2Proof.Machine.execShCeq s
  | .shHops => Sys2Proof.Machine.execShHops s
  | .shHere => Sys2Proof.Machine.execShHere s
  | .shRdc => Sys2Proof.Machine.execShRdc s
  | .shFwd => Sys2Proof.Machine.execShFwd s
  | .shDlv => Sys2Proof.Machine.execShDlv s
  | .shKill => Sys2Proof.Machine.execShKill s
  | .chainEntryDecode => Sys2Proof.Machine.execChainEntryDecode s
  | .chainLoopEntry => Sys2Proof.Machine.execChainLoopEntry s
  | .chainCondEntry => Sys2Proof.Machine.execChainCondEntry s
  | .chainLinkEntry => Sys2Proof.Machine.execChainLinkEntry s
  | .chainEndEntry => Sys2Proof.Machine.execChainEndEntry s
  | .commandCompletion => Sys2Proof.Machine.execCommandCompletion s
  | .chainBound => Sys2Proof.Machine.execChainBound s
  | .waitBound => Sys2Proof.Machine.execWaitBound s
  | .tokenWaitMet => Sys2Proof.Machine.execTokenWaitMet s
  | .counterWaitMet => Sys2Proof.Machine.execCounterWaitMet s
  | .tapeWaitMet => Sys2Proof.Machine.execTapeWaitMet s
  | .armMet => Sys2Proof.Machine.execArmMet s
  | .untimedLoadLands => Sys2Proof.Machine.execUntimedLoadLands s
  | .storePerform => Sys2Proof.Machine.execStorePerform s
  | .stcbLineTimeout => Sys2Proof.Machine.execStcbLineTimeout s
  | .bankService => Sys2Proof.Machine.execBankService s
  | .bankOpen => Sys2Proof.Machine.execBankOpen s
  | .parkedRetry => Sys2Proof.Machine.execParkedRetry s
  | .migrateCopy => Sys2Proof.Machine.execMigrateCopy s
  | .boltRelease => Sys2Proof.Machine.execBoltRelease s
  | .agBeat => Sys2Proof.Machine.execAgBeat s
  | .regclusterWake => Sys2Proof.Machine.execRegclusterWake s
  | .deferAccept => Sys2Proof.Machine.execDeferAccept s
  | .drainAccept => Sys2Proof.Machine.execDrainAccept s
  | .runStart => Sys2Proof.Machine.execRunStart s
  | .runEnd => Sys2Proof.Machine.execRunEnd s
  | .abortStop => Sys2Proof.Machine.execAbortStop s
  | .seamRelease => Sys2Proof.Machine.execSeamRelease s
  | .holdNoticeElapsed => Sys2Proof.Machine.execHoldNoticeElapsed s
  | .tadjStepApply => Sys2Proof.Machine.execTadjStepApply s
  | .syncFlitSend => Sys2Proof.Machine.execSyncFlitSend s
  | .linkRetrainTimeout => Sys2Proof.Machine.execLinkRetrainTimeout s
  | .putredCombine => Sys2Proof.Machine.execPutredCombine s
  | .deadlineCheck => Sys2Proof.Machine.execDeadlineCheck s
  | .fabricGrant => Sys2Proof.Machine.execFabricGrant s
  | .fabricCallMatch => Sys2Proof.Machine.execFabricCallMatch s
  | .shuttleVisit => Sys2Proof.Machine.execShuttleVisit s
  | .invalidateAll => Sys2Proof.Machine.execInvalidateAll s
  | .invalidationComplete => Sys2Proof.Machine.execInvalidationComplete s
  | .coreStart => Sys2Proof.Machine.execCoreStart s
  | .coreStopRecord => Sys2Proof.Machine.execCoreStopRecord s
  | .coreDone => Sys2Proof.Machine.execCoreDone s
  | .islandChangeApply => Sys2Proof.Machine.execIslandChangeApply s
  | .snapPin => Sys2Proof.Machine.execSnapPin s
  | .packageReset => Sys2Proof.Machine.execPackageReset s
  | .ckpt => Sys2Proof.Machine.execCkpt s
  | .viStopComplete => Sys2Proof.Machine.execViStopComplete s
  | .clockCycle => Sys2Proof.Machine.execClockCycle s
  | .illegalWord => Sys2Proof.Machine.execIllegalWord s
  | .groupRestart group => Sys2Proof.Machine.execGroupRestart group s
  | .holdRequest launch group => Sys2Proof.Machine.execHoldRequest launch group s
  | .holdLift launch group => Sys2Proof.Machine.execHoldLift launch group s
  | .tapeload v => Sys2Proof.Machine.execTapeload v s
  | .syncFlitReceive link remoteDep remoteArr => Sys2Proof.Machine.execSyncFlitReceive link remoteDep remoteArr s
  | .flitReceive link seq good acked => Sys2Proof.Machine.execFlitReceive link seq good acked s
  | .linkReplayDone link => Sys2Proof.Machine.execLinkReplayDone link s
  | .linkTrainingDone link => Sys2Proof.Machine.execLinkTrainingDone link s
  | .linkDisable link => Sys2Proof.Machine.execLinkDisable link s
  | .linkEnable link => Sys2Proof.Machine.execLinkEnable link s
  | .linktxkey link key epoch => Sys2Proof.Machine.execLinktxkey link key epoch s
  | .linkrxkey link key epoch => Sys2Proof.Machine.execLinkrxkey link key epoch s
  | .linkKeySwitch link => Sys2Proof.Machine.execLinkKeySwitch link s
  | .timedPieceArrival p => Sys2Proof.Machine.execTimedPieceArrival p s
  | .fabricRequestArrival r => Sys2Proof.Machine.execFabricRequestArrival r s
  | .fabricRefusal code => Sys2Proof.Machine.execFabricRefusal code s
  | .fabricDataArrival d => Sys2Proof.Machine.execFabricDataArrival d s
  | .shuttleArrival link sh => Sys2Proof.Machine.execShuttleArrival link sh s
  | .invalidateObject obj => Sys2Proof.Machine.execInvalidateObject obj s
  | .invalidateKeyslot slot => Sys2Proof.Machine.execInvalidateKeyslot slot s
  | .bindent core v => Sys2Proof.Machine.execBindent core v s
  | .bindgo v => Sys2Proof.Machine.execBindgo v s
  | .thermalTrip island => Sys2Proof.Machine.execThermalTrip island s
  | .islctl island v => Sys2Proof.Machine.execIslctl island v s
  | .snaptrig v => Sys2Proof.Machine.execSnaptrig v s
  | .doorbell vi ring v => Sys2Proof.Machine.execDoorbell vi ring v s
  | .ringkey vi ring key => Sys2Proof.Machine.execRingkey vi ring key s
  | .ringresync vi ring rec => Sys2Proof.Machine.execRingresync vi ring rec s
  | .cplhead vi v => Sys2Proof.Machine.execCplhead vi v s
  | .checkpointRestore tagsHold => Sys2Proof.Machine.execCheckpointRestore tagsHold s
  | .viEnable vi => Sys2Proof.Machine.execViEnable vi s
  | .viLock vi => Sys2Proof.Machine.execViLock vi s
  | .viStart vi => Sys2Proof.Machine.execViStart vi s
  | .viStop vi => Sys2Proof.Machine.execViStop vi s
  | .viUnlock vi => Sys2Proof.Machine.execViUnlock vi s
  | .viReset vi => Sys2Proof.Machine.execViReset vi s
  | .dependencesSettled vi id => Sys2Proof.Machine.execDependencesSettled vi id s
  | .leasesResident vi id => Sys2Proof.Machine.execLeasesResident vi id s
  | .preemptRequest launch => Sys2Proof.Machine.execPreemptRequest launch s
  | .resume launch core => Sys2Proof.Machine.execResume launch core s
  | .worldEnd world => Sys2Proof.Machine.execWorldEnd world s
  | .registerWrite r v => Sys2Proof.Machine.execRegisterWrite r v s
  | .bankcfg bank launchTag worldTag => Sys2Proof.Machine.execBankcfg bank launchTag worldTag s
  | .objectTableWrite obj e => Sys2Proof.Machine.execObjectTableWrite obj e s

end Sys2Proof.Machine
end

