-- ==== Sys2Proof/Machine/Sequence.lean ====
section
/-! DEFINITION. Which row of the opcode table the machine runs next: a received event, what is due of its own accord, a word of an
engine or of a shuttle, or the next clock cycle (R26, R27, R53 to R55, R113, R301, R328, R397). -/

namespace Sys2Proof.Machine

/-- A row to run, and the engine whose word it is. -/
abbrev Row := Engine × Instr

/-- A row of no engine in particular, where it is due. -/
def dueIf (c : Bool) (i : Instr) : Option Row := if c then some (.s, i) else none

/-- The launch of this core, while it is ending (R386). -/
def State.endingCode (s : State) : Option Nat :=
  ((s.fw.launches.find? (fun l => s.mine l && l.st = 6)).map Launch.status)
/-- A launch whose retirement this package can begin of its own accord: no core but this one is bound to it, or every other is done. -/
def State.retireDue (s : State) : Option Launch :=
  s.fw.launches.find? (fun l => s.mayRetire l && (s.boundTo l.no).all (fun c => c = s.ctl.coreId || s.fw.doneCores.contains c))
/-- What the run, the stop, the group and the launch of the core have due. -/
def State.dueCore (s : State) : Option Row :=
  (s.ownAbort.map (fun c => (Engine.s, Instr.runAbort ⟨s.run.group, c, s.ctl.lcore⟩)))
  <|> dueIf s.abortDue .abortStop
  <|> dueIf (s.run.phase = .running && s.run.t0 + s.run.len ≤ s.now) .runEnd
  <|> dueIf (s.runDue && !s.stopping) .runStart
  <|> dueIf s.trap.ready .coreStopRecord
  <|> (if s.boundary then s.endingCode.map (fun c => (Engine.s, Instr.asyncAbortTaken c)) else none)
  <|> dueIf s.exitDone .coreDone
  <|> dueIf s.goDue .coreStart
  <|> (s.retireDue.map (fun l => (Engine.s, Instr.launchRetire (BitVec.ofNat 6 l.vi) l.id)))
  <|> ((s.fw.launches.find? s.scrubDue).map (fun l => (Engine.s, Instr.scrubEnd (BitVec.ofNat 6 l.vi) l.id)))
  <|> dueIf s.releaseDue.isSome .seamRelease
  <|> (if s.halted then none else s.arrivalDue.map (fun g => (Engine.s, Instr.seamArrival g s.ctl.lcore)))
  <|> dueIf s.noticeOver .holdNoticeElapsed
/-- The row that ends the wait of S, where it is met. -/
def State.waitRow (s : State) : Option Instr :=
  if s.halted || !s.coreTicks || !s.waitMet then none
  else match s.sx.hold with
    | .token _ _ _ _ => some .tokenWaitMet
    | .counter _ _ _ _ _ => some .counterWaitMet
    | .tape _ => some .tapeWaitMet
    | _ => none
/-- What the waits, commands and accesses of the core have due. -/
def State.dueAccess (s : State) : Option Row :=
  (s.waitRow.map (fun i => (Engine.s, i)))
  <|> dueIf (s.completable.isSome || s.ticketTurn.isSome) .commandCompletion
  <|> dueIf (s.sx.loads.any s.lateReady) .untimedLoadLands
  <|> dueIf (s.sx.stores.any s.storeReady) .storePerform
  <|> dueIf s.oldLine.isSome .stcbLineTimeout
  <|> dueIf s.retryDue.isSome .parkedRetry
  <|> dueIf s.waking.isSome .regclusterWake
  <|> dueIf (s.dpend.any (fun x => x.push && s.dqReady x)) .deferAccept
  <|> dueIf (s.dpend.any (fun x => !x.push && s.dqReady x)) .drainAccept
  <|> dueIf (s.coreTicks && ([6, 7].any s.agGoes || (!s.halted && [0, 1, 2, 3, 4, 5].any s.agGoes))) .agBeat
/-- What the package has due: banks, memory, fabric, links, shuttles, islands, interfaces. -/
def State.duePackage (s : State) : Option Row :=
  dueIf s.opening.isSome .bankOpen
  <|> dueIf s.mem.inv.isSome .invalidationComplete
  <|> dueIf s.migReady.isSome .migrateCopy
  <|> dueIf (s.mem.rels.any s.relReady) .boltRelease
  <|> dueIf (!s.halted && s.armReady) .armMet
  <|> dueIf (!s.halted && s.grantDue) .fabricGrant
  <|> dueIf s.ownMatch.isSome .fabricCallMatch
  <|> dueIf s.redDue.isSome .putredCombine
  <|> dueIf s.missing.isSome .deadlineCheck
  <|> dueIf (1024 ≤ s.clk.clocks) .tadjStepApply
  <|> dueIf (s.syncDue ≠ []) .syncFlitSend
  <|> dueIf s.slowLink.isSome .linkRetrainTimeout
  <|> dueIf s.keyDue.isSome (.linkKeySwitch trivial)
  <|> dueIf (s.rosodTicks && (s.illVisit.isSome || s.granted.isSome)) .shuttleVisit
  <|> dueIf s.islandDue.isSome .islandChangeApply
  <|> dueIf s.stoppedVi.isSome .viStopComplete
/-- Everything that is due of its own accord. -/
def State.due (s : State) : Option Row := s.dueCore <|> s.dueAccess <|> s.duePackage

/-- The word of the shuttle whose turn it is (R169, R171). -/
def State.shuttleRow (s : State) : Option Row :=
  match s.visit with
  | some v => if v.next ≤ s.now && s.rosodTicks then (decodeSh (shWordAt v.sh)).toOption.map (fun i => (Engine.s, i)) else none
  | none => none

/-- The word of an engine's stream in a run (R26, R54, R328). -/
def State.streamRow1 (s : State) (e : Engine) : Option Row :=
  let st := s.run.stream e
  if st.next ≤ s.now && s.now < s.run.t0 + s.run.len then
    match st.words[st.pos]? with
    | some w => (decodeFor e w.toNat).toOption.map (fun i => (e, i))
    | none => none
  else none
/-- The next word of the four streams. -/
def State.streamRow (s : State) : Option Row :=
  if s.timed && s.coreTicks then [Engine.s, .v, .m, .c].findSome? s.streamRow1 else none

/-- Is a read of a chain's window done: its bank has served it in this cycle, or it has no address (R94, R95)? -/
def State.chainRead (s : State) (c : Chain) (off n : Nat) : Bool :=
  c.served = some s.now || (match s.winAddr c.win off n with | .error _ => true | .ok _ => false)
/-- The decoded entry of an engine, where it may issue or, its word read, test its condition (R113, R116, R117, R141). -/
def State.issueRow1 (s : State) (e : Engine) : Option Row :=
  let c := s.chain e
  match c.cur with
  | some en =>
    if c.st = 2 && en.ready && !en.skip && c.next ≤ s.now then
      if en.cond.isSome then (if s.chainRead c en.word.toNat 4 then some (e, .chainCondEntry) else none)
      else if c.flying < roomOf e && !(e = .c && (s.cx.asked && !s.cx.granted || s.waitingFor .pre)) then
        (decodeFor e en.word.toNat).toOption.map (fun i => (e, i))
      else none
    else none
  | none => none
/-- The next command that issues from a chain. -/
def State.issueRow (s : State) : Option Row := if s.chainsRun then [Engine.v, .m, .c].findSome? s.issueRow1 else none
/-- The next entry of an engine that, once read, is decoded or, as a control entry, run (R50, R113). -/
def State.entryRow1 (s : State) (e : Engine) : Option Row :=
  if s.decodes e && s.chainRead (s.chain e) (s.chain e).pos 16 then
    match s.peek e with
    | .error _ => some (e, .chainEntryDecode)
    | .ok r =>
      some (e, if r.kind = 1 then .chainLoopEntry else if r.kind = 3 then .chainLinkEntry
        else if r.kind = 4 then .chainEndEntry else .chainEntryDecode)
  else none
/-- The next entry of a chain. -/
def State.entryRow (s : State) : Option Row := if s.chainsRun then [Engine.v, .m, .c].findSome? s.entryRow1 else none

/-- Does S issue in this cycle outside a run (R301, R312, R397)? A form that holds looks again even while the core stops. -/
def State.issuesS (s : State) : Bool :=
  s.sx.on && s.sx.hold = .no && s.run.phase = .off && s.sx.next ≤ s.now && s.coreTicks &&
    (s.sx.blk.isSome || (!s.halted && !s.frozen))
/-- The untimed word of S (R53). -/
def State.scalarRow (s : State) : Option Row :=
  if s.issuesS then
    match s.fetchS with
    | .ok w => (match decodeFor .s w with | .ok i => some (.s, i) | .error _ => some (.s, .illegalWord))
    | .error _ => some (.s, .illegalWord)
  else none

/-- Has the bound of a chain entry passed at the end of this cycle, with all that the cycle could complete complete (R120)? -/
def State.overdue (s : State) : Bool := [Engine.v, .m, .c].any (fun e => (s.overCmd e).isSome || (s.overEntry e).isSome)
/-- The row that the machine runs of its own accord. A bound of a wait of S or of a chain entry is looked at when all else of its cycle
is done: what the cycle meets is met (R120, R323). -/
def State.ownRow (s : State) : Row :=
  match s.due with
  | some r => r
  | none =>
    match s.shuttleRow with
    | some r => r
    | none =>
      match s.streamRow with
      | some r => r
      | none =>
        match s.issueRow with
        | some r => r
        | none =>
          match s.scalarRow with
          | some r => r
          | none =>
            match s.entryRow with
            | some r => r
            | none =>
              if s.nextServed.isSome then (.s, .bankService)
              else if !s.halted && s.boundOver.isSome then (.s, .waitBound)
              else if s.overdue then (.s, .chainBound) else (.s, .clockCycle)
/-- The next row, and the state in which it runs: an event that has come in goes first. -/
def State.nextRow (s : State) : Instr × State :=
  match s.env.inbox with
  | i :: rest => (i, { s with env := { s.env with inbox := rest } })
  | [] => let r := s.ownRow; (r.2, { s with actor := r.1 })

/-! ### A word placed where the machine fetches next -/

/-- A code object of one page, for a machine that has no code at its PC. -/
def codePage (s : State) : ObjEntry :=
  ⟨0, 2, s.ctl.vi, false, 0x09, 1, 0, s.ctl.world, 2 ^ 48 - 1, 0, 0, [⟨s.regs.pc.toNat / 4096, 0, 0, false, true, 4096, 0⟩], 0⟩
/-- S is to fetch next: it is on, waits for nothing, and its text section covers the PC. -/
def State.readyS (s : State) : State :=
  let pc := s.regs.pc.toNat
  let has : Bool := match s.entry (capObj s.code.cap) with
    | some e => (physOf e (s.code.textOff + pc)).isSome && capUpper s.code.cap ≥ pc + 4 && capLower s.code.cap ≤ pc
    | none => false
  let t := { s with
    run := { s.run with phase := .off }
    sx := { s.sx with on := true, next := s.now, hold := .no, blk := none } }
  if has then t
  else { t.setEntry 1 (some (codePage s)) with code := { t.code with cap := mkCap 1 0x08 (pc / 4096 * 4096) (pc / 4096 * 4096 + 4096), textOff := 0 } }
/-- The block of an object byte counts as written under the object's identity. -/
def State.ownBlock (s : State) (id o : Nat) : State :=
  match s.entry id with
  | some e => (match physOf e o with
    | some p => { s with mem := { s.mem with tags := tset none s.mem.tags (p / 16) (some (s.tagFor id e o)) } }
    | none => s)
  | none => s
/-- Place a word of S at the PC. -/
def State.placeS (s : State) (w : Nat) : State :=
  let t := s.readyS
  let id := capObj t.code.cap
  let o := t.code.textOff + t.regs.pc.toNat
  ((t.ownBlock id o).ownBlock id (o + 3)).objWrite id o (leBytes 4 w)
/-- Place a word of V, M or C as the decoded entry of its chain; one that stands only in a run, as its stream. -/
def State.placeChain (s : State) (e : Engine) (w : Nat) : State :=
  let t := { s with sx := { s.sx with on := true, hold := .exit } }
  let only : Bool := match decodeFor e w with | .ok i => (chainIllegal i).isSome | .error _ => false
  if only then
    { t with
      sx := { t.sx with hold := .run }
      run := (({ Run.reset with phase := .running, t0 := s.now, len := 4096, started := true } : Run).setStream e
      ⟨[BitVec.ofNat 32 w], 0, [], s.now⟩) }
  else
    let c := s.chain e
    t.setChain e { c with
      st := 2, cur := some ⟨BitVec.ofNat 32 w, 0, 2 ^ 32 - 1, c.e, c.pos, c.loops, s.now, [], none, false, true, false⟩, next := s.now }
/-- Place a word of a shuttle as the next one of a visit. -/
def State.placeSh (s : State) (w : Nat) : State :=
  let sh : Shuttle := { shuttleOf [] with code := [BitVec.ofNat 16 w], budget := 1 }
  { s with sh := { s.sh with eng := ⟨s.sh.visitNo, sh, 0, s.now, 0, 0, s.now, none⟩ :: s.sh.eng, visitNo := s.sh.visitNo + 1 } }
/-- Place an instruction where the machine fetches next. -/
def State.placeWord (s : State) (nbits w : Nat) : State :=
  let t := { s with env := { s.env with inbox := [] } }
  if nbits = 16 then t.placeSh (w % 2 ^ 16)
  else match engineOf (w % 2 ^ 32) with
    | some .v => t.placeChain .v (w % 2 ^ 32)
    | some .m => t.placeChain .m (w % 2 ^ 32)
    | some .c => t.placeChain .c (w % 2 ^ 32)
    | _ => t.placeS (w % 2 ^ 32)

end Sys2Proof.Machine
end

