-- ==== Sys2Proof/Machine/Step.lean ====
section
/-! DEFINITION. One step: the next row of the opcode table, run. -/

namespace Sys2Proof.Machine

/-- One step of the machine. -/
def step (s : State) : Host.Outcome State Fault Refusal := exec s.nextRow.1 s.nextRow.2

/-- The state with an instruction stored where the next step fetches it. -/
def State.withFetchWord (s : State) (nbits w : Nat) : State := s.placeWord nbits w

end Sys2Proof.Machine
end

