-- ==== Sys2Proof/Safety.lean ====
section
/-! DEFINITION. The terms in which the statements speak: which engine an instruction belongs to, what a word leaves alone,
and the invariant that every step keeps. -/

namespace Sys2Proof.Machine

/-- The engines whose words an instruction is (R27): IDLE and LOOP stand for all four; shuttle words and events for none. -/
def engines : Instr → List Engine
  | .add .. | .sub .. | .and .. | .or .. | .xor .. | .andn .. | .shl .. | .shr .. | .sra .. | .ror .. | .slt ..
  | .sltu .. | .min .. | .max .. | .minu .. | .maxu .. | .adds .. | .subs .. | .clz .. | .popc .. | .sextb ..
  | .sexth .. | .sextw .. | .mul .. | .mulh .. | .mulhu .. | .div .. | .divu .. | .rem .. | .remu .. | .movb ..
  | .setb .. | .mget .. | .mput .. | .amo .. | .ldaq .. | .strl .. | .sts .. | .stcb .. | .fence .. | .slwb ..
  | .slinv .. | .cmov .. | .cjoin .. | .clo .. | .chi .. | .cright .. | .cget .. | .cchk .. | .br .. | .loopend ..
  | .tksig .. | .tkwait .. | .tkiss .. | .tkcmp .. | .cwait .. | .cread .. | .cwrite .. | .chwin .. | .chhead ..
  | .chtail .. | .chstat .. | .chstop .. | .tread .. | .tuntil .. | .tadj .. | .runAt .. | .runSeam .. | .seam ..
  | .seamR .. | .srd .. | .swr .. | .trap .. | .tret .. | .exit .. | .bankset .. | .bankget .. | .waymask ..
  | .csel .. | .cstat .. | .fstat .. | .freset .. | .regmode .. | .regstat .. | .viewld .. | .viewget ..
  | .agset .. | .go .. | .agstop .. | .agget .. | .gset .. | .ggo .. | .gstat .. | .boltnew .. | .boltgrow ..
  | .cut .. | .addi .. | .andi .. | .ori .. | .xori .. | .shi .. | .lui .. | .slti .. | .sel .. | .ldb .. | .ldh ..
  | .ldw .. | .ldd .. | .stb .. | .sth .. | .stw .. | .std .. | .ldbn .. | .ldhn .. | .ldwn .. | .ldc .. | .stc ..
  | .pbr .. | .safe .. => [.s]
  | .vadd .. | .vsub .. | .vmul .. | .vfma .. | .vfms .. | .vfnma .. | .vmin .. | .vmax .. | .vabs .. | .vneg ..
  | .vdiv .. | .vsqrt .. | .vrcpe .. | .vrsqe .. | .vexp2 .. | .vlog2 .. | .vand .. | .vor .. | .vxor ..
  | .vandn .. | .vshl .. | .vshr .. | .vsra .. | .vclz .. | .vadds .. | .vsubs .. | .vmulhi .. | .vabd ..
  | .vrshr .. | .vclamp .. | .vsel .. | .vmov .. | .vceq .. | .vcne .. | .vclt .. | .vcle .. | .vcun .. | .vmand ..
  | .vmor .. | .vmxor .. | .vcvt .. | .vpack .. | .vunpk .. | .qblk .. | .vbcast .. | .vlane .. | .vperm ..
  | .vslide .. | .vrsum .. | .vrmax .. | .vrmin .. | .vrdot .. | .vrev .. | .vzip .. | .vunzip .. | .vshuf ..
  | .defer .. | .drain .. | .vdqcnt .. => [.v]
  | .mldw .. | .mldwBd .. | .mldb .. | .mwclr .. | .mmul .. | .macc .. | .maccn .. | .mmulg .. | .maccg ..
  | .mdrn .. | .mdrnc .. | .mdrnr .. | .mclr .. | .msfmt .. | .mstat .. => [.m]
  | .ccpy .. | .ccpyt .. | .cgath .. | .cscat .. | .cfill .. | .cldrec .. | .rcfence .. | .migrate .. | .put ..
  | .putred .. | .get .. | .carm .. | .craise .. | .shsend .. | .cpref .. | .ccpyr .. | .ccpyrt .. | .cgatht ..
  | .cscatt .. | .cxpose .. | .ccvt .. | .cflush .. | .cinval .. | .cwrw .. | .catom .. => [.c]
  | .idle .. | .loop .. => [.s, .v, .m, .c]
  | .shNop .. | .shPushi .. | .shPushg .. | .shPopg .. | .shDup .. | .shDrop .. | .shSwap .. | .shAdd ..
  | .shSub .. | .shAnd .. | .shOr .. | .shXor .. | .shShl .. | .shShr .. | .shClt .. | .shCeq .. | .shSkz ..
  | .shSknz .. | .shSkip .. | .shHops .. | .shHere .. | .shLload .. | .shRdc .. | .shRdw .. | .shAddw ..
  | .shClone .. | .shDir .. | .shFwd .. | .shDlv .. | .shKill .. => []
  | .runAbort .. | .seamArrival .. | .asyncAbortTaken .. | .launch .. | .abort .. | .releaseId .. | .cutIdle ..
  | .parkRead .. | .parkRelease .. | .receipt .. | .keyNew .. | .keyLoad .. | .keyDrop .. | .launchRetire ..
  | .scrubEnd .. | .chainEntryDecode .. | .chainLoopEntry .. | .chainCondEntry .. | .chainLinkEntry ..
  | .chainEndEntry .. | .commandCompletion .. | .chainBound .. | .waitBound .. | .tokenWaitMet ..
  | .counterWaitMet .. | .tapeWaitMet .. | .armMet .. | .untimedLoadLands .. | .storePerform ..
  | .stcbLineTimeout .. | .bankService .. | .bankOpen .. | .parkedRetry .. | .migrateCopy .. | .boltRelease ..
  | .agBeat .. | .regclusterWake .. | .deferAccept .. | .drainAccept .. | .runStart .. | .runEnd .. | .abortStop ..
  | .seamRelease .. | .holdNoticeElapsed .. | .tadjStepApply .. | .syncFlitSend .. | .linkRetrainTimeout ..
  | .putredCombine .. | .deadlineCheck .. | .fabricGrant .. | .fabricCallMatch .. | .shuttleVisit ..
  | .invalidateAll .. | .invalidationComplete .. | .coreStart .. | .coreStopRecord .. | .coreDone ..
  | .islandChangeApply .. | .snapPin .. | .packageReset .. | .ckpt .. | .viStopComplete .. | .clockCycle ..
  | .illegalWord .. | .groupRestart .. | .holdRequest .. | .holdLift .. | .tapeload .. | .syncFlitReceive ..
  | .flitReceive .. | .linkReplayDone .. | .linkTrainingDone .. | .linkDisable .. | .linkEnable .. | .linktxkey ..
  | .linkrxkey .. | .linkKeySwitch .. | .timedPieceArrival .. | .fabricRequestArrival .. | .fabricRefusal ..
  | .fabricDataArrival .. | .shuttleArrival .. | .invalidateObject .. | .invalidateKeyslot .. | .bindent ..
  | .bindgo .. | .thermalTrip .. | .islctl .. | .snaptrig .. | .doorbell .. | .ringkey .. | .ringresync ..
  | .cplhead .. | .checkpointRestore .. | .viEnable .. | .viLock .. | .viStart .. | .viStop .. | .viUnlock ..
  | .viReset .. | .dependencesSettled .. | .leasesResident .. | .preemptRequest .. | .resume .. | .worldEnd ..
  | .registerWrite .. | .bankcfg .. | .objectTableWrite .. => []

/-- The words of a shuttle (R45). -/
def isShuttleWord : Instr → Bool
  | .shNop .. | .shPushi .. | .shPushg .. | .shPopg .. | .shDup .. | .shDrop .. | .shSwap .. | .shAdd ..
  | .shSub .. | .shAnd .. | .shOr .. | .shXor .. | .shShl .. | .shShr .. | .shClt .. | .shCeq .. | .shSkz ..
  | .shSknz .. | .shSkip .. | .shHops .. | .shHere .. | .shLload .. | .shRdc .. | .shRdw .. | .shAddw ..
  | .shClone .. | .shDir .. | .shFwd .. | .shDlv .. | .shKill .. => true
  | .idle .. | .loop .. | .add .. | .sub .. | .and .. | .or .. | .xor .. | .andn .. | .shl .. | .shr .. | .sra ..
  | .ror .. | .slt .. | .sltu .. | .min .. | .max .. | .minu .. | .maxu .. | .adds .. | .subs .. | .clz ..
  | .popc .. | .sextb .. | .sexth .. | .sextw .. | .mul .. | .mulh .. | .mulhu .. | .div .. | .divu .. | .rem ..
  | .remu .. | .movb .. | .setb .. | .mget .. | .mput .. | .amo .. | .ldaq .. | .strl .. | .sts .. | .stcb ..
  | .fence .. | .slwb .. | .slinv .. | .cmov .. | .cjoin .. | .clo .. | .chi .. | .cright .. | .cget .. | .cchk ..
  | .br .. | .loopend .. | .tksig .. | .tkwait .. | .tkiss .. | .tkcmp .. | .cwait .. | .cread .. | .cwrite ..
  | .chwin .. | .chhead .. | .chtail .. | .chstat .. | .chstop .. | .tread .. | .tuntil .. | .tadj .. | .runAt ..
  | .runSeam .. | .seam .. | .seamR .. | .srd .. | .swr .. | .trap .. | .tret .. | .exit .. | .bankset ..
  | .bankget .. | .waymask .. | .csel .. | .cstat .. | .fstat .. | .freset .. | .regmode .. | .regstat ..
  | .viewld .. | .viewget .. | .agset .. | .go .. | .agstop .. | .agget .. | .gset .. | .ggo .. | .gstat ..
  | .boltnew .. | .boltgrow .. | .cut .. | .addi .. | .andi .. | .ori .. | .xori .. | .shi .. | .lui .. | .slti ..
  | .sel .. | .ldb .. | .ldh .. | .ldw .. | .ldd .. | .stb .. | .sth .. | .stw .. | .std .. | .ldbn .. | .ldhn ..
  | .ldwn .. | .ldc .. | .stc .. | .pbr .. | .safe .. | .vadd .. | .vsub .. | .vmul .. | .vfma .. | .vfms ..
  | .vfnma .. | .vmin .. | .vmax .. | .vabs .. | .vneg .. | .vdiv .. | .vsqrt .. | .vrcpe .. | .vrsqe ..
  | .vexp2 .. | .vlog2 .. | .vand .. | .vor .. | .vxor .. | .vandn .. | .vshl .. | .vshr .. | .vsra .. | .vclz ..
  | .vadds .. | .vsubs .. | .vmulhi .. | .vabd .. | .vrshr .. | .vclamp .. | .vsel .. | .vmov .. | .vceq ..
  | .vcne .. | .vclt .. | .vcle .. | .vcun .. | .vmand .. | .vmor .. | .vmxor .. | .vcvt .. | .vpack .. | .vunpk ..
  | .qblk .. | .vbcast .. | .vlane .. | .vperm .. | .vslide .. | .vrsum .. | .vrmax .. | .vrmin .. | .vrdot ..
  | .vrev .. | .vzip .. | .vunzip .. | .vshuf .. | .defer .. | .drain .. | .vdqcnt .. | .mldw .. | .mldwBd ..
  | .mldb .. | .mwclr .. | .mmul .. | .macc .. | .maccn .. | .mmulg .. | .maccg .. | .mdrn .. | .mdrnc ..
  | .mdrnr .. | .mclr .. | .msfmt .. | .mstat .. | .ccpy .. | .ccpyt .. | .cgath .. | .cscat .. | .cfill ..
  | .cldrec .. | .rcfence .. | .migrate .. | .put .. | .putred .. | .get .. | .carm .. | .craise .. | .shsend ..
  | .cpref .. | .ccpyr .. | .ccpyrt .. | .cgatht .. | .cscatt .. | .cxpose .. | .ccvt .. | .cflush .. | .cinval ..
  | .cwrw .. | .catom .. => false
  | .runAbort .. | .seamArrival .. | .asyncAbortTaken .. | .launch .. | .abort .. | .releaseId .. | .cutIdle ..
  | .parkRead .. | .parkRelease .. | .receipt .. | .keyNew .. | .keyLoad .. | .keyDrop .. | .launchRetire ..
  | .scrubEnd .. | .chainEntryDecode .. | .chainLoopEntry .. | .chainCondEntry .. | .chainLinkEntry ..
  | .chainEndEntry .. | .commandCompletion .. | .chainBound .. | .waitBound .. | .tokenWaitMet ..
  | .counterWaitMet .. | .tapeWaitMet .. | .armMet .. | .untimedLoadLands .. | .storePerform ..
  | .stcbLineTimeout .. | .bankService .. | .bankOpen .. | .parkedRetry .. | .migrateCopy .. | .boltRelease ..
  | .agBeat .. | .regclusterWake .. | .deferAccept .. | .drainAccept .. | .runStart .. | .runEnd .. | .abortStop ..
  | .seamRelease .. | .holdNoticeElapsed .. | .tadjStepApply .. | .syncFlitSend .. | .linkRetrainTimeout ..
  | .putredCombine .. | .deadlineCheck .. | .fabricGrant .. | .fabricCallMatch .. | .shuttleVisit ..
  | .invalidateAll .. | .invalidationComplete .. | .coreStart .. | .coreStopRecord .. | .coreDone ..
  | .islandChangeApply .. | .snapPin .. | .packageReset .. | .ckpt .. | .viStopComplete .. | .clockCycle ..
  | .illegalWord .. | .groupRestart .. | .holdRequest .. | .holdLift .. | .tapeload .. | .syncFlitReceive ..
  | .flitReceive .. | .linkReplayDone .. | .linkTrainingDone .. | .linkDisable .. | .linkEnable .. | .linktxkey ..
  | .linkrxkey .. | .linkKeySwitch .. | .timedPieceArrival .. | .fabricRequestArrival .. | .fabricRefusal ..
  | .fabricDataArrival .. | .shuttleArrival .. | .invalidateObject .. | .invalidateKeyslot .. | .bindent ..
  | .bindgo .. | .thermalTrip .. | .islctl .. | .snaptrig .. | .doorbell .. | .ringkey .. | .ringresync ..
  | .cplhead .. | .checkpointRestore .. | .viEnable .. | .viLock .. | .viStart .. | .viStop .. | .viUnlock ..
  | .viReset .. | .dependencesSettled .. | .leasesResident .. | .preemptRequest .. | .resume .. | .worldEnd ..
  | .registerWrite .. | .bankcfg .. | .objectTableWrite .. => false

/-- The forms of S that write one register and nothing else (R68, R304 to R309, R332). -/
def registerForm : Instr → Bool
  | .add .. | .sub .. | .and .. | .or .. | .xor .. | .andn .. | .shl .. | .shr .. | .sra .. | .ror .. | .slt .. | .sltu .. => true
  | .min .. | .max .. | .minu .. | .maxu .. | .adds .. | .subs .. | .clz .. | .popc .. | .sextb .. | .sexth .. => true
  | .sextw .. | .addi .. | .andi .. | .ori .. | .xori .. | .shi .. | .lui .. | .slti .. | .mul .. | .mulh .. | .mulhu .. => true
  | .div .. | .divu .. | .rem .. | .remu .. => true
  | .sel .. | .movb .. | .setb .. | .mget .. | .mput .. | .cmov .. | .cjoin .. | .clo .. | .chi .. | .cright .. | .cget .. => true
  | .cchk .. | .srd .. | .pbr .. | .tkiss .. | .tkcmp .. | .tread .. | .chstat .. | .bankget .. | .cstat .. | .fstat .. => true
  | .regstat .. | .viewget .. | .agget .. | .gstat .. => true
  | _ => false
/-- The lane-wise, compare, mask, conversion, permute and reduction words of V: all but the deferral words. -/
def laneForm (i : Instr) : Bool :=
  match i with
  | .defer .. => false
  | .drain .. => false
  | .idle .. => false
  | .loop .. => false
  | i => engines i = [.v]

/-- Every byte of the package's memories, and of host memory, reads as it did. -/
def sameBytes (s t : State) : Prop :=
  (∀ a, mread t.mem.phys a = mread s.mem.phys a) ∧ (∀ a, mread t.sram.bytes a = mread s.sram.bytes a) ∧
  (∀ a, mread t.rs.bytes a = mread s.rs.bytes a) ∧ (∀ a, mread t.tr.host a = mread s.tr.host a)
/-- Every register of S and every mask register reads as it did; the PC may differ. -/
def sameRegs (s t : State) : Prop :=
  t.regs.s = s.regs.s ∧ t.regs.c = s.regs.c ∧ t.regs.b = s.regs.b ∧ t.regs.m = s.regs.m
/-- What belongs to the package outside the core is as it was. -/
def samePackage (s t : State) : Prop :=
  t.mem = s.mem ∧ t.sram = s.sram ∧ t.fab = s.fab ∧ t.sh = s.sh ∧ t.fw = s.fw ∧ t.tr = s.tr ∧ t.clk = s.clk

/-- Where S stands after a word that does not branch: the next word of its stream in a run, else four bytes on (R44, R301). -/
def State.past (s : State) : State :=
  if s.run.phase = .running then { s with run := { s.run with s := s.run.s.adv s.clk.tape 1 } }
  else { s with regs := { s.regs with pc := s.regs.pc + 4 }
                sx := { s.sx with next := s.clk.tape + 1, blk := none, safe := none } }
/-- A word of S that has put one write in flight, seen `lat` cycles on (R9), and is past. -/
def State.wrote (s : State) (lat : Nat) (t : Tgt) : State :=
  { s with pend := s.pend ++ [(⟨s.clk.tape + lat, .s, t, s.clk.tape⟩ : Pend)] }.past
/-- A word of V that has put its events and its result in flight and completes as they land (R22, R266). -/
def State.vIssued (s : State) (lat : Nat) (t : Option Tgt) (ev : Ev) : State :=
  let add (s : State) (t : Tgt) : State := { s with pend := s.pend ++ [(⟨s.clk.tape + lat, .v, t, s.clk.tape⟩ : Pend)] }
  let u := if ev = 0 then s else add s (.vsticky (ev.setWidth 64))
  let w := match t with
    | some t => add u t
    | none => u
  (w.issued .v 1 (.at (w.clk.tape + lat))).1

/-- The cells that a word writes over the active lanes of a mask: lane l of z bytes gets `f l` (R263, R268). -/
def lanesWritten (mk : Option Mask) (n z addr : Nat) (f : Nat → Nat) : List Host.Cell :=
  (List.range n).flatMap (fun l => if laneOn mk l then cellsAt (addr + l * z) (leBytes z (f l)) else [])
/-- The events of the active lanes, gathered (R270). -/
def lanesEv (mk : Option Mask) (n : Nat) (f : Nat → Ev) : Ev :=
  ((List.range n).filter (laneOn mk)).foldl (fun e l => e ||| f l) 0
/-- A word of V that has read its operands has issued with a register-space result; where the destination's cluster is not ON in
a run nothing is written (R198, R266). -/
def State.vOut (u : State) (i : VIn) (lat : Nat) (cells : List Host.Cell) (ev : Ev) : State :=
  u.vIssued lat (if i.ok then some (.rs cells) else none) ev
/-- Lane l of 256 bytes read as elements of z bytes (R263). -/
def laneAt (z : Nat) (b : List Byte) (l : Nat) : Nat := fieldAt b (l * z) z

/-- The plain loads of S (R70, R310): register (32 and up: a c register), bytes, sign, capability, class, offset field, rights. -/
def loadOf : Instr → Option (Nat × Nat × Bool × BitVec 4 × BitVec 4 × BitVec 13 × Nat)
  | .ldb d c k o => some (d.toNat, 1, true, c, k, o, 1)
  | .ldh d c k o => some (d.toNat, 2, true, c, k, o, 1)
  | .ldw d c k o => some (d.toNat, 4, true, c, k, o, 1)
  | .ldd d c k o => some (d.toNat, 8, true, c, k, o, 1)
  | .ldbn d c k o => some (d.toNat, 1, false, c, k, o, 1)
  | .ldhn d c k o => some (d.toNat, 2, false, c, k, o, 1)
  | .ldwn d c k o => some (d.toNat, 4, false, c, k, o, 1)
  | .ldc d c k o => some (32 + d.toNat, 16, false, c, k, o, 17)
  | _ => none
/-- The plain stores of S (R70, R310): data register, bytes, capability, class, offset field, rights. -/
def storeOf (s : State) : Instr → Option (RegRef × List Byte × BitVec 4 × BitVec 4 × BitVec 13 × Nat)
  | .stb d c k o => some (.s d.toNat, leBytes 1 (s.sreg d.toNat).toNat, c, k, o, 2)
  | .sth d c k o => some (.s d.toNat, leBytes 2 (s.sreg d.toNat).toNat, c, k, o, 2)
  | .stw d c k o => some (.s d.toNat, leBytes 4 (s.sreg d.toNat).toNat, c, k, o, 2)
  | .std d c k o => some (.s d.toNat, leBytes 8 (s.sreg d.toNat).toNat, c, k, o, 2)
  | .stc d c k o => some (.c d.toNat, leBytes 16 (s.creg d.toNat).toNat, c, k, o, 34)
  | _ => none
/-- A load in the load list, S past its word (R312). -/
def State.loading (s : State) (l : LoadRec) : State :=
  { s with sx := { s.sx with loads := s.sx.loads ++ [l], seq := s.sx.seq + 1 } }.past
/-- A store in the store queue, S past its word (R312). -/
def State.storing (s : State) (r : StoreRec) : State :=
  { s with sx := { s.sx with stores := s.sx.stores ++ [r], seq := s.sx.seq + 1 } }.past
/-- A timed request of the core, S past its word (R95, R348). -/
def State.asking (s : State) (cycle num addr : Nat) (act : TReqDo) : State :=
  { s with sram := { s.sram with
    timed := s.sram.timed ++ [(⟨cycle, num, s.sram.order, addr, true, act, s.clk.tape, true⟩ : TReq)], order := s.sram.order + 1 } }.past
/-- SAccMiss is set `lat` cycles on (R22, R313, R334). -/
def State.accMiss (s : State) (lat : Nat) : State :=
  { s with pend := s.pend ++ [(⟨s.clk.tape + lat, .s, .ssticky 1, s.clk.tape⟩ : Pend)] }

/-- C has issued an untimed command of class, least latency, writes, scratchpad reads, segments as `j` says: its reads wait at their
banks, what it read before its issue is spent, its segments are busy, and nothing has moved yet (R81, R94, R113, R118). -/
def State.copies (s t : State) (j : CJob) : Prop :=
  t.regs = s.regs ∧ sameBytes s t ∧ t.rs = s.rs ∧ t.sx = s.sx ∧ t.cv = s.cv ∧ t.cm = s.cm ∧ t.fab = s.fab ∧ ∃ c : Cmd,
    t.cc.cmds = s.cc.cmds ++ [c] ∧ c.doneAt = some (s.clk.tape + j.lat + s.delay) ∧ c.writes = j.ws ∧ c.once = j.once ∧
    c.cvt = j.cvt ∧ c.cls = j.cls ∧ c.busy = onceEach j.busy ∧ c.src = j.src ∧ c.dst = j.dst ∧ c.finished = false ∧ c.out = false ∧
    t.sram = { s.sram with
      queue := s.sram.queue.filter (fun x => x.own ≠ .pre) ++ s.bankReads c.id j, got := s.sram.got.filter (fun x => x.1 ≠ .pre) }
/-- The job of a command that moves parts of n bytes: an object's bytes are taken at the issue, the scratchpad's are read at their
banks (R95, R133). -/
def State.moving (s : State) (a : Cap) (n : Nat) (ps : List (Nat × Nat)) (put : Nat → List Byte → CWrite) (j : CJob) : CJob :=
  { j with
    ws := ps.map (fun p => put p.2 (if isSpad a then List.replicate n 0 else s.objRead (capObj a) p.1 n))
    reads := if isSpad a then ((List.range ps.length).zip ps).map (fun p => (p.1, p.2.1, n)) else [] }
/-- No register that a word of C reads is pending (R407). -/
def State.cClear (s : State) (rs : List RegRef) : Prop :=
  (s.pendEn && !s.timed && s.pendingAny rs) = false

/-- No ring of an interface is at its last number and still ACTIVE (R421). -/
def State.ringsCount (s : State) (v : Nat) : Prop := ∀ r, r < 4 → ((s.vif v).ring r).st = 0 → ((s.vif v).ring r).n ≠ BitVec.allOnes 64
/-- No ring of an interface has an entry to read, or is to be locked (R421). -/
def State.ringsQuiet (s : State) (v : Nat) : Prop := (∀ r, r < 4 → ((s.vif v).ring r).pending = false) ∧ s.ringsCount v

/-! ### The invariant -/

/-- s0 has no entry: nothing was ever written to it (R300). -/
def Regs.noZero (r : Regs) : Bool := r.s.all (fun x => x.1 ≠ 0)
/-- The memories of a checkpoint image are in canonical form. -/
def Image.ok (x : Image) : Bool := Memory.wf x.phys && Memory.wf x.bytes
/-- Every memory is in canonical form, s0 is unwritten, also in what is kept for a restore, a resume or a restart. -/
def State.inv (s : State) : Bool :=
  Memory.wf s.mem.phys && Memory.wf s.sram.bytes && Memory.wf s.rs.bytes && Memory.wf s.tr.host && s.regs.noZero &&
  s.fw.ckpt.all Image.ok && s.fw.saved.all (fun x => x.regs.noZero && Memory.wf x.rs.bytes) &&
  s.grp.restart.all (fun x => x.2.all (fun r => r.regs.noZero)) &&
  s.fw.saved.all (fun x => x.grp.restart.all (fun y => y.2.all (fun r => r.regs.noZero)))

end Sys2Proof.Machine
end

