-- ==== Sys2Proof/Certificates/Slice0/Obligations.lean ====
section
/-! DEFINITION. The statements for the provers. -/

open Sys2Proof Sys2Proof.Machine

/-! ### Encoding and the step -/

/-- R27, R31, R34, R38, R40, R42: the decoder of an engine gives back every word that the encoder makes.
R45: the decoder of shuttle words gives back every word that the encoder makes. -/
def Obligations.DecodeOfEncode : Prop :=
  (∀ (i : Instr) (e : Engine), i.wf = true → e ∈ engines i → decodeFor e (encode i) = .ok i) ∧
  (∀ i : Instr, i.wf = true → isShuttleWord i = true → decodeSh (encode i) = .ok i)

/-- R217, R219, R223, R227: in every IEEE format, every encoding that is no NaN comes back from decoding and encoding, in every
rounding mode and with no event; every tapered encoding does too. -/
def Obligations.EncodeOfDecode : Prop :=
  (∀ f ∈ [fmtF64, fmtF32, fmtBf16, fmtF16], ∀ rm b : Nat, b < 2 ^ f.width → (f.decode b).isNan = false →
    f.encode rm (f.decode b) = (b, 0)) ∧
  (∀ b, b < 256 → b ≠ 128 → encodeKt 7 1 (decodeKt 7 1 b) = (b, 0)) ∧ (∀ b, b < 64 → b ≠ 32 → encodeKt 5 0 (decodeKt 5 0 b) = (b, 0)) ∧
  decodeKt 7 1 128 = .void ∧ decodeKt 5 0 32 = .void

/-- Words written out from the encodings and the examples of the spec decode to the instructions they stand for.
R28, R29: a word with an unassigned major opcode raises ILL_MAJOR, whatever its other bits; an unassigned word of a
shuttle is SH_ILLEGAL. -/
def Obligations.SampleWords : Prop :=
  (decodeFor .s 0xC8690000 = .ok (.boltnew 3 9) ∧ decodeFor .s 0xC8635001 = .ok (.boltgrow 3 3 10) ∧
   decodeFor .s 0xC8050002 = .ok (.cut 5) ∧ decodeFor .s 0x00A41800 = .ok (.add 5 4 3) ∧
   decodeFor .v 0x08800021 = .ok (.vmul 2 0 0 0 16 1) ∧ decodeFor .m 0x93760301 = .ok (.mdrnr 1 5 6 6 0x0301) ∧
   decodeFor .m 0x80F00102 = .ok (.mdrn 3 6 0 0x0102) ∧ decodeFor .m 0x80710202 = .ok (.mdrn 1 6 1 0x0202)) ∧
  ((∀ w : Nat, bitsOf w 26 6 ∈ [12, 13, 14, 15, 39, 51, 52, 53, 54, 55, 56, 57, 58, 59, 60, 61, 62] →
     decodeFor .s w = .error 0x40) ∧
   (∀ w : Nat, bitsOf w 26 6 ∈ [59, 60, 61, 62] → decodeFor .v w = .error 0x40) ∧
   (∀ w : Nat, bitsOf w 27 5 ∈ [4, 5, 6, 7, 13, 14, 15, 22, 23, 24, 25, 26, 27, 28, 29, 30] → decodeFor .m w = .error 0x40) ∧
   (∀ w : Nat, (bitsOf w 26 6 = 15 ∨ (26 ≤ bitsOf w 26 6 ∧ bitsOf w 26 6 ≤ 62)) → decodeFor .c w = .error 0x40) ∧
   decodeSh 0xFFFF = .error 0x49)

/-- R26, R27, R53: outside a run, with nothing received and nothing due, the step runs the word at PC.
R26, R113: the word of a chain's ready entry, and the word of a stream in a run, are run by the step as their engine's. -/
def Obligations.StepRunsDecoded : Prop :=
  (∀ (s : State) (w : Nat) (i : Instr),
     s.env.inbox = [] → s.due = none → s.shuttleRow = none → s.streamRow = none → s.issueRow = none →
     s.issuesS = true → s.fetchS = .ok w → decodeFor .s w = .ok i →
     step s = exec i { s with actor := .s }) ∧
  ((∀ (s : State) (e : Engine) (i : Instr),
     s.env.inbox = [] → s.due = none → s.shuttleRow = none → s.streamRow = some (e, i) →
     step s = exec i { s with actor := e }) ∧
   (∀ (s : State) (e : Engine) (i : Instr),
     s.env.inbox = [] → s.due = none → s.shuttleRow = none → s.streamRow = none → s.issueRow = some (e, i) →
     step s = exec i { s with actor := e }) ∧
   (∀ (s : State) (e : Engine) (i : Instr),
     s.env.inbox = [] → s.due = none → s.shuttleRow = some (e, i) → step s = exec i { s with actor := e }) ∧
   (∀ (s : State) (e : Engine) (i : Instr), s.env.inbox = [] → s.due = some (e, i) → step s = exec i { s with actor := e }) ∧
   (∀ (s : State) (i : Instr) (rest : List Instr), s.env.inbox = i :: rest →
     step s = exec i { s with env := { s.env with inbox := rest } }))

/-- R18, R236, R361, R418, R424, R438: what reset leaves, where the spec gives a value.
The invariant holds at reset. -/
def Obligations.ResetValues : Prop :=
  (let s := State.reset
   s.clk.rate = 0x000FB991#32 ∧ s.clk.stepPending = 0 ∧ s.clk.aligned = false ∧ s.clk.loaded = false ∧ s.clk.phase = 0 ∧
   s.ctl.qblkctl = 3 ∧ s.ctl.vctl = 0 ∧ s.ctl.vsticky = 0 ∧ s.ctl.msticky = 0 ∧ s.ctl.csticky = 0 ∧ s.ctl.regsticky = 0 ∧
   s.ctl.sramsticky = 0 ∧ s.ctl.ssticky = 0 ∧
   (∀ k, s.cfgOf k = BankCfg.reset) ∧ (∀ v, (s.vif v).st = 0) ∧ (∀ v r, ((s.vif v).ring r).st = 3) ∧
   (∀ c, s.bindState c = 0) ∧ (∀ k, (s.link k).st = 0) ∧ (∀ id, s.entry id = none) ∧ s.sx.on = false) ∧
  (State.reset.inv = true)

/-- R9, R300: every step keeps every memory in canonical form and s0 unwritten. -/
def Obligations.StepKeepsInv : Prop :=
  ∀ s t : State, s.inv = true → step s = .next t → t.inv = true

/-! ### S: registers -/

/-- R301, R304: the two-source forms write their result one cycle on and S goes on. The shifts of 64 and more, and the clamped
sums, are as the table says.
R304, R305: the one-source and immediate forms.
R306: the multiply forms are seen three cycles on, the divide forms twenty; a divisor of zero sets DivZero and the form
answers what the table says for it. -/
def Obligations.ScalarAlu : Prop :=
  (∀ (s : State) (d a b : BitVec 5), s.shadow [.s a.toNat, .s b.toNat] = false →
     let x := s.sreg a.toNat
     let y := s.sreg b.toNat
     let ok (i : Instr) (v : W64) : Prop := exec i s = .next (s.wrote 1 (.sreg d.toNat v))
     ok (.add d a b) (BitVec.ofNat 64 (x.toNat + y.toNat)) ∧ ok (.sub d a b) (BitVec.ofInt 64 (x.toInt - y.toInt)) ∧
     ok (.and d a b) (x &&& y) ∧ ok (.or d a b) (x ||| y) ∧ ok (.xor d a b) (x ^^^ y) ∧ ok (.andn d a b) (x &&& ~~~y) ∧
     ok (.shl d a b) (BitVec.ofNat 64 (x.toNat * 2 ^ y.toNat)) ∧ ok (.shr d a b) (BitVec.ofNat 64 (x.toNat / 2 ^ y.toNat)) ∧
     ok (.sra d a b) (BitVec.ofInt 64 (x.toInt / 2 ^ y.toNat)) ∧
     ok (.ror d a b) ((x >>> (y.toNat % 64)) ||| (x <<< (64 - y.toNat % 64))) ∧
     ok (.slt d a b) (if x.toInt < y.toInt then 1 else 0) ∧ ok (.sltu d a b) (if x.toNat < y.toNat then 1 else 0) ∧
     ok (.min d a b) (if x.toInt ≤ y.toInt then x else y) ∧ ok (.max d a b) (if x.toInt ≤ y.toInt then y else x) ∧
     ok (.minu d a b) (if x.toNat ≤ y.toNat then x else y) ∧ ok (.maxu d a b) (if x.toNat ≤ y.toNat then y else x) ∧
     ok (.adds d a b) (BitVec.ofInt 64 (max (-(2 ^ 63)) (min (2 ^ 63 - 1) (x.toInt + y.toInt)))) ∧
     ok (.subs d a b) (BitVec.ofInt 64 (max (-(2 ^ 63)) (min (2 ^ 63 - 1) (x.toInt - y.toInt))))) ∧
  (∀ (s : State) (d a : BitVec 5) (im : BitVec 16) (n : BitVec 6) (q : BitVec 2),
     let x := s.sreg a.toNat
     let k := s.sreg d.toNat
     let ok (i : Instr) (v : W64) : Prop := exec i s = .next (s.wrote 1 (.sreg d.toNat v))
     (s.shadow [.s a.toNat] = false →
       (∀ c : Nat, (x = 0 ∧ c = 64 ∨ 2 ^ (63 - c) ≤ x.toNat ∧ x.toNat < 2 ^ (64 - c) ∧ c < 64) →
         ok (.clz d a) (BitVec.ofNat 64 c)) ∧
       ok (.popc d a) (BitVec.ofNat 64 ((List.range 64).countP (fun j => x.getLsbD j))) ∧
       ok (.sextb d a) (BitVec.ofInt 64 (x.setWidth 8).toInt) ∧ ok (.sexth d a) (BitVec.ofInt 64 (x.setWidth 16).toInt) ∧
       ok (.sextw d a) (BitVec.ofInt 64 (x.setWidth 32).toInt) ∧
       ok (.addi d a im) (x + BitVec.ofInt 64 im.toInt) ∧ ok (.andi d a im) (x &&& BitVec.ofNat 64 im.toNat) ∧
       ok (.ori d a im) (x ||| BitVec.ofNat 64 im.toNat) ∧ ok (.xori d a im) (x ^^^ BitVec.ofNat 64 im.toNat) ∧
       ok (.slti d a im) (if x.toInt < im.toInt then 1 else 0) ∧
       ok (.shi d a 0 n) (x <<< n.toNat) ∧ ok (.shi d a 1 n) (x >>> n.toNat) ∧ ok (.shi d a 2 n) (x.sshiftRight n.toNat) ∧
       ok (.shi d a 3 n) (x.rotateRight n.toNat)) ∧
     (s.shadow [.s d.toNat] = false →
       ok (.lui d q im) (BitVec.ofNat 64 (k.toNat - k.toNat / 2 ^ (16 * q.toNat) % 2 ^ 16 * 2 ^ (16 * q.toNat) +
         im.toNat * 2 ^ (16 * q.toNat))))) ∧
  (∀ (s : State) (d a b : BitVec 5), s.shadow [.s a.toNat, .s b.toNat] = false →
     let x := s.sreg a.toNat
     let y := s.sreg b.toNat
     let mul (i : Instr) (v : W64) : Prop := exec i s = .next (s.wrote 3 (.sreg d.toNat v))
     let z := if y = 0 then { s with pend := s.pend ++ [(⟨s.clk.tape + 20, .s, .ssticky 4, s.clk.tape⟩ : Pend)] } else s
     let div (i : Instr) (v : W64) : Prop := exec i s = .next (z.wrote 20 (.sreg d.toNat v))
     mul (.mul d a b) (BitVec.ofNat 64 (x.toNat * y.toNat)) ∧
     mul (.mulh d a b) (BitVec.ofInt 64 (x.toInt * y.toInt / 2 ^ 64)) ∧
     mul (.mulhu d a b) (BitVec.ofNat 64 (x.toNat * y.toNat / 2 ^ 64)) ∧
     div (.div d a b) (if y = 0 then BitVec.allOnes 64 else BitVec.ofInt 64 (x.toInt.tdiv y.toInt)) ∧
     div (.divu d a b) (if y = 0 then BitVec.allOnes 64 else BitVec.ofNat 64 (x.toNat / y.toNat)) ∧
     div (.rem d a b) (if y = 0 then x else BitVec.ofInt 64 (x.toInt.tmod y.toInt)) ∧
     div (.remu d a b) (if y = 0 then x else BitVec.ofNat 64 (x.toNat % y.toNat)))

/-- R68, R69, R307 to R309: select, moves, masks and capability forms. CLO and CHI take a bound between the old ones, and
trap with CAP_WIDEN otherwise. -/
def Obligations.ScalarMoves : Prop :=
  ∀ (s : State) (d a b c : BitVec 5) (k : BitVec 2) (w : BitVec 2) (m : BitVec 3) (x y : BitVec 4),
    let ok (i : Instr) (v : W64) : Prop := exec i s = .next (s.wrote 1 (.sreg d.toNat v))
    let cap (i : Instr) (v : Cap) : Prop := exec i s = .next (s.wrote 1 (.creg x.toNat v))
    let q := s.creg y.toNat
    let v := s.sreg b.toNat
    (s.shadow [.s a.toNat, .s b.toNat, .s c.toNat] = false →
      ok (.sel d a b 0 c) (if s.sreg c.toNat ≠ 0 then s.sreg a.toNat else v) ∧
      ok (.sel d a b 1 c) (if s.sreg c.toNat = 0 then s.sreg a.toNat else v) ∧
      ok (.sel d a b 2 c) (if (s.sreg c.toNat).toInt < 0 then s.sreg a.toNat else v) ∧
      ok (.sel d a b 3 c) (if 0 ≤ (s.sreg c.toNat).toInt then s.sreg a.toNat else v)) ∧
    (s.shadow [.b k.toNat] = false → ok (.movb d k) (s.breg k.toNat)) ∧
    (s.shadow [.s a.toNat] = false → exec (.setb k a) s = .next (s.wrote 3 (.breg k.toNat (s.sreg a.toNat)))) ∧
    (s.shadow [.m m.toNat] = false → ok (.mget d m w) (BitVec.ofNat 64 ((s.mreg m.toNat).toNat / 2 ^ (64 * w.toNat)))) ∧
    (s.shadow [.s a.toNat] = false → exec (.mput m a w) s = .next (s.wrote 1 (.mreg m.toNat (~~~quarterMask w.toNat)
      (BitVec.ofNat 256 ((s.sreg a.toNat).toNat * 2 ^ (64 * w.toNat)))))) ∧
    (s.shadow [.c y.toNat] = false →
      cap (.cmov x y) q ∧
      ok (.cget d y 0) (BitVec.ofNat 64 (capObj q)) ∧ ok (.cget d y 1) (BitVec.ofNat 64 (capRights q)) ∧
      ok (.cget d y 2) (BitVec.ofNat 64 (capLower q)) ∧ ok (.cget d y 3) (BitVec.ofNat 64 (capUpper q))) ∧
    (s.shadow [.s a.toNat, .s b.toNat] = false →
      cap (.cjoin x a b) (BitVec.ofNat 128 ((s.sreg a.toNat).toNat * 2 ^ 64 + v.toNat))) ∧
    (s.shadow [.c y.toNat, .s b.toNat] = false →
      cap (.cright x y b) (mkCap (capObj q) (capRights q &&& v.toNat % 256) (capLower q) (capUpper q)) ∧
      ok (.cchk d y b) (if v.toNat % 256 &&& capRights q = v.toNat % 256 ∧ capLower q < capUpper q then 1 else 0) ∧
      (capLower q ≤ v.toNat ∧ v.toNat ≤ capUpper q →
        cap (.clo x y b) (mkCap (capObj q) (capRights q) v.toNat (capUpper q)) ∧
        cap (.chi x y b) (mkCap (capObj q) (capRights q) (capLower q) v.toNat)) ∧
      (v.toNat < capLower q ∨ capUpper q < v.toNat →
        exec (.clo x y b) s = .next (s.unblock.fault 0 0x082 0 0 0) ∧
        exec (.chi x y b) s = .next (s.unblock.fault 0 0x082 0 0 0)))

/-- R17, R269, R332: SRD reads the register that its selector names; SWR writes by the access code of the register, a
read-only one ignores it, and a profile that is not published raises ILL_PROFILE. -/
def Obligations.SpecialRegisters : Prop :=
  ∀ (s : State) (d a : BitVec 5) (f : BitVec 9),
    let rd (n : BitVec 9) (v : W64) : Prop := exec (.srd d n) s = .next (s.wrote 1 (.sreg d.toNat v))
    let x := s.sreg a.toNat
    let wr (n : BitVec 9) (u : State) : Prop := exec (.swr a n) s = .next u.past
    (s.shadow [] = false →
      rd 0x00 (BitVec.ofNat 64 s.ctl.coreId) ∧ rd 0x01 (BitVec.ofNat 64 s.ctl.lcore) ∧ rd 0x02 (BitVec.ofNat 64 s.ctl.panel) ∧
      rd 0x03 (BitVec.ofNat 64 s.ctl.launchNo) ∧ rd 0x04 (BitVec.ofNat 64 s.ctl.vi) ∧ rd 0x05 (BitVec.ofNat 64 s.ctl.world) ∧
      rd 0x10 s.ctl.vctl ∧ rd 0x11 s.ctl.vsticky ∧ rd 0x12 s.ctl.msticky ∧ rd 0x13 s.ctl.csticky ∧ rd 0x14 s.ctl.regsticky ∧
      rd 0x15 s.ctl.sramsticky ∧ rd 0x16 s.ctl.ssticky ∧ rd 0x17 s.ctl.qblkctl ∧ rd 0x18 s.ctl.dqctl ∧
      rd 0x19 s.ctl.slicesel ∧ rd 0x20 s.cv.compReg ∧ rd 0x21 s.cm.compReg ∧ rd 0x22 s.cc.compReg ∧ rd 0x23 s.ctl.cboundinfo) ∧
    (s.shadow [.s a.toNat] = false →
      (f.toNat < 0x10 ∨ 0x19 ≤ f.toNat → wr f s) ∧
      (bitsOf x.toNat 16 16 = 0 ∨ (profOf (bitsOf x.toNat 16 16)).isSome = true →
        wr 0x10 { s with ctl := { s.ctl with vctl := x &&& 0xFFFF0003#64 } }) ∧
      (bitsOf x.toNat 16 16 ≠ 0 → profOf (bitsOf x.toNat 16 16) = none →
        exec (.swr a 0x10) s = .next (s.unblock.fault 0 0x046 0 0 0)) ∧
      wr 0x11 { s with ctl := { s.ctl with vsticky := s.ctl.vsticky &&& ~~~(x &&& 0x3F) } } ∧
      wr 0x12 { s with ctl := { s.ctl with msticky := s.ctl.msticky &&& ~~~(x &&& 0x7F) } } ∧
      wr 0x13 { s with ctl := { s.ctl with csticky := s.ctl.csticky &&& ~~~(x &&& 0xF) } } ∧
      wr 0x14 { s with ctl := { s.ctl with regsticky := s.ctl.regsticky &&& ~~~(x &&& 0xFF1F) } } ∧
      wr 0x15 { s with ctl := { s.ctl with sramsticky := s.ctl.sramsticky &&& ~~~(x &&& 3) } } ∧
      wr 0x16 { s with ctl := { s.ctl with ssticky := s.ctl.ssticky &&& ~~~(x &&& 7) } } ∧
      wr 0x17 { s with ctl := { s.ctl with qblkctl := x &&& 0xF } } ∧
      (∃ t : State, exec (.swr a 0x18) s = .next t.past ∧ t.ctl.dqctl = (x &&& 0x7FFF7FFF7FFF7FFF#64) ∧ t.mem = s.mem ∧ t.regs = s.regs ∧
        ∀ q < 4, t.staging q = if bitsOf t.ctl.dqctl.toNat (16 * q) 16 = bitsOf s.ctl.dqctl.toNat (16 * q) 16 then s.staging q else .reset))

/-- R9, R302: a write in flight is not seen before its cycle and is seen from it on; a write of s0 is discarded (R300).
R107, R407: with PendEn an untimed read of a register with a write in flight that no run issued traps with SHADOW_READ, and writes
nothing. -/
def Obligations.WritesLand : Prop :=
  ((∀ (s : State) (r n : Nat) (v : W64), s.pend = [] → 0 < n →
     ((s.wrote n (.sreg r v)).landDue (s.now + n - 1)).sreg r = s.sreg r ∧
     ((s.wrote n (.sreg r v)).landDue (s.now + n)).sreg r = (if r = 0 then 0 else v) ∧
     ∀ q, q ≠ r → ((s.wrote n (.sreg r v)).landDue (s.now + n)).sreg q = s.sreg q) ∧
   (∀ (s : State) (r n : Nat) (v : Cap), s.pend = [] →
     ((s.wrote n (.creg r v)).landDue (s.now + n)).creg r = v ∧
     ∀ q, q ≠ r → ((s.wrote n (.creg r v)).landDue (s.now + n)).creg q = s.creg q) ∧
   (∀ (s : State) (r n : Nat) (v : W64), s.pend = [] →
     ((s.wrote n (.breg r v)).landDue (s.now + n)).breg r = v ∧
     ∀ q, q ≠ r → ((s.wrote n (.breg r v)).landDue (s.now + n)).breg q = s.breg q) ∧
   (∀ (s : State) (r n : Nat) (k v : Mask), s.pend = [] →
     ((s.wrote n (.mreg r k v)).landDue (s.now + n)).mreg r = ((s.mreg r &&& k) ||| (v &&& ~~~k)) ∧
     ∀ q, q ≠ r → ((s.wrote n (.mreg r k v)).landDue (s.now + n)).mreg q = s.mreg q)) ∧
  (∀ (s : State) (d a b : BitVec 5),
     s.pendEn = true → s.run.phase = .off → s.sx.blk = none →
     (∃ p ∈ s.pend, s.inPast p.iss = false ∧ ∃ v, p.tgt = .sreg a.toNat v) → a ≠ 0 →
     let t := s.unblock.fault 0 0x002 0 0 0
     exec (.add d a b) s = .next t ∧ exec (.addi d a 0) s = .next t ∧ exec (.mul d a b) s = .next t ∧ exec (.setb 0 a) s = .next t ∧
     t.regs = s.regs ∧ t.pend = s.pend)

/-- R300, R304 to R309: a form of S that writes a register changes, in the step in which it issues, no register, no byte of
any memory, no flag, nothing of the package, and no chain engine: what it writes is in flight, to one register, and of the flags
that of SSTICKY which a divide form names.
R266, R270: a word of V that is no queue form changes, in the step in which it issues, no register, no byte of any memory or
of the register space, nothing of the package, of S, M or C; of the sticky registers only REGSTICKY. -/
def Obligations.RegisterFrame : Prop :=
  (∀ (i : Instr) (s t : State), registerForm i = true → exec i s = .next t →
     sameRegs s t ∧ sameBytes s t ∧ samePackage s t ∧ t.rs = s.rs ∧ t.cv.cmds = s.cv.cmds ∧ t.cm.cmds = s.cm.cmds ∧
     t.cc.cmds = s.cc.cmds ∧ t.cx = s.cx ∧ t.iss = s.iss ∧ t.cmp = s.cmp ∧ t.dq = s.dq ∧ t.me = s.me ∧ t.grp = s.grp ∧ t.code = s.code ∧
     t.trap.frame = s.trap.frame ∧ t.trap.handler = s.trap.handler ∧ t.trap.orig = s.trap.orig ∧ t.ctl = s.ctl ∧
     (∀ p ∈ t.pend, p ∈ s.pend ∨ (p.eng = .s ∧ p.iss = s.clk.tape ∧ ((∃ r v, p.tgt = .sreg r v) ∨ (∃ r v, p.tgt = .creg r v) ∨
       (∃ r v, p.tgt = .breg r v) ∨ (∃ r k v, p.tgt = .mreg r k v) ∨ (p.tgt = .ssticky 4 ∧ ∃ d a b, (i = .div d a b ∨ i = .divu d a b ∨
         i = .rem d a b ∨ i = .remu d a b) ∧ s.sreg b.toNat = 0))))) ∧
  (∀ (k : Instr) (s t : State), laneForm k = true → exec k s = .next t →
     t.regs = s.regs ∧ samePackage s t ∧ t.rs.bytes = s.rs.bytes ∧ t.rs.views = s.rs.views ∧ t.sx = s.sx ∧ t.cm = s.cm ∧ t.cc = s.cc ∧
     t.cx = s.cx ∧ t.me = s.me ∧ t.dq = s.dq ∧ t.dpend = s.dpend ∧ t.cmp = s.cmp ∧ t.code = s.code ∧ t.grp = s.grp ∧
     { t.ctl with regsticky := s.ctl.regsticky } = s.ctl)

/-! ### S: memory -/

/-- R70, R310 to R312: a load of cluster SRAM that passes its checks waits for its bank, 6 cycles from its value in a near
bank and 14 in a far one.
R62, R83, R310 to R312: a load of an object answers from the slice line that holds it, or after the port's latency; where
its page is held it parks, and is tried again 64 cycles on; a port that holds 256 parked accesses makes it wait.
R107: with PendEn a load of a word of cluster SRAM with a write in flight traps with SHADOW_READ.
R67, R311, R313: a load that is not aligned, or fails its check, traps with the code of what is wrong and loads nothing; in
a run it reads zeros 14 cycles on and sets SAccMiss, and an access to cluster SRAM that passes asks its bank in its cycle. -/
def Obligations.Loads : Prop :=
  (∀ (s : State) (i : Instr) (d n : Nat) (sg : Bool) (c k : BitVec 4) (f : BitVec 13) (need : Nat),
     loadOf i = some (d, n, sg, c, k, f, need) → s.run.phase ≠ .running → s.shadow [.c c.toNat] = false →
     let q := s.creg c.toNat
     let o := smOff q f
     isSpad q = true → o % n = 0 → s.checkRead q need o n (some k.toNat) = .ok →
     ((s.pendEn && s.pendingSpad o.toNat n) = true → exec i s = .next (s.unblock.fault 0 0x002 q (BitVec.ofNat 64 o.toNat) 0)) ∧
     ((s.pendEn && s.pendingSpad o.toNat n) = false → exec i s = .next (s.loading ⟨s.sx.seq, d, n, sg, .sram o.toNat, k.toNat, q, o.toNat, s.clk.tape,
       if o.toNat / 65536 / 32 = s.coreJ then 6 else 14, none, none, false⟩))) ∧
  (∀ (s : State) (i : Instr) (d n : Nat) (sg : Bool) (c k : BitVec 4) (f : BitVec 13) (need : Nat),
     loadOf i = some (d, n, sg, c, k, f, need) → s.run.phase ≠ .running → s.shadow [.c c.toNat] = false →
     let q := s.creg c.toNat
     let o := smOff q f
     let l : LoadRec := ⟨s.sx.seq, d, n, sg, .obj (capObj q) o.toNat, k.toNat, q, o.toNat, s.clk.tape, 14, none, none, false⟩
     isSpad q = false → o % n = 0 →
     (s.checkRead q need o n (some k.toNat) = .ok → s.hitAtIssue k.toNat (capObj q) o.toNat = none →
       exec i s = .next ({ s with env := { s.env with delays := s.env.delays.tail } }.loading
         { l with due := some (s.clk.tape + 1 + s.readLat (capObj q) o.toNat + s.delay) })) ∧
     (∀ sl ln, s.checkRead q need o n (some k.toNat) = .ok → s.hitAtIssue k.toNat (capObj q) o.toNat = some (sl, ln) →
       exec i s = .next (((s.countLookup sl true).touch ln).loading
         { l with due := some (s.clk.tape + 14), data := some (ln.part o.toNat n) })) ∧
     (∀ p, s.checkRead q need o n (some k.toNat) = .park p → s.portFull p = true →
       exec i s = .next { s with sx := { s.sx with next := s.clk.tape + 1 } }) ∧
     (∀ p, s.checkRead q need o n (some k.toNat) = .park p → s.portFull p = false →
       ∃ t : State, exec i s = .next t ∧ t.sx.loads = s.sx.loads ++ [{ l with parked := true }] ∧ t.regs.s = s.regs.s ∧
         t.mem.parked = s.mem.parked ++ [⟨.load s.sx.seq, s.clk.tape + 64, 64, p⟩] ∧ t.mem.phys = s.mem.phys)) ∧
  (∀ (s : State) (i : Instr) (d n : Nat) (sg : Bool) (c k : BitVec 4) (f : BitVec 13) (need : Nat),
     loadOf i = some (d, n, sg, c, k, f, need) →
     let q := s.creg c.toNat
     let o := smOff q f
     (s.run.phase ≠ .running → s.shadow [.c c.toNat] = false → o % n ≠ 0 →
       exec i s = .next (s.fault 0 (if n = 16 then 0x081 else 0x200) q (BitVec.ofInt 64 o) 0)) ∧
     (∀ e, s.run.phase ≠ .running → s.shadow [.c c.toNat] = false → o % n = 0 → s.checkRead q need o n (some k.toNat) = .bad e →
       exec i s = .next (s.fault 0 e q (BitVec.ofInt 64 o) 0)) ∧
     (s.run.phase = .running → isSpad q = true → checkCap q need o n = none → o % n = 0 →
       let land := s.clk.tape + (if o.toNat / 65536 / 32 = s.coreJ then 6 else 14)
       exec i s = .next (s.asking s.clk.tape (16 * s.coreJ) o.toNat
         (if d < 32 then .readS d n sg land else .readC (d - 32) land))) ∧
     (s.run.phase = .running → isSpad q = false ∨ checkCap q need o n ≠ none ∨ o % n ≠ 0 →
       exec i s = .next ((s.accMiss 14).wrote 14 (if d < 32 then .sreg d 0 else .creg (d - 32) 0))))

/-- R94: a bank serves, of the requests that wait at it, the first that its pointer comes to, and the pointer goes past its number.
R94, R312, R482: a bank serves a waiting load with the bytes of its cycle; a load whose value is late lands, S goes on in
the next cycle, and no byte of memory changes.
R312, R339: a store that performs at a cluster address writes its bytes there and changes no other byte of any memory.
R312, R355: a store that performs at an object writes it at its point of coherence: where the detector checks it, it leaves its
signature there, or is refused with DET_CONFLICT and writes no byte; a slice line that holds its bytes takes it instead. -/
def Obligations.AccessesLand : Prop :=
  ((∀ (s : State) (w : Want), s.nextServed = some w →
     w ∈ s.wants ∧ s.bankFree w.bank = true ∧
     (∀ x ∈ s.wants, x.bank = w.bank → (w.num + 130 - tget 0 s.sram.rr w.bank % 130) % 130 ≤ (x.num + 130 - tget 0 s.sram.rr w.bank % 130) % 130) ∧
     exec .bankService s = .next ((s.serve w.bank w.num).grantWant w).leaveTurn ∧ tget 0 (s.serve w.bank w.num).sram.rr w.bank = (w.num + 1) % 130 ∧
     w.bank ∈ (s.serve w.bank w.num).sram.served) ∧
   (∀ (s : State) (n b : Nat) (l : LoadRec) (a : Nat), s.nextServed = some ⟨n, b, .load l a⟩ →
     s.bankCheck s.ctl.world (a / 65536) = none →
     ∃ t : State, exec .bankService s = .next t ∧ sameRegs s t ∧ t.mem = s.mem ∧ t.sram.bytes = s.sram.bytes ∧
       t.sx.loads = s.sx.loads.map (fun x => if x.seq = l.seq then
         { x with due := some (s.clk.tape + l.lat), data := some (s.spadRead a l.size) } else x)) ∧
   (∀ (s : State) (n b : Nat) (l : LoadRec) (a e : Nat), s.nextServed = some ⟨n, b, .load l a⟩ →
     s.bankCheck s.ctl.world (a / 65536) = some e →
     exec .bankService s = .next (((s.serve b n).dropLoad l.seq).raiseF
       ⟨s.clk.tape, e, 0, 0, l.cap, BitVec.ofNat 64 l.off, 0, false, false⟩).lookAgain.leaveTurn) ∧
   (∀ (s : State) (n b : Nat), s.nextServed = some ⟨n, b, .blk⟩ →
     ∃ t : State, exec .bankService s = .next t ∧ sameRegs s t ∧ sameBytes s t ∧ t.sx.next = s.clk.tape ∧
       t.sx.blk = s.sx.blk.map (fun x => { x with granted := true })) ∧
   (∀ (s : State) (n b : Nat) (r : StoreRec) (a : Nat), s.nextServed = some ⟨n, b, .store r a⟩ →
     s.bankCheck s.ctl.world (a / 65536) = none →
     ∃ t : State, exec .bankService s = .next t ∧ sameRegs s t ∧ t.mem = s.mem ∧ t.sram.bytes = s.sram.bytes ∧
       t.sx.stores = s.sx.stores.map (fun x => if x.seq = r.seq then { x with due := some s.clk.tape } else x)) ∧
   (∀ (s : State) (l : LoadRec) (b : List Byte), s.sx.loads.find? s.lateReady = some l →
     (l.data = some b ∨ l.data = none ∧ s.readBad l.cap l.off l.size (some l.cls) = false ∧
       ∃ id o, l.src = .obj id o ∧ s.sliceFor id = none ∧ b = s.objRead id o l.size) →
     s.sx.landed.any (fun x => x.1 = l.dst && l.at_ < x.2) = false → l.dst < 32 →
     ∃ t : State, exec .untimedLoadLands s = .next t ∧ sameBytes s t ∧ s.clk.tape + 1 ≤ t.sx.next ∧
       t.sx.loads = s.sx.loads.filter (fun x => x.seq ≠ l.seq) ∧
       t.sreg l.dst = (if l.dst = 0 then 0 else loadVal l.signed b) ∧ ∀ r, r ≠ l.dst → t.sreg r = s.sreg r) ∧
   (∀ (s : State) (l : LoadRec) (b : List Byte), s.sx.loads.find? s.lateReady = some l → l.data = some b →
     s.sx.landed.any (fun x => x.1 = l.dst && l.at_ < x.2) = false → 32 ≤ l.dst →
     ∃ t : State, exec .untimedLoadLands s = .next t ∧ sameBytes s t ∧
       t.creg (l.dst - 32) = BitVec.ofNat 128 (leNat b) ∧ (∀ r, r ≠ l.dst - 32 → t.creg r = s.creg r) ∧ t.regs.s = s.regs.s)) ∧
  (∀ (s : State) (r : StoreRec) (a : Nat), s.sx.stores.find? s.storeReady = some r → r.dest = .sram a →
     s.sx.stores.filter (fun x => x.seq = r.seq) = [r] →
     ∃ t : State, exec .storePerform s = .next t ∧ sameRegs s t ∧ t.mem = s.mem ∧ t.rs = s.rs ∧ t.tr = s.tr ∧
       t.sx.stores = s.sx.stores.filter (fun x => x.seq ≠ r.seq) ∧
       (∀ x, ¬ (s.spadKey a ≤ x ∧ x < s.spadKey a + r.bytes.length) → mread t.sram.bytes x = mread s.sram.bytes x) ∧
       (∀ j, j < r.bytes.length → mread t.sram.bytes (s.spadKey a + j) = nthD 0 r.bytes j)) ∧
  (∀ (s : State) (r : StoreRec) (id o : Nat), s.sx.stores.find? s.storeReady = some r → r.dest = .obj id o →
     s.sx.stores.filter (fun x => x.seq = r.seq) = [r] →
     let u := s.dropStore r.seq
     let words := wordMask o r.bytes.length
     let port := s.portAt id o
     let old := s.mem.sigs.find? (fun x => x.launch = s.ctl.launchNo && x.port = port && x.id = id && x.line = o / 128)
     (s.sliceFor id = none →
       (s.detects r.plain id = false → exec .storePerform s = .next (u.objWrite id o r.bytes).lookAgain) ∧
       (s.detects r.plain id = true →
         (old = none → exec .storePerform s = .next (((u.putSig ⟨port, id, o / 128, words, s.ctl.lcore, r.epoch, s.mem.sigOrder,
           s.ctl.launchNo⟩).objWrite id o r.bytes).lookAgain)) ∧
         (∀ g, old = some g →
           (g.epoch = r.epoch ∧ g.core ≠ s.ctl.lcore ∧ g.words &&& words ≠ 0 →
             exec .storePerform s = .next (u.fault 0 0x093 r.cap (BitVec.ofNat 64 (o / 128 * 128))
               (BitVec.ofNat 64 (g.core % 2 ^ 17 + g.epoch % 2 ^ 32 * 2 ^ 32))).lookAgain ∧
             (u.fault 0 0x093 r.cap (BitVec.ofNat 64 (o / 128 * 128))
               (BitVec.ofNat 64 (g.core % 2 ^ 17 + g.epoch % 2 ^ 32 * 2 ^ 32))).lookAgain.mem = s.mem) ∧
           (g.epoch < r.epoch → exec .storePerform s = .next (((u.putSig ⟨port, id, o / 128, words, s.ctl.lcore, r.epoch,
             s.mem.sigOrder, s.ctl.launchNo⟩).objWrite id o r.bytes).lookAgain)) ∧
           (g.epoch = r.epoch ∧ g.core = s.ctl.lcore → exec .storePerform s = .next (((u.putSig { g with
             words := g.words ||| words, order := s.mem.sigOrder }).objWrite id o r.bytes).lookAgain))))) ∧
     (∀ sl l, s.sliceFor id = some sl → s.lineAt sl id o = some l → r.bypass = false →
       exec .storePerform s = .next ((u.countLookup sl true).touch (l.with o r.seq r.mask r.bytes
         (if s.detects r.plain id = true then some r.epoch else none))).lookAgain ∧
       ((u.countLookup sl true).touch (l.with o r.seq r.mask r.bytes
         (if s.detects r.plain id = true then some r.epoch else none))).lookAgain.mem = s.mem))

/-- R70, R310 to R313: STB, STH, STW, STD and STC complete by posting: a store that passes its checks goes into the store queue, or
parks there, and S goes on; a full queue holds S; in a run it
asks its bank 6 or 14 cycles on, or writes nothing and sets SAccMiss. No byte of memory changes in the step of its issue.
R314, R315: STS posts a store that nothing orders; STCB merges its bytes into a combining line, or, where it needs a ninth, holds S
until the oldest has left and performed; neither changes a byte of memory in the step of its issue. -/
def Obligations.Stores : Prop :=
  (∀ (s : State) (i : Instr) (x : RegRef) (b : List Byte) (c k : BitVec 4) (f : BitVec 13) (need : Nat),
     storeOf s i = some (x, b, c, k, f, need) →
     let q := s.creg c.toNat
     let o := smOff q f
     let n : Int := b.length
     let r : StoreRec := ⟨s.sx.seq, destOf q o.toNat, b, k.toNat, BitVec.ofNat 16 (2 ^ k.toNat), q, o.toNat, false, false, true, s.sx.epoch,
       s.clk.tape, none, false⟩
     (s.run.phase ≠ .running → s.shadow [.c c.toNat, x] = false →
       (o % n = 0 → s.check q need o b.length = .ok → s.sx.stores.length < 16 →
         (isSpad q = true → exec i s = .next (s.storing r)) ∧
         (isSpad q = false → exec i s = .next ({ s with env := { s.env with delays := s.env.delays.tail } }.storing
           { r with due := some (s.clk.tape + 1 + s.writeLat (capObj q) o.toNat + s.delay) }))) ∧
       (∀ p, o % n = 0 → s.check q need o b.length = .park p → isSpad q = false → s.sx.stores.length < 16 → s.portFull p = false →
         ∃ t : State, exec i s = .next t ∧ t.sx.stores = s.sx.stores ++ [{ r with parked := true }] ∧
           t.mem.parked = s.mem.parked ++ [⟨.store s.sx.seq, s.clk.tape + 64, 64, p⟩]) ∧
       (o % n = 0 → s.check q need o b.length = .ok → 16 ≤ s.sx.stores.length →
         exec i s = .next { s with sx := { s.sx with next := s.clk.tape + 1 } }) ∧
       (o % n ≠ 0 → exec i s = .next (s.fault 0 (if b.length = 16 then 0x081 else 0x200) q (BitVec.ofInt 64 o) 0)) ∧
       (∀ e, o % n = 0 → s.check q need o b.length = .bad e → exec i s = .next (s.fault 0 e q (BitVec.ofInt 64 o) 0))) ∧
     (s.run.phase = .running →
       (isSpad q = true ∧ checkCap q need o b.length = none ∧ o % n = 0 →
         exec i s = .next (s.asking (s.clk.tape + (if o.toNat / 65536 / 32 = s.coreJ then 6 else 14)) (16 * s.coreJ) o.toNat (.write b))) ∧
       (¬ (isSpad q = true ∧ checkCap q need o b.length = none ∧ o % n = 0) → exec i s = .next (s.accMiss 14).past)) ∧
     (∀ t, exec i s = .next t → sameBytes s t ∧ sameRegs s t)) ∧
  (∀ (s : State) (d b : BitVec 5) (a c : BitVec 4) (z : BitVec 2), s.shadow [.c a.toNat, .s b.toNat, .s d.toNat] = false →
     let q := s.creg a.toNat
     let o : Nat := capLower q + (s.sreg b.toNat).toNat % 2 ^ 48
     let v := leBytes (2 ^ z.toNat) (s.sreg d.toNat).toNat
     o % 2 ^ z.toNat = 0 → s.check q 2 o (2 ^ z.toNat) = .ok →
     (s.sx.stores.length < 16 → isSpad q = true →
       exec (.sts d a b c z) s = .next (s.storing ⟨s.sx.seq, .sram o, v, c.toNat, BitVec.ofNat 16 (2 ^ c.toNat), q, o, true, true, true,
         s.sx.epoch, s.clk.tape, none, false⟩)) ∧
     (s.sx.stores.length < 16 → isSpad q = false →
       exec (.sts d a b c z) s = .next ({ s with env := { s.env with delays := s.env.delays.tail } }.storing
         ⟨s.sx.seq, .obj (capObj q) o, v, c.toNat, BitVec.ofNat 16 (2 ^ c.toNat), q, o, true, true, true,
         s.sx.epoch, s.clk.tape, some (s.clk.tape + 1 + s.writeLat (capObj q) o + s.delay), false⟩)) ∧
     (s.combFull q o = false → ∃ t : State, exec (.stcb d a b c z) s = .next t ∧ sameBytes s t ∧ t.regs.s = s.regs.s ∧
       ∃ l ∈ t.sx.comb, l.holds (destOf q o) = true ∧ ∀ j, j < 2 ^ z.toNat → (o + j, nthD 0 v j) ∈ l.cells) ∧
     (s.combFull q o = true → ∃ t : State, exec (.stcb d a b c z) s = .next t ∧ sameBytes s t ∧ t.regs = s.regs ∧
       t.sx.next = s.clk.tape + 1 ∧ (s.leavingLines ≠ 0 → t.sx.comb = s.sx.comb) ∧
       (s.leavingLines = 0 → ∀ l ls, s.sx.comb = l :: ls → t = (s.drainLine l).retry)))

/-- R301, R314, R316: a form that holds S captures its operands at its issue; LDAQ and AMO complete when their latency has run and
their bank has served them, or at their port: the old value goes to the register, and AMO writes the new one in the same step.
R315, R317: STRL completes by posting: it posts its store once every access it covers has performed; FENCE goes on once every class of its mask has;
SLWB and SLINV act on the slice that SLICESEL names, and with none selected only go on. -/
def Obligations.BlockingAccess : Prop :=
  (∀ (s : State) (d b : BitVec 5) (a c : BitVec 4) (p : BitVec 3) (z : BitVec 2) (r : BitVec 2) (w : BitVec 1) (op : BitVec 4),
     let q := s.creg a.toNat
     let o : Nat := capLower q + (s.sreg b.toNat).toNat % 2 ^ 48
     let n := if w = 1 then 8 else 4
     let lat (i m : Nat) : Nat := if isSpad q = true then (if o / 65536 / 32 = s.coreJ then 6 else 14) else 1 + s.readLat i m + s.delay
     let captured (x y : W64) (n need : Nat) : State := { s with
         env := { s.env with delays := s.env.delays.tail }
         sx := { s.sx with next := s.clk.tape + 1, blk := some ⟨x, y, BitVec.ofNat 64 o, s.sreg b.toNat, q, s.clk.tape,
           s.clk.tape + lat (capObj q) o, n, need, false, false, false, false⟩ } }
     (s.sx.blk = none → s.shadow [.c a.toNat, .s b.toNat] = false → o % 2 ^ z.toNat = 0 →
       s.checkRead q 1 o (2 ^ z.toNat) (some c.toNat) = .ok → (s.pendEn && isSpad q && s.pendingSpad o (2 ^ z.toNat)) = false →
       exec (.ldaq d a b c p z) s = .next (captured 0 0 (2 ^ z.toNat) 1)) ∧
     (s.sx.blk = none → s.shadow [.c a.toNat, .s b.toNat, .s d.toNat, .s (d.toNat + 1)] = false →
       r.toNat < 2 ∨ s.sx.comb = [] → o % n = 0 →
       s.checkRead q 7 o n none = .ok → (s.pendEn && isSpad q && s.pendingSpad o n) = false →
       exec (.amo d a b c r w op) s = .next (captured (s.sreg d.toNat) (s.sreg (d.toNat + 1)) n 7)) ∧
     (∀ x, s.sx.blk = some x → s.clk.tape < x.ready ∨ x.parked = true →
       exec (.ldaq d a b c p z) s = .next { s with sx := { s.sx with next := s.clk.tape + 1 } } ∧
       exec (.amo d a b c r w op) s = .next { s with sx := { s.sx with next := s.clk.tape + 1 } }) ∧
     (∀ x, s.sx.blk = some x → x.ready ≤ s.clk.tape → x.parked = false → s.classFree c.toNat s.sx.seq = true →
       isSpad x.cap = true → x.granted = false →
       r.toNat < 2 ∨ s.drained (x.b.toNat / 2 ^ 48 ||| 2 ^ c.toNat) x.at_ = true →
       exec (.ldaq d a b c p z) s = .next { s with sx := { s.sx with next := s.clk.tape + 1, blk := some { x with ask := true } } } ∧
       exec (.amo d a b c r w op) s = .next { s with sx := { s.sx with next := s.clk.tape + 1, blk := some { x with ask := true } } }) ∧
     (∀ x, s.sx.blk = some x → x.ready ≤ s.clk.tape → x.parked = false → s.classFree c.toNat s.sx.seq = true →
       isSpad x.cap = false → s.sliceFor (capObj x.cap) = none →
       (s.checkRead x.cap 1 x.a.toNat (2 ^ z.toNat) (some c.toNat) = .ok →
         ∃ t : State, exec (.ldaq d a b c p z) s = .next t ∧ sameBytes s t ∧ sameRegs s t ∧ t.pend = s.pend ++ [⟨s.clk.tape + 1, .s,
           .sreg d.toNat (BitVec.ofNat 64 (leNat (s.objRead (capObj x.cap) x.a.toNat (2 ^ z.toNat)))), s.clk.tape⟩]) ∧
       (r.toNat < 2 ∨ s.drained (x.b.toNat / 2 ^ 48 ||| 2 ^ c.toNat) x.at_ = true ∧ bitsOf s.ctl.slicesel.toNat 2 1 = 0 →
         s.checkRead x.cap 7 x.a.toNat n none = .ok →
         let old := leNat (s.objRead (capObj x.cap) x.a.toNat n)
         ∃ t : State, exec (.amo d a b c r w op) s = .next t ∧ sameRegs s t ∧ t.sram = s.sram ∧
           t.pend = s.pend ++ [⟨s.clk.tape + 1, .s, .sreg d.toNat (BitVec.ofNat 64 old), s.clk.tape⟩] ∧
           t.mem = (s.objWrite (capObj x.cap) x.a.toNat
             (leBytes n (amoOp op.toNat (8 * n) old (x.d.toNat % 2 ^ (8 * n)) (x.d1.toNat % 2 ^ (8 * n))))).mem)) ∧
     (∀ x, s.sx.blk = some x → x.ready ≤ s.clk.tape → x.parked = false → s.classFree c.toNat s.sx.seq = true → isSpad x.cap = true →
       x.granted = true → s.bankCheck s.ctl.world (x.a.toNat / 65536) = none →
       (∃ t : State, exec (.ldaq d a b c p z) s = .next t ∧ sameBytes s t ∧ sameRegs s t ∧
         t.pend = s.pend ++ [⟨s.clk.tape + 1, .s, .sreg d.toNat (BitVec.ofNat 64 (leNat (s.spadRead x.a.toNat (2 ^ z.toNat)))), s.clk.tape⟩]) ∧
       (r.toNat < 2 ∨ s.drained (x.b.toNat / 2 ^ 48 ||| 2 ^ c.toNat) x.at_ = true →
         let old := leNat (s.spadRead x.a.toNat n)
         ∃ t : State, exec (.amo d a b c r w op) s = .next t ∧ sameRegs s t ∧ t.mem = s.mem ∧
           t.pend = s.pend ++ [⟨s.clk.tape + 1, .s, .sreg d.toNat (BitVec.ofNat 64 old), s.clk.tape⟩] ∧
           t.sram.bytes = mwriteN s.sram.bytes (s.spadKey x.a.toNat)
             (leBytes n (amoOp op.toNat (8 * n) old (x.d.toNat % 2 ^ (8 * n)) (x.d1.toNat % 2 ^ (8 * n))))))) ∧
  (∀ (s : State) (a : BitVec 5) (p : BitVec 4),
     let m := (s.sreg a.toNat).toNat % 2 ^ 16
     let u := s.flushComb m
     (s.shadow [.s a.toNat] = false → s.sx.blk = none →
       (u.drained m s.clk.tape = true → exec (.fence a p) s = .next (if 2 ≤ p.toNat then u.releaseLines m else u).past) ∧
       (u.drained m s.clk.tape = false → exec (.fence a p) s = .next { u with sx := { u.sx with
         next := s.clk.tape + 1, blk := some ⟨BitVec.ofNat 64 m, 0, 0, 0, 0, s.clk.tape, s.clk.tape, 0, 0, false, false, false, false⟩ } })) ∧
     (∀ x, s.sx.blk = some x →
       (s.drained x.d.toNat x.at_ = true → exec (.fence a p) s = .next (if 2 ≤ p.toNat then s.releaseLines x.d.toNat else s).past) ∧
       (s.drained x.d.toNat x.at_ = false → exec (.fence a p) s = .next { s with sx := { s.sx with next := s.clk.tape + 1 } })) ∧
     (bitsOf s.ctl.slicesel.toNat 2 1 = 0 → exec .slwb s = .next s.past ∧ exec .slinv s = .next s.past) ∧
     (bitsOf s.ctl.slicesel.toNat 2 1 = 1 →
       exec .slwb s = .next (s.cleanLines s.selected).past ∧
       exec .slinv s = .next ((s.cleanLines s.selected).dropLines (fun l => s.selected l && l.tenant = s.tenant)).past) ∧
     (∀ (x : Blk) (d b : BitVec 5) (e c : BitVec 4) (pp : BitVec 3) (z : BitVec 2),
       let o : Nat := capLower (s.creg e.toNat) + (s.sreg b.toNat).toNat % 2 ^ 48
       let v := s.flushComb ((s.sreg b.toNat).toNat / 2 ^ 48 ||| 2 ^ c.toNat)
       let y : Blk := ⟨s.sreg d.toNat, 0, BitVec.ofNat 64 o, s.sreg b.toNat, s.creg e.toNat, s.clk.tape, s.clk.tape, 0, 0, false, false, false, false⟩
       let u := if 2 ≤ pp.toNat then s.releaseLines (x.b.toNat / 2 ^ 48 ||| 2 ^ c.toNat) else s
       (s.sx.blk = none → s.shadow [.c e.toNat, .s b.toNat, .s d.toNat] = false → o % 2 ^ z.toNat = 0 →
         s.check (s.creg e.toNat) 2 o (2 ^ z.toNat) = .ok →
         exec (.strl d e b c pp z) s = .next { v with sx := { v.sx with next := s.clk.tape + 1, blk := some y } }) ∧
       (s.sx.blk = some x → s.drained (x.b.toNat / 2 ^ 48 ||| 2 ^ c.toNat) x.at_ = true → s.sx.stores.length < 16 →
         u.check x.cap 2 x.a.toNat (2 ^ z.toNat) = .ok →
         (isSpad x.cap = true →
           exec (.strl d e b c pp z) s = .next (u.storing ⟨s.sx.seq, .sram x.a.toNat, leBytes (2 ^ z.toNat) x.d.toNat, c.toNat,
             BitVec.ofNat 16 (2 ^ c.toNat), x.cap, x.a.toNat, false, false, false, s.sx.epoch, s.clk.tape, none, false⟩)) ∧
         (isSpad x.cap = false →
           exec (.strl d e b c pp z) s = .next ({ u with env := { u.env with delays := u.env.delays.tail } }.storing
             ⟨s.sx.seq, .obj (capObj x.cap) x.a.toNat, leBytes (2 ^ z.toNat) x.d.toNat, c.toNat,
             BitVec.ofNat 16 (2 ^ c.toNat), x.cap, x.a.toNat, false, false, false, s.sx.epoch, s.clk.tape,
             some (s.clk.tape + 1 + u.writeLat (capObj x.cap) x.a.toNat + u.delay), false⟩)))))

/-! ### S: control -/

/-- R318 to R320: PBR names a target four times its immediate away; BR goes to its b register where its condition holds, with a
return address where it links; LOOPEND counts down, turns the views, and goes back while passes are left.
R196: a turn moves every rotating base by its step, modulo its span, and changes no byte of the register space. -/
def Obligations.Branches : Prop :=
  (∀ (s : State) (d a : BitVec 5) (k : BitVec 2) (im : BitVec 24) (l : BitVec 1) (c : BitVec 3),
     let x := (s.sreg a.toNat).toInt
     let n := s.sreg d.toNat
     let goes (u : State) : State := { u with
       regs := { u.regs with pc := s.breg k.toNat }
       sx := { u.sx with next := s.clk.tape + 1, blk := none, safe := none } }
     let linked := { s with pend := s.pend ++ [(⟨s.clk.tape + 1, .s, .sreg d.toNat (s.regs.pc + 4), s.clk.tape⟩ : Pend)] }
     let holds : Prop := c.toNat = 0 ∨ c.toNat = 1 ∧ x = 0 ∨ c.toNat = 2 ∧ x ≠ 0 ∨ c.toNat = 3 ∧ x < 0 ∨ c.toNat = 4 ∧ 0 ≤ x ∨
       c.toNat = 5 ∧ 0 < x ∨ c.toNat = 6 ∧ x ≤ 0
     exec (.pbr k im) s = .next (s.wrote 3 (.breg k.toNat (BitVec.ofInt 64 (s.regs.pc.toNat + 4 * im.toInt)))) ∧
     (s.shadow [.s a.toNat, .b k.toNat] = false → c.toNat < 7 →
       (holds → exec (.br d a k l c) s = .next (goes (if l = 1 then linked else s))) ∧
       (¬ holds → exec (.br d a k l c) s = .next s.past)) ∧
     (s.shadow [.s d.toNat, .b k.toNat] = false →
       (n.toNat ≤ 1 → exec (.loopend d k) s = .next (s.rotate.wrote 1 (.sreg d.toNat 0))) ∧
       (1 < n.toNat → exec (.loopend d k) s = .next (goes { s.rotate with
         pend := s.pend ++ [(⟨s.clk.tape + 1, .s, .sreg d.toNat (n - 1), s.clk.tape⟩ : Pend)] })))) ∧
  (∀ (s : State) (w : Nat), w < 8 →
     (s.rotate.view w).rot = ((s.view w).rot + (s.view w).rotStep) % (s.view w).span ∧
     { s.rotate.view w with rot := 0 } = { s.view w with rot := 0 } ∧ s.rotate.rs.bytes = s.rs.bytes ∧ s.rotate.regs = s.regs)

/-- R321, R322, R326, R360: tokens, counters and the tape, as S reads, writes and waits for them.
R301, R321 to R323, R326: a wait that is met ends, and S goes on in the next cycle; one whose bound has elapsed before that
traps with WAIT_BOUND and what it waited for, and its instruction counts as not issued. -/
def Obligations.Waits : Prop :=
  (∀ (s : State) (d a b : BitVec 5) (t : BitVec 8),
     let hold (h : Hold) : State := { s with sx := { s.sx with hold := h, next := s.clk.tape + 1 } }
     let i := (s.sreg a.toNat).toNat
     let part := (tget 0 s.fab.dcPart s.ctl.vi).toNat
     let base := part % 2 ^ 12
     let cnt := part / 2 ^ 12 % 2 ^ 13
     exec (.tkiss d t) s = .next (s.wrote 1 (.sreg d.toNat (BitVec.ofNat 64 (tget 0 s.iss t.toNat).toNat))) ∧
     exec (.tkcmp d t) s = .next (s.wrote 1 (.sreg d.toNat (BitVec.ofNat 64 (tget 0 s.cmp t.toNat).toNat))) ∧
     exec (.tread d) s = .next (s.wrote 1 (.sreg d.toNat (BitVec.ofNat 64 s.clk.tape))) ∧
     (let u := s.flushComb 0xFFFF
      exec (.tksig t) s = .next { u with
       iss := tset 0 s.iss t.toNat (tget 0 s.iss t.toNat + 1)
       sx := { u.sx with sigs := s.sx.sigs ++ [(t.toNat, tget 0 s.iss t.toNat + 1, s.sx.seq)] } }.past) ∧
     (s.shadow [.s a.toNat] = false →
       exec (.tkwait a t) s = .next (hold (.token t.toNat (tget 0 s.iss t.toNat) s.clk.tape (i % 2 ^ 32))) ∧
       exec (.tuntil a) s = .next (hold (.tape i)) ∧
       (i < cnt → base + i < 4096 →
         exec (.cread d a) s = .next (s.wrote 1 (.sreg d.toNat (tget 0 s.fab.counters (base + i))))) ∧
       (¬ (i < cnt ∧ base + i < 4096) → exec (.cread d a) s = .next (if s.run.phase = .running then (s.accMiss 1).wrote 1 (.sreg d.toNat 0)
         else s.fault 0 0x0C5 0 (s.sreg a.toNat) 0))) ∧
     (s.shadow [.s d.toNat, .s a.toNat, .s b.toNat] = false → ¬ (i < cnt ∧ base + i < 4096) →
       exec (.cwait d a b) s = .next (s.fault 0 0x0C5 0 (s.sreg a.toNat) 0) ∧
       exec (.cwrite a b) s = .next (s.fault 0 0x0C5 0 (s.sreg a.toNat) 0)) ∧
     (s.shadow [.s d.toNat, .s a.toNat, .s b.toNat] = false → i < cnt → base + i < 4096 →
       exec (.cwait d a b) s = .next (hold (.counter (base + i) i (s.sreg b.toNat) s.clk.tape ((s.sreg d.toNat).toNat % 2 ^ 32)))) ∧
     (s.shadow [.s a.toNat, .s b.toNat] = false → i < cnt → base + i < 4096 →
       exec (.cwrite a b) s = .next { s with fab := { s.fab with
         counters := tset 0 s.fab.counters (base + i) (s.sreg b.toNat) } }.past)) ∧
  (∀ (s : State) (k n a b : Nat) (need : W32) (v : W64),
     let go (i : Instr) : Prop := ∃ t : State, exec i s = .next t ∧ t.sx.hold = .no ∧ sameBytes s t ∧ t.regs.s = s.regs.s ∧
       (s.run.phase ≠ .running → t.sx.next = s.clk.tape + 1 ∧ t.regs.pc = s.regs.pc + 4)
     let bounded (i : Nat) : Prop := ∃ t : State, exec .waitBound s = .next t ∧ sameRegs s t ∧ sameBytes s t ∧ t.regs.pc = s.regs.pc ∧
       (s.run.phase = .off ∨ (∃ g x y r q, s.sx.hold = .seam g x y r (some q)) → s.trap.stop = none → t.sx.hold = .no ∧
         t.trap.stop = some ⟨s.clk.tape, 0x201, 0, 0, 0, 0, BitVec.ofNat 64 i, false, true⟩)
     (s.sx.hold = .token k need a b →
       ((tget 0 s.cmp k - need).toNat < 2 ^ 31 → go .tokenWaitMet) ∧
       (2 ^ 31 ≤ (tget 0 s.cmp k - need).toNat → 0 < b → a + b ≤ s.clk.tape → bounded k)) ∧
     (s.sx.hold = .counter k n v a b →
       (v.toNat ≤ (tget 0 s.fab.counters k).toNat → go .counterWaitMet) ∧
       ((tget 0 s.fab.counters k).toNat < v.toNat → 0 < b → a + b ≤ s.clk.tape → bounded n)) ∧
     (s.sx.hold = .tape n → n ≤ s.clk.tape + 1 → go .tapeWaitMet) ∧
     (∀ r q, s.sx.hold = .seam k a b r q → s.seamMet k = false → 0 < b → a + b ≤ s.clk.tape → bounded k))

/-- R324, R325: the forms that set a chain up, publish its tail, read it and stop it; a window or a start that breaks its rules traps
with CHAIN_WINDOW, a form in a handler with ILL_CONTEXT. -/
def Obligations.ChainForms : Prop :=
  ∀ (s : State) (x : BitVec 4) (d a b : BitVec 5) (e : BitVec 2), 1 ≤ e.toNat → e.toNat ≤ 3 →
    let g := engOf e.toNat
    let c := s.chain g
    let k := s.creg x.toNat
    let v := (s.sreg a.toNat).toNat
    (g = if e = 1 then .v else if e = 2 then .m else .c) ∧
    (s.trap.handler = false → s.shadow [.c x.toNat] = false → c.st = 0 → isSpad k = true → capRights k % 2 = 1 →
      capLower k % 16 = 0 → capUpper k % 16 = 0 → capLower k < capUpper k →
      exec (.chwin x e) s = .next (s.setChain g { c with win := k }).past) ∧
    (s.trap.handler = false → s.shadow [.c x.toNat] = false → c.st = 0 → isSpad k = false ∨ capRights k % 2 = 0 ∨
      capLower k % 16 ≠ 0 ∨ capUpper k % 16 ≠ 0 ∨ capUpper k ≤ capLower k → exec (.chwin x e) s = .next (s.unblock.fault 0 0x0CA 0 0 0)) ∧
    (s.trap.handler = false → s.shadow [.s a.toNat, .s b.toNat] = false → c.st = 0 → v % 16 ≠ 0 ∨ capUpper c.win ≤ capLower c.win + v →
      exec (.chhead a b e) s = .next (s.unblock.fault 0 0x0CA 0 0 0)) ∧
    (s.trap.handler = true → s.sx.blk = none → exec (.chtail a e) s = .next (s.unblock.fault 0 0x045 0 0 0)) ∧
    (s.trap.handler = false → s.shadow [.s a.toNat, .s b.toNat] = false → c.st = 0 → v % 16 = 0 → capLower c.win + v < capUpper c.win →
      exec (.chhead a b e) s = .next (s.setChain g { c with
        pos := v, e := (s.sreg b.toNat).toNat % 2 ^ 24, t := (s.sreg b.toNat).toNat % 2 ^ 24, st := 1, loops := [], cur := none
        after := none, next := s.clk.tape + 1, base := c.ids }).past) ∧
    (let u := s.flushSpad
     let ahead (v : Nat) : Nat := (v % 2 ^ 24 + 2 ^ 24 - c.e) % 2 ^ 24
     let set (u : State) (v : Nat) : State := (u.setChain g { u.chain g with
       t := v % 2 ^ 24, st := if c.st ≠ 1 ∧ c.st ≠ 2 then c.st else if (0 < ahead v ∧ ahead v ≤ 2 ^ 23) ∨ c.cur ≠ none then 2 else 1 }).past
     (s.trap.handler = false → s.shadow [.s a.toNat] = false → s.sx.blk = none →
       (u.spadDrained = true → exec (.chtail a e) s = .next (set u v)) ∧
       (u.spadDrained = false → exec (.chtail a e) s = .next { u with sx := { u.sx with
         next := s.clk.tape + 1, blk := some ⟨s.sreg a.toNat, 0, 0, 0, 0, s.clk.tape, s.clk.tape, 0, 0, false, false, false, false⟩ } })) ∧
     (∀ y, s.sx.blk = some y →
       (s.spadDrained = true → exec (.chtail a e) s = .next (set s y.d.toNat)) ∧
       (s.spadDrained = false → exec (.chtail a e) s = .next { s with sx := { s.sx with next := s.clk.tape + 1 } }))) ∧
    (exec (.chstat d 0 e) s = .next (s.wrote 1 (.sreg d.toNat (BitVec.ofNat 64 c.e))) ∧
     exec (.chstat d 1 e) s = .next (s.wrote 1 (.sreg d.toNat (BitVec.ofNat 64 c.t))) ∧
     exec (.chstat d 2 e) s = .next (s.wrote 1 (.sreg d.toNat (BitVec.ofNat 64 c.pos))) ∧
     exec (.chstat d 3 e) s = .next (s.wrote 1 (.sreg d.toNat (BitVec.ofNat 64 c.st)))) ∧
    let q := if e = 3 then s.unask else s
    (s.trap.handler = false → c.st ≠ 0 → c.cmds = [] →
      exec (.chstop e) s = .next (q.setChain g { c with
        cur := none, st := 0, prev := 0, stopping := false, loops := [], after := none }).past) ∧
    (s.trap.handler = false → c.st ≠ 0 → c.cmds ≠ [] →
      exec (.chstop e) s = .next (q.setChain g { c with cur := none, stopping := true }).past) ∧
    (s.trap.handler = false → c.st = 0 → exec (.chstop e) s = .next s.past) ∧
    (s.trap.handler = true → ∀ i ∈ [Instr.chwin x e, .chhead a b e, .chstop e], exec i s = .next (s.unblock.fault 0 0x045 0 0 0)) ∧
    (s.trap.handler = false → c.st ≠ 0 → s.shadow [.c x.toNat] = false → s.shadow [.s a.toNat, .s b.toNat] = false →
      exec (.chwin x e) s = .next (s.unblock.fault 0 0x202 0 0 0) ∧ exec (.chhead a b e) s = .next (s.unblock.fault 0 0x202 0 0 0))

/-- R332, R402, R404, R405: TRAP raises its code and counts as issued; TRET gives s29 to s31 back and goes on at s31; EXIT
holds S for good, and inside a handler leaves it, the chain engines idle. -/
def Obligations.TrapTretExit : Prop :=
  ∀ (s : State) (n : BitVec 6),
    exec (.trap n) s = .next (s.past.fault 0 (0x240 + n.toNat) 0 0 0) ∧
    (s.trap.handler = false → exec .tret s = .next (s.unblock.fault 0 0x045 0 0 0)) ∧
    (s.trap.handler = true → s.shadow [.s 31] = false → ∃ t : State, exec .tret s = .next t ∧
      t.regs = { s.regs with pc := s.sreg 31 } ∧ t.trap.handler = false ∧ t.trap.chainsOff = false ∧ t.sx.next = s.clk.tape + 1 ∧
      t.pend = s.pend ++ [⟨s.clk.tape + 1, .s, .sreg 29 (nthD 0 s.trap.orig 0), s.clk.tape⟩,
        ⟨s.clk.tape + 1, .s, .sreg 30 (nthD 0 s.trap.orig 1), s.clk.tape⟩, ⟨s.clk.tape + 1, .s, .sreg 31 (nthD 0 s.trap.orig 2), s.clk.tape⟩] ∧ sameBytes s t ∧ t.cv = s.cv ∧ t.cm = s.cm ∧ t.cc = s.cc) ∧
    (∃ t : State, exec .exit s = .next t ∧ t.sx.hold = .exit ∧ t.regs = s.regs ∧ sameBytes s t ∧ t.trap.handler = false ∧
      (s.trap.handler = true → t.cv.st = 0 ∧ t.cm.st = 0 ∧ t.cc.st = 0) ∧
      (s.trap.handler = false → t.cv = s.cv ∧ t.cm = s.cm ∧ t.cc = s.cc))

/-- R30, R53, R65: a PC outside the text traps with CODE_BOUND, a word that holds an uncorrectable error with MEM_UNCORR, a word that is no instruction of S with its code of R28; nothing else
changes.
R397, R398: a fault outside a run stops the core and writes no register and no memory; the first in the order S, V, M, C
within one cycle takes the frame, and the next is Second. Inside a run it fails the run (R369).
R397, R399, R404, R406: once the drain is over the frame is recorded. A code that the handler takes, with an entry and no
handler running, enters it: s29 holds the offset, s30 the codes and flags, s31 the PC, the originals are held, S goes to text
offset 0, and V, M and C stay stopped; any other ends the launch and the core is off. -/
def Obligations.Exceptions : Prop :=
  (∀ (s : State) (w c : Nat),
     ((s.regs.pc.toNat < capLower s.code.cap ∨ capUpper s.code.cap < s.regs.pc.toNat + 4) →
       exec .illegalWord s = .next (s.unblock.fault 0 0x001 0 0 0)) ∧
     (capLower s.code.cap ≤ s.regs.pc.toNat → s.regs.pc.toNat + 4 ≤ capUpper s.code.cap →
       s.badObj (capObj s.code.cap) (s.code.textOff + s.regs.pc.toNat) 4 = true →
       exec .illegalWord s = .next (s.unblock.fault 0 0x08D 0 0 0)) ∧
     (s.fetchS = .ok w → decodeFor .s w = .error c → exec .illegalWord s = .next (s.unblock.fault 0 c 0 0 0))) ∧
  (∀ (s : State) (src cause : Nat) (cap : Cap) (off info : W64),
     let t := s.fault src cause cap off info
     let f : FaultRec := ⟨s.clk.tape, cause, 0, src, cap, off, info, false, true⟩
     t.regs = s.regs ∧ t.pend = s.pend ∧ t.mem = s.mem ∧ t.sram = s.sram ∧ t.ctl = s.ctl ∧ t.rs = s.rs ∧
     (s.run.phase = .off → s.trap.stop = none → t.trap = { s.trap with stop := some f }) ∧
     (∀ g, s.trap.stop = some g →
       (g.at_ = s.clk.tape → src < g.src →
         t.trap = { s.trap with stop := some f, multi := true, second := g.cause, secondOf := (g.at_, g.src) }) ∧
       (g.at_ ≠ s.clk.tape ∨ g.src ≤ src →
         (s.trap.multi = false ∨ s.trap.secondOf.1 = s.clk.tape ∧ src < s.trap.secondOf.2 →
           t.trap = { s.trap with multi := true, second := cause, secondOf := (s.clk.tape, src) }) ∧
         (s.trap.multi = true → s.trap.secondOf.1 ≠ s.clk.tape ∨ s.trap.secondOf.2 ≤ src → t.trap = s.trap))) ∧
     (s.run.phase ≠ .off → s.trap.stop = none → s.run.fail = none → t.run.fail = some f ∧ t.trap = s.trap)) ∧
  (∀ (s : State) (f : FaultRec), s.trap.ready = true → s.trap.stop = some f → s.run.phase = .off → s.sx.hold = .no →
     f.cause ≠ 0x280 → f.src ≠ 4 →
     (handlerCode f.cause = true → 4 ≤ s.code.entryOff → s.trap.handler = false →
       ∃ t : State, exec .coreStopRecord s = .next t ∧ t.regs.pc = 0 ∧ t.sreg 29 = f.off ∧ t.sreg 31 = s.regs.pc ∧
         (∃ fr : Frame, t.trap.frame = some fr ∧ fr.fault.cause = f.cause ∧ fr.fault.at_ = f.at_ ∧ fr.sPos = s.regs.pc ∧
           fr.second = s.trap.second ∧ fr.multi = s.trap.multi ∧ fr.inHandler = false ∧ fr.fault.inRun = f.inRun ∧
           t.sreg 30 = BitVec.ofNat 64 (f.cause % 1024 + f.under % 1024 * 2 ^ 16 + f.src * 2 ^ 32 +
             ((if fr.fault.restartable then 1 else 0) + (if f.inRun then 2 else 0) + (if s.trap.multi then 8 else 0)) * 2 ^ 40)) ∧
         (∀ r, r < 29 → t.sreg r = s.sreg r) ∧ t.regs.c = s.regs.c ∧ t.regs.b = s.regs.b ∧
         t.regs.m = s.regs.m ∧ t.trap.orig = [s.sreg 29, s.sreg 30, s.sreg 31] ∧ t.trap.handler = true ∧ t.trap.chainsOff = true ∧
         t.trap.stop = none ∧ t.sx.next = s.clk.tape + 1 ∧ t.sx.on = s.sx.on ∧ sameBytes s t ∧ t.ctl = s.ctl) ∧
     (handlerCode f.cause = false ∨ s.code.entryOff < 4 ∨ s.trap.handler = true →
       ∃ t : State, exec .coreStopRecord s = .next t ∧ t.regs = s.regs ∧ t.sx.on = false ∧ t.trap.handler = false ∧ sameBytes s t ∧
         ∀ l ∈ s.fw.launches, s.mine l = true → l.st ≠ 6 → { l with st := 6, status := f.cause, scrubAt := 0 } ∈ t.fw.launches))

/-- R327, R330, R331, R388: RUN.AT and RUN.SEAM have their effect as they issue: the streams are loaded, the chain engines enter the
run at the first word of their streams, and S holds to the start or to its seam; SEAM and SEAM.R put S at the seam of a group it is a member of; SAFE saves the core where a request is pending, and otherwise only marks the wait after it. -/
def Obligations.RunsAndSeams : Prop :=
  ∀ (s : State) (a b : BitVec 5) (i : BitVec 16),
    let v := (s.sreg a.toNat).toNat
    let w := s.sreg b.toNat
    let k := v % 2 ^ 12
    let g := v / 2 ^ 12 % 2 ^ 8
    let str (i : Nat) : Stream := ⟨s.streamWords (nthD (0, 0) (s.runDesc k).2 i), 0, [], 0⟩
    let loaded (t : State) : Prop := t.run.s = str 0 ∧ t.run.v = str 1 ∧ t.run.m = str 2 ∧ t.run.c = str 3
    (s.trap.handler = false → s.shadow [.s a.toNat, .s b.toNat] = false → k < s.code.runCount → v < 2 ^ 52 → s.member g = true →
      (v / 2 ^ 20 = 0 → ∃ t : State, exec (.runAt a b) s = .next t ∧ t.sx.hold = .run ∧ t.run.phase = .lead ∧ t.run.group = g ∧
        loaded t ∧ t.run.len = (s.runDesc k).1 ∧ t.run.t0 = w.toNat ∧ t.run.issued = s.clk.tape ∧ t.cv.st = 3 ∧ t.cm.st = 3 ∧ t.cc.st = 3 ∧ t.regs = s.regs ∧ sameBytes s t) ∧
      (∃ t : State, exec (.runSeam a b) s = .next t ∧ t.run.phase = .lead ∧ t.run.group = g ∧ t.run.len = (s.runDesc k).1 ∧
        loaded t ∧ t.cv.st = 3 ∧ t.cm.st = 3 ∧ t.cc.st = 3 ∧ t.regs = s.regs ∧ sameBytes s t ∧
        t.sx.hold = .seam g s.clk.tape (v / 2 ^ 20) false (some (k, w.toNat)))) ∧
    (s.trap.handler = false → s.shadow [.s a.toNat, .s b.toNat] = false →
      (s.code.runCount ≤ k ∨ 2 ^ 52 ≤ v →
        exec (.runAt a b) s = .next (s.unblock.fault 0 0x204 0 0 0) ∧ exec (.runSeam a b) s = .next (s.unblock.fault 0 0x204 0 0 0)) ∧
      (k < s.code.runCount → v < 2 ^ 52 → v / 2 ^ 20 ≠ 0 → exec (.runAt a b) s = .next (s.unblock.fault 0 0x204 0 0 0)) ∧
      (k < s.code.runCount → v < 2 ^ 52 → s.member g = false →
        (v / 2 ^ 20 = 0 → exec (.runAt a b) s = .next (s.unblock.fault 0 0x207 0 0 0)) ∧
        exec (.runSeam a b) s = .next (s.unblock.fault 0 0x207 0 0 0))) ∧
    (s.trap.handler = true → ∀ i ∈ [Instr.runAt a b, .runSeam a b, .seam a b, .seamR a b], exec i s = .next (s.unblock.fault 0 0x045 0 0 0)) ∧
    (s.trap.handler = false → s.shadow [.s a.toNat, .s b.toNat] = false → v < 256 → s.member v = true →
      (∃ t : State, exec (.seam a b) s = .next t ∧ t.regs = s.regs ∧ sameBytes s t ∧
        t.sx.hold = .seam v s.clk.tape (w.toNat % 2 ^ 32) false none) ∧
      (∃ t : State, exec (.seamR a b) s = .next t ∧ t.regs = s.regs ∧ sameBytes s t ∧
        t.sx.hold = .seam v s.clk.tape (w.toNat % 2 ^ 32) true none)) ∧
    (s.trap.handler = false → s.shadow [.s a.toNat, .s b.toNat] = false → 256 ≤ v ∨ s.member v = false →
      exec (.seam a b) s = .next (s.unblock.fault 0 0x207 0 0 0) ∧ exec (.seamR a b) s = .next (s.unblock.fault 0 0x207 0 0 0)) ∧
    (i.toNat < s.code.safeCount → s.trap.handler = false →
      (s.sx.preempt = true → exec (.safe i) s = .next { s.past with trap := { s.trap with save := some i.toNat } }) ∧
      (s.sx.preempt = false → exec (.safe i) s = .next { s.past with sx := { s.past.sx with safe := some i.toNat } })) ∧
    (i.toNat < s.code.safeCount → s.trap.handler = true → exec (.safe i) s = .next s.past) ∧
    (s.code.safeCount ≤ i.toNat → exec (.safe i) s = .next (s.unblock.fault 0 0x044 0 0 0))

/-! ### S: banks, the register space, bolts -/

/-- R98, R105, R108 to R111: the readers of bank, slice and FIFO state, the two that set a way mask and a selection, and FRESET. -/
def Obligations.BankForms : Prop :=
  ∀ (s : State) (d a : BitVec 5), s.shadow [.s a.toNat] = false →
    let x := s.sreg a.toNat
    let b := x.toNat % 256
    let c := tget .reset s.sram.cfg (256 * s.cluster + b)
    let n := s.ctl.slicesel.toNat % 4
    let k := 16 * s.cluster + 4 * n + s.tenant
    let w := tget (0, 0) s.sram.way k
    let ok (i : Instr) (v : Nat) : Prop := exec i s = .next (s.wrote 1 (.sreg d.toNat (BitVec.ofNat 64 v)))
    ok (.bankget d a) (c.mode + 2 ^ 2 * c.slice + 2 ^ 4 * c.way + 2 ^ 8 * c.changing.toNat + 2 ^ 9 * c.fifoHead.toNat +
      2 ^ 10 * c.fifoSpan + 2 ^ 16 * c.worldTag + 2 ^ 32 * c.launchTag) ∧
    (b < 0x10 → ok (.cstat d a) (s.sram.lines.countP (fun l =>
      l.cluster = s.cluster && l.slice = b / 4 && l.tenant = b % 4))) ∧
    (0x10 ≤ b → b < 0x14 → exec (.cstat d a) s = .next (s.wrote 1 (.sreg d.toNat (tget 0 s.sram.hits (s.sliceKey (b % 4)))))) ∧
    (0x14 ≤ b → b < 0x18 → exec (.cstat d a) s = .next (s.wrote 1 (.sreg d.toNat (tget 0 s.sram.misses (s.sliceKey (b % 4)))))) ∧
    (0x18 ≤ b → b ≠ 0x20 → ok (.cstat d a) 0) ∧
    (b = 0x20 → exec (.cstat d a) s = .next (s.wrote 1 (.sreg d.toNat (tget 0 s.sram.bcstall s.cluster)))) ∧
    (c.mode = 3 → c.fifoHead = true → ok (.fstat d a) ((s.fifoOf b).count + 2 ^ 16 * s.fifoCap b + 2 ^ 32 * (s.fifoOf b).head +
      2 ^ 48 * (s.fifoOf b).tail)) ∧
    (c.mode ≠ 3 ∨ c.fifoHead = false → ok (.fstat d a) 0) ∧
    exec (.waymask a) s = .next { s with sram := { s.sram with
      way := tset (0, 0) s.sram.way k (x.toNat % 2 ^ 16 &&& w.2, w.2) } }.past ∧
    exec (.csel a) s = .next { s with ctl := { s.ctl with
      slicesel := (s.ctl.slicesel &&& 0x18#64) ||| (x &&& 0xFFFF0007#64) } }.past ∧
    (c.launchTag = s.ctl.launchNo → c.worldTag = s.ctl.world → c.mode = 3 → c.fifoHead = true →
      exec (.freset a) s = .next (s.wrote 257 (.fifo (256 * s.cluster + b)))) ∧
    (c.launchTag ≠ s.ctl.launchNo → exec (.freset a) s = .next (s.unblock.fault 0 0x090 0 0 0)) ∧
    (c.launchTag = s.ctl.launchNo → c.worldTag ≠ s.ctl.world → exec (.freset a) s = .next (s.unblock.fault 0 0x092 0 0 0)) ∧
    (c.launchTag = s.ctl.launchNo → c.worldTag = s.ctl.world → c.mode ≠ 3 ∨ c.fifoHead = false →
      exec (.freset a) s = .next (s.unblock.fault 0 0x08F 0 0 0))

/-- R99, R106, R109: BANKSET captures its operands, closes its banks in the next cycle and holds S until the last is open; a bank
that opens takes its new configuration with every byte of it zero and every byte of the other banks as it was; BANKCFG closes
its bank for new tags. -/
def Obligations.BankChanges : Prop :=
  (∀ (s : State) (a b : BitVec 5), s.sx.blk = none → s.shadow [.s a.toNat, .s b.toNat] = false →
    (s.banksetCheck (s.sreg a.toNat).toNat (s.sreg b.toNat).toNat = none →
      exec (.bankset a b) s = .next { s with sx := { s.sx with
        next := s.clk.tape + 1, blk := some ⟨s.sreg a.toNat, s.sreg b.toNat, 0, 0, 0, s.clk.tape, s.clk.tape + 1, 0, 0, false, false, false, false⟩ } }) ∧
    (∀ e, s.banksetCheck (s.sreg a.toNat).toNat (s.sreg b.toNat).toNat = some e →
      exec (.bankset a b) s = .next (s.unblock.fault 0 e 0 0 0))) ∧
  (∀ (s : State) (a b : BitVec 5) (x : Blk), s.sx.blk = some x → x.a ≠ 0 → s.banksetBusy x.d.toNat = false →
    exec (.bankset a b) s = .next s.past) ∧
  (∀ (s : State) (a b : BitVec 5) (x : Blk), s.sx.blk = some x → x.a ≠ 0 → s.banksetBusy x.d.toNat = true →
    exec (.bankset a b) s = .next { s with sx := { s.sx with next := s.clk.tape + 1, blk := some { x with a := 1 } } }) ∧
  (∀ (s : State) (a b : BitVec 5) (x : Blk), s.sx.blk = some x → x.a = 0 → s.run.phase ≠ .running →
    ∃ t : State, exec (.bankset a b) s = .next t ∧ t.regs.s = s.regs.s ∧ t.sram.bytes = s.sram.bytes ∧
      t.sram = (s.banksetClose x.d.toNat x.d1.toNat).sram ∧
      (∀ j, x.d.toNat / 256 % 512 = 1 → j = x.d.toNat % 256 → (x.d1.toNat % 4 ≠ 3) → s.banksetCfg x.d.toNat x.d1.toNat j ≠ s.bank j →
        (tget .reset t.sram.cfg (s.bankKey j)).changing = true ∧
        ∃ c ∈ t.sram.changes, c.key = s.bankKey j ∧ c.cfg = s.banksetCfg x.d.toNat x.d1.toNat j ∧ s.clk.tape + 256 ≤ c.endAt) ∧
      ((s.banksetClose x.d.toNat x.d1.toNat).banksetBusy x.d.toNat = true → t.regs.pc = s.regs.pc ∧ t.sx.next = s.clk.tape + 1)) ∧
  (∀ (s : State) (c : BankChange), s.sram.changes.find? (fun c => c.endAt ≤ s.clk.tape) = some c →
    ∃ t : State, exec .bankOpen s = .next t ∧ tget .reset t.sram.cfg c.key = c.cfg ∧ t.regs = s.regs ∧ t.mem = s.mem ∧
      (∀ k, k ≠ c.key → tget .reset t.sram.cfg k = tget .reset s.sram.cfg k) ∧
      (∀ a, mread t.sram.bytes a = if a / 65536 = c.key then 0 else mread s.sram.bytes a)) ∧
  (∀ (s : State) (k : Nat) (l : BitVec 8) (w : BitVec 16), (s.cfgOf k).changing = false →
    exec (.bankcfg k l w) s = .next (s.closeBank k { s.cfgOf k with launchTag := l.toNat, worldTag := w.toNat }) ∧
    ((s.closeBank k { s.cfgOf k with launchTag := l.toNat, worldTag := w.toNat }).cfgOf k).changing = true)

/-- R197, R199, R203, R204, R207, R213, R214: the readers of views, generators and the gather unit; GO starts the named
generators at beat 0, one with no descriptor goes idle, and AGSTOP stops them after this cycle; REGMODE changes the state of the named
clusters from the next cycle on, and a cluster that leaves ON loses its bytes. -/
def Obligations.RegSpaceForms : Prop :=
  ∀ (s : State) (d a : BitVec 5) (w g : BitVec 3),
    let ok (i : Instr) (v : Nat) : Prop := exec i s = .next (s.wrote 1 (.sreg d.toNat (BitVec.ofNat 64 v)))
    let v := s.view w.toNat
    let ag := s.agen g.toNat
    ok (.viewget d w 0) v.base ∧ ok (.viewget d w 1) v.span ∧ ok (.viewget d w 2) v.rot ∧ ok (.viewget d w 3) v.rotStep ∧
    ok (.viewget d w 4) (v.kind + 2 ^ 8 * v.type + 2 ^ 16 * v.rows) ∧
    ok (.agget d g 0) (if ag.st = 1 ∧ (∀ ne, ag.nest = some ne → ne.rep = false ∧ ne.total ≤ ag.k) then 2 else ag.st) ∧
    ok (.agget d g 1) ag.k ∧
    ok (.agget d g 2) (match ag.nest with | some ne => (ne.addr ag.k).1 | none => 0) ∧
    ok (.agget d g 3) (if ag.shadow.isSome then 1 else 0) ∧
    ok (.gstat d) ((s.rs.fills.any (fun x => x.latch = 0)).toNat + 2 * (s.rs.fills.any (fun x => x.latch = 1)).toNat +
      4 * s.rs.gdesc.isSome.toNat) ∧
    (∃ p : W64, exec (.regstat d) s = .next (s.wrote 1 (.sreg d.toNat p)) ∧ p.toNat < 2 ^ 16 ∧
      ∀ n, n < 8 → (p.getLsbD n = decide ((tget (0, 0) s.rs.power n).1 = 0)) ∧
        (p.getLsbD (8 + n) = decide ((tget (0, 0) s.rs.power n).1 = 2))) ∧
    (s.shadow [.s a.toNat] = false →
      (∃ t : State, exec (.go a) s = .next t.past ∧ t.rs.bytes = s.rs.bytes ∧ t.regs = s.regs ∧ ∀ n, n < 8 →
        ((s.sreg a.toNat).getLsbD n = false → t.agen n = s.agen n) ∧
        ((s.sreg a.toNat).getLsbD n = true → ∀ ne, (s.agen n).shadow = some ne → (t.agen n).nest = some ne ∧ (t.agen n).st = 1 ∧
          (t.agen n).k = 0 ∧ (t.agen n).beats = [] ∧ (t.agen n).shadow = some ne) ∧
        ((s.sreg a.toNat).getLsbD n = true → (s.agen n).shadow = none → t.agen n = { s.agen n with st := 0 })) ∧
      (∃ t : State, exec (.agstop a) s = .next t.past ∧ t.rs.bytes = s.rs.bytes ∧ t.regs = s.regs ∧ ∀ n, n < 8 →
        t.agen n = if (s.sreg a.toNat).getLsbD n then { s.agen n with halt := true } else s.agen n) ∧
      exec (.regmode a) s = .next { s with pend := s.pend ++ (List.range 8).flatMap (fun n =>
        let on := (s.sreg a.toNat).getLsbD n
        let off := (s.sreg a.toNat).getLsbD (8 + n)
        let p := (tget (0, 0) s.rs.power n).1
        let put (st till : Nat) : List Pend := [⟨s.clk.tape + 1, .s, .power n st till, s.clk.tape⟩]
        if on && !off && p == 1 then put 2 (s.clk.tape + 64) else if off && !on && p != 1 then put 1 0 else []) }.past) ∧
    (∀ (n st till due iss : Nat) (e : Engine),
      let t := s.land ⟨due, e, .power n st till, iss⟩
      tget (0, 0) t.rs.power n = (st, till) ∧ (∀ q, q ≠ n → tget (0, 0) t.rs.power q = tget (0, 0) s.rs.power q) ∧
      ∀ x, mread t.rs.bytes x = if x / 32768 = n ∧ (tget (0, 0) s.rs.power n).1 = 0 ∧ st ≠ 0 then 0 else mread s.rs.bytes x)

/-- R192, R201, R208, R213: the forms that load a descriptor capture their operands, then take the descriptor, or trap with its
code where it is malformed; nothing else changes.
R209, R212: GGO starts the fill of its latch, to end 14 cycles after its last row; a bad count starts none and sets GathBad.
R197: a cluster that has woken is ON with every byte zero. R203, R204: a generator's read takes its beat and changes no byte;
a write's beat lands at its address. -/
def Obligations.DescriptorForms : Prop :=
  (∀ (s : State) (w g : BitVec 3) (c : BitVec 4) (b : BitVec 5), s.sx.blk = none → s.shadow [.c c.toNat, .s b.toNat] = false →
     let q := s.creg c.toNat
     let o := (s.sreg b.toNat).toNat
     let lat := if isSpad q = true then (if o / 65536 / 32 = s.coreJ then 6 else 14) else 1 + s.readLat (capObj q) o + s.delay
     let captured (n : Nat) : State := { s with
         env := { s.env with delays := s.env.delays.tail }
         sx := { s.sx with next := s.clk.tape + 1, blk := some ⟨0, 0, BitVec.ofNat 64 o, 0, q, s.clk.tape, s.clk.tape + lat, n, 1,
           false, false, false, false⟩ } }
     let can (n : Nat) : Prop := o % n = 0 ∧ s.checkRead q 1 o n none = .ok ∧ (s.pendEn && isSpad q && s.pendingSpad o n) = false
     (can 32 → exec (.viewld w c b) s = .next (captured 32) ∧ exec (.gset c b) s = .next (captured 32)) ∧
     (can 64 → exec (.agset g c b) s = .next (captured 64)) ∧
     (o % 32 ≠ 0 → ∀ i ∈ [Instr.viewld w c b, .gset c b, .agset g c b], exec i s = .next (s.unblock.fault 0 0x081 q (BitVec.ofNat 64 o) 0))) ∧
  (∀ (s : State) (x : Blk) (w g : BitVec 3) (c : BitVec 4) (b : BitVec 5),
     let o := x.a.toNat
     let by' (n : Nat) := if isSpad x.cap = true then s.spadRead o n else s.objRead (capObj x.cap) o n
     let can (n : Nat) : Prop := if isSpad x.cap = true then x.granted = true ∧ s.bankCheck s.ctl.world (o / 65536) = none
       else s.checkRead x.cap 1 o n none = .ok
     s.sx.blk = some x → x.ready ≤ s.clk.tape → x.parked = false → can 32 → can 64 →
     (∀ v, viewOf (by' 32) = some v → exec (.viewld w c b) s = .next (s.setView w.toNat v).past) ∧
     (∀ ne k, nestOf g.toNat (by' 64) = some (ne, k) → winCapOk (s.creg k) (if ne.write then 2 else 1) ne.winLo ne.winSize = true →
       exec (.agset g c b) s = .next (s.setAgen g.toNat { s.agen g.toNat with shadow := some { ne with cap := s.creg k } }).past) ∧
     (∀ d k, gdescOf (by' 32) = some (d, k) → winCapOk (s.creg k) 1 d.winLo d.winSize = true →
       exec (.gset c b) s = .next { s with rs := { s.rs with gdesc := some { d with cap := s.creg k } } }.past) ∧
     (∀ ne k, nestOf g.toNat (by' 64) = some (ne, k) → winCapOk (s.creg k) (if ne.write then 2 else 1) ne.winLo ne.winSize = false →
       exec (.agset g c b) s = .next (s.unblock.fault 0 0x141 x.cap (BitVec.ofNat 64 o) 0)) ∧
     (∀ d k, gdescOf (by' 32) = some (d, k) → winCapOk (s.creg k) 1 d.winLo d.winSize = false →
       exec (.gset c b) s = .next (s.unblock.fault 0 0x142 x.cap (BitVec.ofNat 64 o) 0)) ∧
     (viewOf (by' 32) = none → exec (.viewld w c b) s = .next (s.unblock.fault 0 0x140 x.cap (BitVec.ofNat 64 o) 0)) ∧
     (nestOf g.toNat (by' 64) = none → exec (.agset g c b) s = .next (s.unblock.fault 0 0x141 x.cap (BitVec.ofNat 64 o) 0)) ∧
     (gdescOf (by' 32) = none → exec (.gset c b) s = .next (s.unblock.fault 0 0x142 x.cap (BitVec.ofNat 64 o) 0))) ∧
  ((∀ (s : State) (m v : BitVec 3) (b : BitVec 5) (i : BitVec 3),
     let x := (s.sreg b.toNat).toNat
     let n := x % 64
     let a := (s.view v.toNat).addr i.toNat
     s.shadow ([.s b.toNat] ++ (if m = 0 then [] else [.m m.toNat])) = false →
     s.run.phase = .running ∨ (∀ f ∈ s.rs.fills, f.latch ≠ x / 64 % 2) ∧ (s.pendEn && s.pendingRs a 256) = false → s.regOn a = true →
     (1 ≤ n → n ≤ 32 →
       ∃ t : State, exec (.ggo m v b i) s = .next t.past ∧ t.regs = s.regs ∧ sameBytes s t ∧ ∃ f ∈ t.rs.fills,
         f.latch = x / 64 % 2 ∧ f.endAt = s.clk.tape + n + 14 ∧ f.nextAt = s.clk.tape + 1 ∧
         (if s.run.phase = .running then f.rows.length = n else f.todo.length = n)) ∧
     (n = 0 ∨ 32 < n → exec (.ggo m v b i) s = .next { s with ctl := { s.ctl with
       regsticky := s.ctl.regsticky ||| 16 } }.past)) ∧
   (∀ (s : State) (n : Nat), s.waking = some n →
     ∃ t : State, exec .regclusterWake s = .next t ∧ tget (0, 0) t.rs.power n = (0, 0) ∧ t.regs = s.regs ∧ t.mem = s.mem ∧
       t.sram = s.sram ∧ (∀ a, mread t.rs.bytes a = if a / 32768 = n then 0 else mread s.rs.bytes a)) ∧
   (∀ (s : State) (n : Nat) (ne : Nest), [6, 7, 0, 1, 2, 3, 4, 5].find? s.agGoes = some n → s.agReads n = true →
     (s.agen n).nest = some ne →
     ∃ t : State, exec .agBeat s = .next t ∧ sameBytes s t ∧ t.regs = s.regs ∧ (t.agen n).kf = (s.agen n).kf + 1 ∧
       (t.agen n).turn = false) ∧
   (∀ (s : State) (n a d : Nat) (b : List Byte) (r : List (Nat × Nat × List Byte)),
     [6, 7, 0, 1, 2, 3, 4, 5].find? s.agGoes = some n → s.agWrites n = true → (s.agen n).beats = (d, a, b) :: r →
     ∃ t : State, exec .agBeat s = .next t ∧ (t.agen n).beats = r ∧ t.regs = s.regs ∧ t.mem = s.mem ∧
       t.sram.bytes = if s.bankCheck s.ctl.world (a / 65536) = none then mwriteN s.sram.bytes (s.spadKey a) b else s.sram.bytes))

/-- R86 to R88, R472: BOLTNEW takes the lowest free ID and key slot of its interface and answers a capability of no bytes;
BOLTGROW appends the lowest free pages; each check that fails traps with its code and changes nothing.
R89, R472, R473: once the core's accesses have performed, CUT makes the entry CUT and zeroes its key slot, and no byte moves;
the release gives its pages and its slot back to the pool. -/
def Obligations.Bolts : Prop :=
  (∀ (s : State) (x y : BitVec 4) (a : BitVec 5),
     let v := (s.sreg a.toNat).toNat
     let p := s.pool s.ctl.vi
     let k := s.creg y.toNat
     (s.shadow [.s a.toNat] = false →
       (64 ≤ v ∨ 5 < v % 8 ∨ 1 < v / 8 % 8 → exec (.boltnew x a) s = .next (s.unblock.fault 0 0x08B 0 0 0)) ∧
       (v < 64 → v % 8 ≤ 5 → v / 8 = 1 → s.mem.xk4m = false → exec (.boltnew x a) s = .next (s.unblock.fault 0 0x087 0 0 0)) ∧
       (v < 64 → v % 8 ≤ 5 → v / 8 ≤ 1 → (v / 8 = 1 → s.mem.xk4m = true) →
         (p.ids = [] ∨ p.slots = [] → exec (.boltnew x a) s = .next (s.unblock.fault 0 0x089 0 0 0)) ∧
         (∀ id ids ks slots, p.ids = id :: ids → p.slots = ks :: slots →
           ∃ t : State, exec (.boltnew x a) s = .next (t.wrote 1 (.creg x.toNat (mkCap id 0x47 0 0))) ∧ t.regs = s.regs ∧ sameBytes s t ∧
             (t.pool s.ctl.vi).ids = ids ∧ (t.pool s.ctl.vi).slots = slots ∧ t.pend = s.pend ∧
             t.entry id = some ⟨2, 2, s.ctl.vi, false, 0x47, 1, ks, 0, 0, v % 8, v / 8, [], 0⟩ ∧ tget 0 t.mem.keySlot ks ≠ 0 ∧
             (∀ j, j ≠ id → t.entry j = s.entry j)))) ∧
     (s.shadow [.c y.toNat, .s a.toNat] = false → ∀ e, s.boltCheck k = .ok e →
       let free := tget [] p.pages (pageKey e.boltTier e.boltPage)
       let size := e.size + v * pageBytes e.boltPage
       (1 ≤ v → v ≤ 65536 → size ≤ 2 ^ 48 → v ≤ free.length →
         ∃ t : State, exec (.boltgrow x y a) s = .next (t.wrote 1 (.creg x.toNat (mkCap (capObj k) (capRights k) (capLower k) size))) ∧
           t.regs = s.regs ∧ sameBytes s t ∧ t.pend = s.pend ∧
           t.entry (capObj k) = some { e with
             size := size, segs := e.segs ++ grownSegs e.boltPage e.boltTier (e.size / 4096) (free.take v) } ∧
           tget [] (t.pool s.ctl.vi).pages (pageKey e.boltTier e.boltPage) = free.drop v) ∧
       (v = 0 ∨ 65536 < v ∨ 2 ^ 48 < size →
         exec (.boltgrow x y a) s = .next (s.unblock.fault 0 0x08B 0 0 0)) ∧
       (1 ≤ v → v ≤ 65536 → size ≤ 2 ^ 48 → free.length < v → exec (.boltgrow x y a) s = .next (s.unblock.fault 0 0x089 0 0 0))) ∧
     (s.shadow [.c y.toNat, .s a.toNat] = false → ∀ c, s.boltCheck k = .error c →
       exec (.boltgrow x y a) s = .next (s.unblock.fault 0 c k (BitVec.ofNat 64 (capLower k)) 0))) ∧
  ((∀ (s : State) (y : BitVec 4) (x : Blk), s.sx.blk = some x → s.drained (2 ^ 16 - 1) x.at_ = false →
     exec (.cut y) s = .next { s with sx := { s.sx with next := s.clk.tape + 1 } }) ∧
   (∀ (s : State) (y : BitVec 4) (e : ObjEntry), s.sx.blk = none → s.shadow [.c y.toNat] = false → s.sx.comb = [] →
     s.drained (2 ^ 16 - 1) s.clk.tape = true → s.boltCheck (s.creg y.toNat) = .ok e →
     ∃ t : State, exec (.cut y) s = .next t ∧ t.regs.s = s.regs.s ∧ t.regs.c = s.regs.c ∧ sameBytes s t ∧
       t.entry (capObj (s.creg y.toNat)) = some { e with state := 3 } ∧ tget 0 t.mem.keySlot e.keySlot = 0) ∧
   (∀ (s : State) (y : BitVec 4) (x : Blk) (e : ObjEntry), s.sx.blk = some x → s.drained (2 ^ 16 - 1) x.at_ = true →
     s.boltCheck x.cap = .ok e →
     ∃ t : State, exec (.cut y) s = .next t ∧ t.regs.s = s.regs.s ∧ t.regs.c = s.regs.c ∧ sameBytes s t ∧
       t.entry (capObj x.cap) = some { e with state := 3 } ∧ tget 0 t.mem.keySlot e.keySlot = 0) ∧
   (∀ (s : State) (y : BitVec 4), s.sx.blk = none → s.shadow [.c y.toNat] = false → ∀ c, s.boltCheck (s.creg y.toNat) = .error c →
     exec (.cut y) s = .next (s.unblock.fault 0 c (s.creg y.toNat) (BitVec.ofNat 64 (capLower (s.creg y.toNat))) 0)) ∧
   (∀ (s : State) (r : BoltRel), s.mem.rels.find? s.relReady = some r →
     ∃ t : State, exec .boltRelease s = .next t ∧ t.regs = s.regs ∧ sameBytes s t ∧
       t.mem.rels = s.mem.rels.filter (fun x => x ≠ r) ∧ (t.pool r.vi).slots = putUp r.slot (s.pool r.vi).slots ∧
       (t.pool r.vi).ids = (s.pool r.vi).ids ∧
       (∀ k, tget [] (t.pool r.vi).pages k = ((r.pages.filter (fun x => x.1 / 8 < 2 && x.1 = k)).map (fun x => x.2)).foldl
         (fun l b => putUp b l) (tget [] (s.pool r.vi).pages k)) ∧ ∀ e, tget none s.mem.obj r.id = some e →
         t.entry r.id = some { e with pin := false, maxRights := 0, leaseCount := 0, keySlot := 0, size := 0, segs := [], segList := 0 }))

/-! ### V -/

/-- R43, R44: IDLE k holds its engine's slot for k cycles and changes nothing else; LOOP opens a level in a stream and raises
ILL_CONTEXT outside a run. -/
def Obligations.IdleLoop : Prop :=
  ∀ (s : State) (k : BitVec 24) (n l : BitVec 12),
    let st := s.run.stream s.actor
    (s.actor = .s → s.run.phase ≠ .running →
      exec (.idle k) s = .next { s.past with sx := { s.past.sx with next := s.clk.tape + k.toNat } }) ∧
    (s.actor ≠ .s → exec (.idle k) s = .next (s.issued s.actor k.toNat (.at (s.clk.tape + k.toNat))).1) ∧
    (s.run.phase = .running → ∀ e, s.actor = e → st.loops = [] → ∃ t : State, exec (.idle k) s = .next t ∧ t.regs = s.regs ∧
      sameBytes s t ∧ (t.run.stream e).pos = st.pos + 1 ∧ (t.run.stream e).next = s.clk.tape + k.toNat) ∧
    (s.run.phase = .running → ∃ t : State, exec (.loop n l) s = .next t ∧ t.regs = s.regs ∧ sameBytes s t ∧
      t.run.stream s.actor = ⟨st.words, st.pos + 1, (st.pos + 1, st.pos + 1 + l.toNat, n.toNat) :: st.loops, s.clk.tape + 1⟩) ∧
    (s.run.phase ≠ .running → exec (.loop n l) s = .next (s.fault (engNo s.actor) 0x045 0 0 0))

/-- R193, R198, R205, R266: the operands of a word of V are the bytes of its vectors, or the beat at its port, which the
generator passes; a port that is early holds the word, a dry port, a cluster that is not ON and a pending mask fault.
R198, R205, R266, R271: a word of V whose operands are not there holds its slot and is tried in the next cycle, or faults;
either way it issues nothing and writes nothing. -/
def Obligations.VectorOperands : Prop :=
  (∀ (s : State) (x : VSpec) (a b : Nat), x.a = some a → x.b = some b →
     let clear := s.vShadow (x.refs ++ (if x.m = 0 then [] else [.m x.m])) = false
     let readable (q : Nat) : Prop := s.regOn (s.specAddr q) = true ∧ (s.pendEn && !s.timed && s.pendingRs (s.specAddr q) 256) = false
     let bytes (q : Nat) := s.rsRead (s.specAddr q) 256
     (clear → x.p = 0 → readable a → readable b → readable x.d → s.regOnRange (s.specAddr x.d) 256 = true →
       s.vRead x = .ok (s, ⟨bytes a, bytes b, if x.useD then bytes x.d else [], s.specAddr x.d, true⟩)) ∧
     (clear → x.p = 1 → readable b → readable x.d → s.regOnRange (s.specAddr x.d) 256 = true → ∀ r k v t,
       (s.agen (a % 8)).beats = (r, k, v) :: t → s.popSt (a % 8) = .ready →
       ∃ u : State, s.vRead x = .ok (u, ⟨v, bytes b, if x.useD then bytes x.d else [], s.specAddr x.d, true⟩) ∧
         (u.agen (a % 8)).beats = t ∧ (u.agen (a % 8)).k = (s.agen (a % 8)).k + 1 ∧ u.rs.bytes = s.rs.bytes ∧ u.regs = s.regs) ∧
     (s.vShadow (x.refs ++ (if x.m = 0 then [] else [.m x.m])) = true → s.vRead x = .error (.code 0x002)) ∧
     (clear → x.p = 0 → s.run.phase ≠ .running → s.regOn (s.specAddr a) = false → s.vRead x = .error (.code 0x143)) ∧
     (x.p = 0 → s.run.phase = .running → s.regOn (s.specAddr a) = false → readable b → readable x.d →
       s.vRead x = .ok ({ s with ctl := { s.ctl with regsticky := s.ctl.regsticky ||| 1 } },
         ⟨List.replicate 256 0, bytes b, if x.useD then bytes x.d else [], s.specAddr x.d, true⟩)) ∧
     (clear → x.p = 1 → s.run.phase ≠ .running → readable b → readable x.d → s.regOnRange (s.specAddr x.d) 256 = true →
       (s.popSt (a % 8) = .early → s.vRead x = .error .hold) ∧ (s.popSt (a % 8) = .dry → s.vRead x = .error (.code 0x144)))) ∧
  (∀ (s : State) (t : BitVec 4) (m : BitVec 3) (d a b : BitVec 6) (p : BitVec 1),
     (s.vRead ⟨m.toNat, p.toNat, some a.toNat, some b.toNat, d.toNat, false, []⟩ = .error .hold →
       ∀ i ∈ [Instr.vadd t m d a b p, .vsub t m d a b p, .vmul t m d a b p, .vand t m d a b p, .vperm t m d a b p],
         exec i s = .next { s with cv := { s.cv with next := s.clk.tape + 1 } }) ∧
     (∀ c, s.vRead ⟨m.toNat, p.toNat, some a.toNat, some b.toNat, d.toNat, false, []⟩ = .error (.code c) →
       ∀ i ∈ [Instr.vadd t m d a b p, .vsub t m d a b p, .vmul t m d a b p, .vand t m d a b p, .vperm t m d a b p],
         exec i s = .next (s.fault 1 c 0 0 0)))

/-- R272 to R274: integer arithmetic, lane by lane, modulo the width or clamped with Saturate; 2, 4 or 4 cycles.
R273: the one-source integer forms: absolute value and negation clamp, and leading zeros are counted. -/
def Obligations.VectorInteger : Prop :=
  (∀ (s u : State) (i : VIn) (t : BitVec 4) (m : BitVec 3) (d a b : BitVec 6) (p : BitVec 1) (useD : Bool), t.toNat < 8 →
     s.vRead ⟨m.toNat, p.toNat, some a.toNat, some b.toNat, d.toNat, useD, []⟩ = .ok (u, i) →
     let z := tySize t.toNat
     let w := 8 * z
     let n := 256 / z
     let x (l : Nat) := intVal t.toNat (laneAt z i.a l)
     let y (l : Nat) := intVal t.toNat (laneAt z i.b l)
     let o (l : Nat) := intVal t.toNat (laneAt z i.old l)
     let mk := s.maskOf m.toNat
     let is (k : Instr) (lat : Nat) (f : Nat → Int) : Prop := exec k s = .next (u.vOut i lat (lanesWritten mk n z i.addr (fun l => lowBits (f l) w)) 0)
     let lo := intMin t.toNat
     let hi := intMax t.toNat
     let sat (k : Instr) (f : Nat → Int) : Prop := exec k s = .next (u.vOut i 2
       (lanesWritten mk n z i.addr (fun l => lowBits (max lo (min hi (f l))) w)) (lanesEv mk n (fun l => if f l < lo ∨ hi < f l then 32 else 0)))
     (useD = false →
       is (.vadd t m d a b p) 2 (fun l => x l + y l) ∧ is (.vsub t m d a b p) 2 (fun l => x l - y l) ∧
       is (.vmul t m d a b p) 4 (fun l => x l * y l) ∧ is (.vabd t m d a b p) 2 (fun l => (x l - y l).natAbs) ∧
       is (.vmulhi t m d a b p) 4 (fun l => x l * y l / 2 ^ w) ∧ is (.vmin t m d a b p) 2 (fun l => min (x l) (y l)) ∧
       is (.vmax t m d a b p) 2 (fun l => max (x l) (y l)) ∧
       sat (.vadds t m d a b p) (fun l => x l + y l) ∧ sat (.vsubs t m d a b p) (fun l => x l - y l) ∧
       is (.vshl t m d a b p) 2 (fun l => (laneAt z i.a l : Int) * 2 ^ laneAt z i.b l) ∧
       is (.vshr t m d a b p) 2 (fun l => (laneAt z i.a l : Int) / 2 ^ laneAt z i.b l) ∧
       is (.vsra t m d a b p) 2 (fun l => sgn (laneAt z i.a l) w / 2 ^ laneAt z i.b l) ∧
       is (.vrshr t m d a b p) 2 (fun l => (2 * x l + 2 ^ laneAt z i.b l) / 2 / 2 ^ laneAt z i.b l)) ∧
     (useD = true →
       is (.vfma t m d a b p) 4 (fun l => x l * y l + o l) ∧ is (.vfms t m d a b p) 4 (fun l => x l * y l - o l) ∧
       is (.vfnma t m d a b p) 4 (fun l => o l - x l * y l) ∧ is (.vclamp t m d a b p) 2 (fun l => min (max (o l) (x l)) (y l)))) ∧
  (∀ (s u : State) (i : VIn) (t : BitVec 4) (m : BitVec 3) (d a : BitVec 6) (p : BitVec 1), t.toNat < 8 →
     s.vRead ⟨m.toNat, p.toNat, some a.toNat, none, d.toNat, false, []⟩ = .ok (u, i) →
     let z := tySize t.toNat
     let n := 256 / z
     let x (l : Nat) := intVal t.toNat (laneAt z i.a l)
     let mk := s.maskOf m.toNat
     let hi := intMax t.toNat
     let lo := intMin t.toNat
     let sat (k : Instr) (f : Nat → Int) : Prop := exec k s = .next (u.vOut i 2 (lanesWritten mk n z i.addr
       (fun l => lowBits (max lo (min hi (f l))) (8 * z))) (lanesEv mk n (fun l => if f l < lo ∨ hi < f l then 32 else 0)))
     sat (.vabs t m d a p) (fun l => (x l).natAbs) ∧ sat (.vneg t m d a p) (fun l => -(x l)) ∧
     (∀ c : Nat → Nat, (∀ l, c l ≤ 8 * z ∧ laneAt z i.a l < 2 ^ (8 * z - c l) ∧ (c l < 8 * z → 2 ^ (8 * z - 1 - c l) ≤ laneAt z i.a l)) →
       exec (.vclz t m d a p) s = .next (u.vOut i 2 (lanesWritten mk n z i.addr c) 0)))

/-- R218, R219, R272, R275, R276: floating arithmetic, lane by lane, one rounding in the mode of VCTL, with its events. -/
def Obligations.VectorFloat : Prop :=
  ∀ (s u : State) (i : VIn) (t : BitVec 4) (m : BitVec 3) (d a b : BitVec 6) (p : BitVec 1) (two useD : Bool),
    8 ≤ t.toNat → t.toNat ≤ 11 →
    s.vRead ⟨m.toNat, p.toNat, some a.toNat, if two then some b.toNat else none, d.toNat, useD, []⟩ = .ok (u, i) →
    let f := if t = 8 then fmtF64 else if t = 9 then fmtF32 else if t = 10 then fmtBf16 else fmtF16
    let z := f.width / 8
    let rm := s.ctl.vctl.toNat % 4
    let x (l : Nat) := laneAt z i.a l
    let y (l : Nat) := laneAt z i.b l
    let o (l : Nat) := laneAt z i.old l
    let mk := s.maskOf m.toNat
    let is (k : Instr) (lat : Nat) (g : Nat → Nat × Ev) : Prop := exec k s = .next (u.vOut i lat
      (lanesWritten mk (256 / z) z i.addr (fun l => (g l).1)) (lanesEv mk (256 / z) (fun l => (g l).2)))
    (two = true → useD = false →
      is (.vadd t m d a b p) 4 (fun l => f.encode rm ((f.decode (x l)).add rm (f.decode (y l)))) ∧
      is (.vsub t m d a b p) 4 (fun l => f.encode rm ((f.decode (x l)).add rm (f.decode (y l)).neg)) ∧
      is (.vmul t m d a b p) 4 (fun l => f.encode rm ((f.decode (x l)).mul (f.decode (y l)))) ∧
      is (.vabd t m d a b p) 4 (fun l => f.fabd rm (x l) (y l)) ∧ is (.vdiv t m d a b p) 24 (fun l => f.fdiv rm (x l) (y l)) ∧
      is (.vmin t m d a b p) 2 (fun l => pick t.toNat false (x l) (y l)) ∧ is (.vmax t m d a b p) 2 (fun l => pick t.toNat true (x l) (y l))) ∧
    (two = true → useD = true →
      is (.vfma t m d a b p) 5 (fun l => f.encode rm (((f.decode (x l)).mul (f.decode (y l))).add rm (f.decode (o l)))) ∧
      is (.vfms t m d a b p) 5 (fun l => f.encode rm (((f.decode (x l)).mul (f.decode (y l))).add rm (f.decode (o l)).neg)) ∧
      is (.vfnma t m d a b p) 5 (fun l => f.encode rm (((f.decode (x l)).mul (f.decode (y l))).neg.add rm (f.decode (o l)))) ∧
      is (.vclamp t m d a b p) 2 (fun l =>
        let r := pick t.toNat true (o l) (x l)
        ((pick t.toNat false r.1 (y l)).1, r.2 ||| (pick t.toNat false r.1 (y l)).2))) ∧
    (two = false → useD = false →
      is (.vsqrt t m d a p) 28 (fun l => f.fsqrt rm (x l)) ∧ is (.vrcpe t m d a p) 6 (fun l => f.frcpe (x l)) ∧
      is (.vrsqe t m d a p) 6 (fun l => f.frsqe (x l)) ∧
      (t = 9 → is (.vexp2 m d a p) 12 (fun l => vexp2 rm (x l)) ∧ is (.vlog2 m d a p) 12 (fun l => vlog2 rm (x l))) ∧
      is (.vabs t m d a p) 2 (fun l => match f.decode (x l) with
        | .nan g => (f.canonNan, if g then 1 else 0)
        | _ => (x l % 2 ^ (f.width - 1), 0)) ∧
      is (.vneg t m d a p) 2 (fun l => match f.decode (x l) with
        | .nan g => (f.canonNan, if g then 1 else 0)
        | _ => (x l ^^^ 2 ^ (f.width - 1), 0)))

/-- R277, R278, R286: the forms that move bits: logic, move, select, broadcast, lane numbers and permutations; a kt6 lane is
written with bits 7:6 zero. -/
def Obligations.VectorPermute : Prop :=
  ∀ (s u : State) (i : VIn) (t : BitVec 4) (m k : BitVec 3) (d a b : BitVec 6) (p : BitVec 1) (g : BitVec 5), t.toNat ≤ 13 →
    let z := tySize t.toNat
    let n := 256 / z
    let x (l : Nat) := laneAt z i.a l
    let y (l : Nat) := laneAt z i.b l
    let o (l : Nat) := laneAt z i.old l
    let low (v : Nat) := if t = 13 then v % 64 else v
    let is (mk : Option Mask) (k : Instr) (lat : Nat) (f : Nat → Nat) : Prop :=
      exec k s = .next (u.vOut i lat (lanesWritten mk n z i.addr (fun l => low (f l))) 0)
    let mk := s.maskOf m.toNat
    let two : VSpec := ⟨m.toNat, p.toNat, some a.toNat, some b.toNat, d.toNat, false, []⟩
    let one : VSpec := ⟨m.toNat, p.toNat, some a.toNat, none, d.toNat, false, []⟩
    (s.vRead two = .ok (u, i) →
      is mk (.vand t m d a b p) 2 (fun l => x l &&& y l) ∧ is mk (.vor t m d a b p) 2 (fun l => x l ||| y l) ∧
      is mk (.vxor t m d a b p) 2 (fun l => x l ^^^ y l) ∧ is mk (.vandn t m d a b p) 2 (fun l => x l &&& (y l ^^^ (2 ^ (8 * z) - 1))) ∧
      is mk (.vperm t m d a b p) 3 (fun l => x (low (y l) % n)) ∧
      is mk (.vzip t m d a b p) 3 (fun l => if l % 2 = 0 then x (l / 2) else y (l / 2)) ∧
      is mk (.vunzip t m d a b p) 3 (fun l => if 2 * l < n then x (2 * l) else y (2 * l - n))) ∧
    (s.vRead { two with useD := true } = .ok (u, i) →
      is mk (.vshuf t m d a b p) 3 (fun l =>
        let j := low (o l) % (2 * n)
        if j < n then x j else y (j - n))) ∧
    (s.vRead one = .ok (u, i) →
      is mk (.vmov t m d a p) 2 x ∧ is mk (.vrev t m d a p) 3 (fun l => x (n - 1 - l))) ∧
    (s.vRead { one with refs := [.s g.toNat] } = .ok (u, i) → is mk (.vslide t m d a g p) 3 (fun l =>
      let j := (l : Int) + (s.sreg g.toNat).toInt
      if 0 ≤ j ∧ j < n then x j.toNat else 0)) ∧
    (s.vRead { two with m := 0, refs := [.m k.toNat] } = .ok (u, i) →
      is none (.vsel t k d a b p) 2 (fun l => if (s.mreg k.toNat).getLsbD l then x l else y l)) ∧
    (s.vRead ⟨m.toNat, 0, none, none, d.toNat, false, [.s g.toNat]⟩ = .ok (u, i) →
      is mk (.vbcast t m d g) 2 (fun _ => (s.sreg g.toNat).toNat % 2 ^ (8 * z))) ∧
    (t.toNat < 8 → s.vRead ⟨m.toNat, 0, none, none, d.toNat, false, []⟩ = .ok (u, i) → is mk (.vlane t m d) 2 (fun l => l))

/-- R218, R279, R280: a compare writes a mask: an active lane its answer, an inactive lane of the type nothing, a lane past the
type zero; a NaN or void compares unequal and unordered, and is Invalid for VCLT and VCLE. Mask logic takes two masks whole. -/
def Obligations.VectorCompareMask : Prop :=
  (∀ (s u : State) (i : VIn) (t : BitVec 4) (m d : BitVec 3) (a b : BitVec 6) (p : BitVec 1), t.toNat ≤ 13 →
    s.vRead ⟨m.toNat, p.toNat, some a.toNat, some b.toNat, if p = 0 then a.toNat else b.toNat, false, []⟩ = .ok (u, i) →
    let z := tySize t.toNat
    let n := 256 / z
    let x (l : Nat) := laneAt z i.a l
    let y (l : Nat) := laneAt z i.b l
    let v (r : Nat) := decodeTy t.toNat r
    let un (l : Nat) : Bool := 8 ≤ t.toNat && ((v (x l)).isNan || (v (y l)).isNan)
    let lt (q r : Nat) : Bool := if t.toNat < 8 then intVal t.toNat q < intVal t.toNat r else (v q).lt (v r)
    let is (k : Instr) (f : Nat → Bool) (strict : Bool) : Prop := ∃ keep w : Mask, exec k s = .next (u.vIssued 2 (some (.mreg d.toNat keep w))
        (lanesEv (s.maskOf m.toNat) n (fun l => if un l && (strict || (v (x l)).isSnan || (v (y l)).isSnan) then 1 else 0))) ∧
      (∀ l, n ≤ l → keep.getLsbD l = false ∧ w.getLsbD l = false) ∧
      ∀ l, l < n → keep.getLsbD l = !laneOn (s.maskOf m.toNat) l ∧ (laneOn (s.maskOf m.toNat) l = true → w.getLsbD l = f l)
    is (.vceq t m d a b p) (fun l => !un l && !lt (x l) (y l) && !lt (y l) (x l)) false ∧
    is (.vcne t m d a b p) (fun l => un l || lt (x l) (y l) || lt (y l) (x l)) false ∧
    is (.vclt t m d a b p) (fun l => !un l && lt (x l) (y l)) true ∧
    is (.vcle t m d a b p) (fun l => !un l && !lt (y l) (x l)) true ∧ is (.vcun t m d a b p) un false) ∧
  (∀ (s : State) (d a b : BitVec 3), s.vShadow [.m a.toNat, .m b.toNat] = false →
    let is (k : Instr) (v : Mask) : Prop := exec k s = .next (s.vIssued 2 (some (.mreg d.toNat 0 v)) 0)
    is (.vmand d a b) (s.mreg a.toNat &&& s.mreg b.toNat) ∧ is (.vmor d a b) (s.mreg a.toNat ||| s.mreg b.toNat) ∧
    is (.vmxor d a b) (s.mreg a.toNat ^^^ s.mreg b.toNat))

/-- R216, R221, R235, R281 to R285: conversions element by element, packing, unpacking, and QBLK's row. -/
def Obligations.VectorConvert : Prop :=
  ∀ (s u : State) (i : VIn) (t v : BitVec 4) (m : BitVec 3) (d a b : BitVec 6) (e : BitVec 2) (h p : BitVec 1),
    let z := tySize t.toNat
    let y := tySize v.toNat
    let mk := s.maskOf m.toNat
    let rm := s.ctl.vctl.toNat % 4
    let one : VSpec := ⟨m.toNat, p.toNat, some a.toNat, none, d.toNat, false, []⟩
    let on (n : Nat) := (List.range n).filter (laneOn mk)
    let ev (n : Nat) (f : Nat → Nat × Ev) : Ev := (on n).foldl (fun r l => r ||| (f l).2) 0
    (s.vRead one = .ok (u, i) →
      (let n := 256 / max y z
       let c (l : Nat) := convertTy v.toNat t.toNat rm (laneAt y i.a (if y < z then e.toNat * n + l else l))
       exec (.vcvt t m d a e v p) s = .next (u.vOut i 3 ((on n).flatMap (fun l =>
         cellsAt (i.addr + (if z < y then e.toNat * n + l else l) * z) (leBytes z (c l).1))) (ev n c))) ∧
      (1 ≤ t.toNat % 4 → t.toNat < 8 → exec (.vunpk t m d a h p) s = .next (u.vOut i 3 (lanesWritten mk (256 / z) z i.addr
        (fun l => lowBits (intVal (t.toNat - 1) (laneAt (z / 2) i.a (h.toNat * (256 / z) + l))) (8 * z))) 0))) ∧
    (s.vRead { one with b := some b.toNat } = .ok (u, i) →
      let n := 128 / z
      let c (l : Nat) := convertTy (packSrc t.toNat) t.toNat rm (if l < n then laneAt (2 * z) i.a l else laneAt (2 * z) i.b (l - n))
      exec (.vpack t m d a b p) s = .next (u.vOut i 3 (lanesWritten mk (2 * n) z i.addr (fun l => (c l).1)) (ev (2 * n) c))) ∧
    (s.vRead ⟨0, 0, some a.toNat, some (a.toNat + 1), d.toNat, false, []⟩ = .ok (u, i) →
      let xs := (List.range 128).map (fun l => fmtF32.decode (if l < 64 then laneAt 4 i.a l else laneAt 4 i.b (l - 64)))
      let r := qblkRow t.toNat (s.ctl.qblkctl.toNat % 16) xs
      exec (.qblk t d a) s = .next (u.vOut i 8 (cellsAt i.addr r.1) r.2))

/-- R240, R287: a reduction writes one element from the active lanes and the accumulator: integers clamp their exact sum into the
wider type, others follow the profile; a type that the profile does not take raises ILL_TYPE, no profile ILL_PROFILE. -/
def Obligations.VectorReduce : Prop :=
  ∀ (s u : State) (i : VIn) (t : BitVec 4) (m : BitVec 3) (d a b : BitVec 6) (p : BitVec 1), t.toNat ≤ 13 →
    let z := tySize t.toNat
    let on := (List.range (256 / z)).filter (laneOn (s.maskOf m.toNat))
    let x (l : Nat) := laneAt z i.a l
    let y (l : Nat) := laneAt z i.b l
    let prof := if bitsOf s.ctl.vctl.toNat 16 16 = 0 then s.ctl.defProf else bitsOf s.ctl.vctl.toNat 16 16
    let one : VSpec := ⟨m.toNat, p.toNat, some a.toNat, none, d.toNat, true, []⟩
    let out (k : Instr) (rt : Nat) (r : Nat × Ev) : Prop :=
      exec k s = .next (u.vOut i 8 (cellsAt i.addr (leBytes (tySize rt) r.1)) r.2)
    let sum (k : Instr) (f : Nat → Int) : Prop :=
      let rt := if t.toNat < 2 then 2 else if t.toNat = 4 ∨ t.toNat = 5 then 6 else t.toNat
      out k rt (intClamp rt (intVal rt (fieldAt i.old 0 (tySize rt)) + (on.map f).sum))
    (s.vRead one = .ok (u, i) →
      (t.toNat < 8 → sum (.vrsum t m d a p) (fun l => intVal t.toNat (x l))) ∧
      (8 ≤ t.toNat → ∀ pr, profOf prof = some pr → pr.types.contains t.toNat = true →
        out (.vrsum t m d a p) pr.res (pr.apply (on.map (fun l => decodeTy t.toNat (x l))) (fieldAt i.old 0 (tySize pr.res)))) ∧
      (let best (big : Bool) := on.foldl (fun (r : Nat × Ev) l =>
         ((pick t.toNat big r.1 (x l)).1, r.2 ||| (pick t.toNat big r.1 (x l)).2)) (pick t.toNat true (fieldAt i.old 0 z) (fieldAt i.old 0 z))
       out (.vrmax t m d a p) t.toNat (best true) ∧ out (.vrmin t m d a p) t.toNat (best false))) ∧
    (s.vRead { one with b := some b.toNat } = .ok (u, i) →
      (t.toNat < 8 → sum (.vrdot t m d a b p) (fun l => intVal t.toNat (x l) * intVal t.toNat (y l))) ∧
      (8 ≤ t.toNat → ∀ pr, profOf prof = some pr → pr.types.contains t.toNat = true →
        out (.vrdot t m d a b p) pr.res (pr.apply (on.map (fun l => (decodeTy t.toNat (x l)).mul (decodeTy t.toNat (y l))))
          (fieldAt i.old 0 (tySize pr.res))))) ∧
    (8 ≤ t.toNat → profOf prof = none → ∀ k ∈ [Instr.vrsum t m d a p, .vrdot t m d a b p], exec k s = .next (s.fault 1 0x046 0 0 0)) ∧
    (8 ≤ t.toNat → ∀ pr, profOf prof = some pr → pr.types.contains t.toNat = false →
      ∀ k ∈ [Instr.vrsum t m d a p, .vrdot t m d a b p], exec k s = .next (s.fault 1 0x043 0 0 0))

/-- R288 to R297: DEFER stages the lanes of its mask or waits for its FIFO to take a row; DRAIN waits for a row, or takes the
staging where it may; VDQCNT writes what a queue holds.
R105, R292 to R295: the FIFO of a waiting push takes its rows behind its tail, that of a waiting pop gives them from its head;
the count moves by their number, and a FIFO that is not usable cancels the word and faults V. -/
def Obligations.Deferral : Prop :=
  (∀ (s : State) (t : BitVec 4) (m : BitVec 3) (q : BitVec 2) (d : BitVec 6) (g : BitVec 3) (k : BitVec 1),
     let c := s.dqField q.toNat
     let z := tySize t.toNat
     let on := (List.range (256 / z)).filter (laneOn (s.maskOf m.toNat))
     let old := s.staging q.toNat
     (∀ c, s.dpend = [] → s.dqCheck q.toNat t.toNat (d.toNat % 8) = some c → exec (.defer t m q d) s = .next (s.fault 1 c 0 0 0) ∧
       exec (.drain t d g k q) s = .next (s.fault 1 c 0 0 0)) ∧
     (s.dpend = [] → s.dqCheck q.toNat t.toNat (d.toNat % 8) = none →
       s.vShadow (if m = 0 then [] else [.m m.toNat]) = false → (∀ v < s.dqK q.toNat, s.regOn (s.specAddr (d.toNat + v)) = true) →
       (∀ v < s.dqK q.toNat, (s.pendEn && !s.timed && s.pendingRs (s.specAddr (d.toNat + v)) 256) = false) →
       let low (x : Nat) := if t = 13 then x % 64 else x
       let vec (v : Nat) := on.map (fun l => low (laneAt z (s.rsRead (s.specAddr (d.toNat + v)) 256) l))
       let all := (List.range (s.dqK q.toNat)).map (fun v => (nthD [] old.stage v).take old.c ++ vec v)
       (old.c + on.length < 256 / z → ∃ u : State, exec (.defer t m q d) s = .next u ∧ u.regs = s.regs ∧ sameBytes s u ∧
         u.staging q.toNat = (if old.c + on.length = 0 then .reset else ⟨all, old.c + on.length⟩) ∧ u.dpend = []) ∧
       (256 / z ≤ old.c + on.length → ∃ u : State, exec (.defer t m q d) s = .next u ∧ u.regs = s.regs ∧ sameBytes s u ∧
         u.staging q.toNat = old ∧ ∃ x ∈ u.dpend, x.push = true ∧ x.q = q.toNat ∧ x.head = c % 256 ∧ x.k = s.dqK q.toNat ∧
           x.rows = all.map (fun l => packLanes z (l.take (256 / z))) ∧
           x.rest = ⟨all.map (fun l => l.drop (256 / z)), old.c + on.length - 256 / z⟩)) ∧
     (s.dpend = [] → s.dqCheck q.toNat t.toNat (d.toNat % 8) = none → (∀ x ∈ s.kAddrs d.toNat (s.dqK q.toNat), s.regOn x = true) →
       (k = 0 ∨ s.dqK q.toNat ≤ (s.fifoOf (c % 256)).count → ∃ u : State, exec (.drain t d g k q) s = .next u ∧ u.regs = s.regs ∧
         sameBytes s u ∧ u.sram = s.sram ∧ ∃ x ∈ u.dpend, x.push = false ∧ x.q = q.toNat ∧ x.k = s.dqK q.toNat ∧ x.mask = g.toNat) ∧
       (k = 1 → (s.fifoOf (c % 256)).count < s.dqK q.toNat → ∃ u : State, exec (.drain t d g k q) s = .next u ∧ u.regs = s.regs ∧
         sameBytes s u ∧ u.staging q.toNat = .reset ∧
         (⟨s.clk.tape + 16, .v, .mreg g.toNat 0 (BitVec.ofNat 256 (2 ^ old.c - 1)), s.clk.tape⟩ : Pend) ∈ u.pend)) ∧
     (∀ u i, s.vRead ⟨0, 0, none, none, d.toNat, false, []⟩ = .ok (u, i) →
       exec (.vdqcnt d q) s = .next (u.vOut i 2 (lanesWritten none 32 8 i.addr (fun l =>
         if c / 2 ^ 14 % 2 = 0 then 0 else if l = 0 then old.c else if l = 1 then (s.fifoOf (c % 256)).count / s.dqK q.toNat else 0)) 0))) ∧
  ((∀ (s : State) (x : DPend), s.dpend.find? (fun x => x.push && s.dqReady x) = some x → s.fifoCheck x.head = none →
     let f := s.fifoOf x.head
     let cap := 256 * ((s.bank x.head).fifoSpan + 1)
     ∃ t : State, exec .deferAccept s = .next t ∧ t.regs = s.regs ∧ t.mem = s.mem ∧ t.rs = s.rs ∧ t.staging x.q = x.rest ∧
       t.fifoOf x.head = ⟨f.count + x.k, f.head, (f.tail + x.k) % cap⟩ ∧
       t.sram.bytes = ((List.range x.k).zip x.rows).foldl (fun m r =>
         mwriteN m (s.spadKey (x.head * 65536 + (f.tail + r.1) % cap * 256)) r.2) s.sram.bytes) ∧
   (∀ (s : State) (x : DPend), s.dpend.find? (fun x => !x.push && s.dqReady x) = some x → s.fifoCheck x.head = none →
     let f := s.fifoOf x.head
     let cap := 256 * ((s.bank x.head).fifoSpan + 1)
     ∃ t : State, exec .drainAccept s = .next t ∧ t.regs = s.regs ∧ sameBytes s t ∧
       t.fifoOf x.head = ⟨f.count - x.k, (f.head + x.k) % cap, f.tail⟩ ∧
       (⟨s.clk.tape + 16, .v, .mreg x.mask 0 (BitVec.ofNat 256 (2 ^ x.lanes - 1)), x.iss⟩ : Pend) ∈ t.pend ∧
       let low (b : List Byte) := if x.t = 13 then b.map (fun y => y &&& 0x3F#8) else b
       (⟨s.clk.tape + 16, .v, .rs ((x.base.zip (List.range x.k)).flatMap (fun (ar : Nat × Nat) => cellsAt ar.1 (low (fitBytes 256
         (s.spadRead (x.head * 65536 + (f.head + ar.2) % cap * 256) 256))))), x.iss⟩ : Pend) ∈ t.pend) ∧
   (∀ (s : State) (x : DPend) (c : Nat), s.dpend.find? (fun x => x.push && s.dqReady x) = some x → s.fifoCheck x.head = some c →
     exec .deferAccept s = .next (((s.dropDq x).cancelId .v x.cmd).fault 1 c 0 0 0)) ∧
   (∀ (s : State) (x : DPend) (c : Nat), s.dpend.find? (fun x => !x.push && s.dqReady x) = some x → s.fifoCheck x.head = some c →
     exec .drainAccept s = .next (((s.dropDq x).cancelId .v x.cmd).fault 1 c 0 0 0)))

/-! ### M -/

/-- R246 to R248, R253, R254: a weight load enters the load path with its beats and its least switch cycle; a busy path holds
it, or in a run sets PathOverlap. No register, no byte and no weight changes in the step of its issue.
R244, R246, R247: what a bank holds once a load has switched: each element of the tile from its place in the beats, zero
outside the blocks of a block-diagonal load, and nothing after MWCLR. -/
def Obligations.MatrixLoads : Prop :=
  (∀ (s : State) (i : Instr) (p t : BitVec 3) (z b : BitVec 1) (kind ty mode port beats lat : Nat),
     let K := if t.toNat < 2 then 32 else if t.toNat < 4 then 64 else 128
     (i, kind, ty, mode, port, beats, lat) ∈ [
       (.mldw p t b, 0, t.toNat, 0, p.toNat, 32, 32), (.mldb p t b, 2, t.toNat, 0, p.toNat, 64, 64),
       (.mldwBd p t 0 z b, 1, t.toNat, 1 + z.toNat, p.toNat, if z = 0 then 8 else 16, 32),
       (.mldwBd p t 1 z b, 1, t.toNat, 3 + z.toNat, p.toNat, K, if K < 32 then 32 else K),
       (.mwclr t b, 3, t.toNat, 0, 0, 0, 1)] →
     (s.me.loads.all (fun l => l.left = 0) = true → (s.run.phase = .running ∨ ∀ x, s.me.stream = some x → x.bank ≠ b.toNat) →
       ∃ u : State, exec i s = .next u ∧ sameRegs s u ∧ samePackage s u ∧ u.rs = s.rs ∧ u.me = { s.me with
         loads := s.me.loads ++ [⟨b.toNat, kind, ty, mode, port, beats, [], s.clk.tape, s.clk.tape + lat, (s.issued .m 1 .open).2⟩] }) ∧
     (s.me.loads.any (fun l => l.left ≠ 0) = true →
       (s.run.phase = .running → ∃ u : State, exec i s = .next u ∧ u.me = s.me ∧
         u.ctl = { s.ctl with msticky := s.ctl.msticky ||| 64 }) ∧
       (s.run.phase ≠ .running → exec i s = .next { s with cm := { s.cm with next := s.clk.tape + 1 } }))) ∧
  (∀ (w : WBank) (l : MLoad) (k n : Nat),
     let z := tySize (mType l.t)
     let el (v : WBank) := nthD 0 (nthD [] v.w n) k
     k < tileK l.t → n < tileN l.t →
     (l.kind = 0 → (w.load l).fmt = l.t ∧ (w.load l).mode = 0 ∧
       el (w.load l) = beatEl z ((nthD [] l.popped (k / (tileK l.t / 32))).drop (k % (tileK l.t / 32) * tileN l.t * z)) n) ∧
     (l.kind = 1 → (w.load l).fmt = l.t ∧ (w.load l).mode = l.mode ∧
       let q := if l.mode = 1 ∨ l.mode = 3 then 8 else 16
       (k / q ≠ n / q → el (w.load l) = 0) ∧
       (k / q = n / q → el (w.load l) = beatEl z (nthD [] l.popped (if l.mode ≤ 2 then k % q else k)) (n % q))) ∧
     (l.kind = 2 → (w.load l).w = w.w ∧ (w.load l).fmt = w.fmt ∧ (w.load l).metaValid = true) ∧
     (l.kind = 3 → (w.load l).fmt = l.t ∧ el (w.load l) = 0))

/-- R240, R249 to R254, R259: a stream captures its view, context and profile and enters the stream path; the checks before it
fault in their order; a busy path holds it, or in a run sets PathOverlap.
R237 to R241, R251: a row accumulates element by element under its profile, onto its accumulator row or onto zeros, and is
seen in the next cycle, and its events reach MSTICKY then; it changes no byte before.
R107, R407: with PendEn a row that an untimed command reads while a write to it is pending cancels the command, and M faults. -/
def Obligations.MatrixStreams : Prop :=
  (∀ (s : State) (i : Instr) (c : BitVec 2) (w p t : BitVec 3) (im : BitVec 16) (gather neg zero : Bool),
     (i, gather, neg, zero) ∈ [(.mmul c w p t im, false, false, true), (.macc c w p t im, false, false, false),
       (.maccn c w p t im, false, true, false), (.mmulg c w p t im, true, false, true), (.maccg c w p t im, true, false, false)] →
     let x := s.mctx c.toNat
     let v := s.view w.toNat
     let id := if im = 0 then s.ctl.defProf else im.toNat
     let starts : Prop := ∃ u : State, exec i s = .next u ∧ sameRegs s u ∧ samePackage s u ∧ u.rs = s.rs ∧ u.me = { s.me with
       stream := some ⟨v, 0, v.rows, gather, p.toNat, t.toNat, id, neg, zero, x.bank, x.scaled, s.clk.tape, s.clk.tape,
         (s.issued .m 1 .open).2, s.clustersOff⟩ }
     (profOf id = none → exec i s = .next (s.fault 2 0x046 0 0 0)) ∧
     (∀ pr, profOf id = some pr →
       (pr.types.contains (mType t.toNat) = false → exec i s = .next (s.fault 2 0x043 0 0 0)) ∧
       (pr.types.contains (mType t.toNat) = true →
         (s.me.stream = none → s.run.phase = .running → starts) ∧
         (s.me.stream = none → s.run.phase ≠ .running → (∀ l ∈ s.me.loads, l.bank ≠ x.bank) → v.kind = 2 → v.type = pr.res →
           fmtMatch (s.wbank x.bank).fmt t.toNat = true → (∀ r, r < v.rows → s.regOn (v.addr r) = true) →
           (gather = true ∨ (s.agen p.toNat).st = 1 ∧ (s.agen p.toNat).past ((s.agen p.toNat).k + v.rows - 1) = false) → starts) ∧
         (s.me.stream = none → s.run.phase ≠ .running → (∀ l ∈ s.me.loads, l.bank ≠ x.bank) → (v.kind ≠ 2 ∨ v.type ≠ pr.res) →
           exec i s = .next (s.fault 2 0x181 0 0 0)) ∧
         (s.me.stream = none → s.run.phase ≠ .running → (∀ l ∈ s.me.loads, l.bank ≠ x.bank) → v.kind = 2 → v.type = pr.res →
           fmtMatch (s.wbank x.bank).fmt t.toNat = false → exec i s = .next (s.fault 2 0x180 0 0 0)) ∧
         (s.me.stream = none → s.run.phase ≠ .running → (∀ l ∈ s.me.loads, l.bank ≠ x.bank) → v.kind = 2 → v.type = pr.res →
           fmtMatch (s.wbank x.bank).fmt t.toNat = true →
           ((∃ r, r < v.rows ∧ s.regOn (v.addr r) = false) → exec i s = .next (s.fault 2 0x143 0 0 0)) ∧
           ((∀ r, r < v.rows → s.regOn (v.addr r) = true) → gather = false →
             (s.agen p.toNat).st ≠ 1 ∨ (s.agen p.toNat).past ((s.agen p.toNat).k + v.rows - 1) = true →
             exec i s = .next (s.fault 2 0x144 0 0 0))) ∧
         (s.me.stream.isSome = true → s.run.phase = .running → ∃ u : State, exec i s = .next u ∧ u.me = s.me ∧ u.rs = s.rs ∧
           u.ctl = { s.ctl with msticky := s.ctl.msticky ||| 64 }) ∧
         (s.run.phase ≠ .running → s.me.stream.isSome = true ∨ (∃ l ∈ s.me.loads, l.bank = x.bank) →
           exec i s = .next { s with cm := { s.cm with next := s.clk.tape + 1 } })))) ∧
  (∀ (s : State) (r : MRow) (pr : Prof), profOf r.prof = some pr → r.zero = false → s.mShadow r.cmd r.addr = true →
     s.accumulate r = { s with me := { s.me with rows := s.me.rows.filter (fun x => x ≠ r) } }.mShadowed r.cmd) ∧
  (∀ (s : State) (r : MRow) (pr : Prof), profOf r.prof = some pr → s.regOn r.addr = true →
     r.zero = true ∨ s.mShadow r.cmd r.addr = false →
     let z := tySize pr.res
     let old (n : Nat) := if r.zero then fieldAt (List.replicate 256 0) (z * n) z else fieldAt (s.rsRead r.addr 256) (z * n) z
     let outs := (List.range r.terms.length).map (fun n => pr.apply (nthD [] r.terms n) (old n))
     let t := s.accumulate r
     let ev := outs.foldl (fun e x => e ||| x.2) (0 : Ev)
     t.pend = s.pend ++ (if ev = 0 then [] else [(⟨s.clk.tape + 1, .m, .msticky (evM ev), r.iss⟩ : Pend)]) ++
       [(⟨s.clk.tape + 1, .m, .rs (cellsAt r.addr (outs.flatMap (fun x => leBytes z x.1))), r.iss⟩ : Pend)] ∧
     t.rs = s.rs ∧ t.regs = s.regs ∧ samePackage s t ∧ t.me.rows = s.me.rows.filter (fun x => x ≠ r) ∧ t.ctl = s.ctl)

/-- R250, R253, R255 to R257: drains and MCLR enter the drain path, MSTAT pushes a status beat four cycles on, MSFMT writes a
context; checks fault, those of MCLR too; a busy path holds each of them, or in a run sets PathOverlap. -/
def Obligations.MatrixDrains : Prop :=
  ∀ (s : State) (i : Instr) (c : BitVec 2) (w p t : BitVec 3) (im : BitVec 16) (h : BitVec 6) (a b : BitVec 1) (kind sh : Nat),
    let v := s.view w.toNat
    let id := if im = 0 then s.ctl.defProf else im.toNat
    let cmd := (s.issued .m 1 .open).2
    let on (d : MDrain) (j : Instr) : Prop := ∃ u : State, exec j s = .next u ∧ sameRegs s u ∧ samePackage s u ∧ u.rs = s.rs ∧
      u.me = { s.me with drain := some d }
    ((i, kind, sh) ∈ [(.mdrn w p t im, 0, 0), (.mdrnc w p t im, 1, 0), (.mdrnr c w p t im, 2, (s.mctx c.toNat).shift)] →
      (profOf id = none → exec i s = .next (s.fault 2 0x046 0 0 0)) ∧
      (∀ pr, profOf id = some pr → s.me.drain = none →
        (s.run.phase = .running ∨ (v.kind = 2 ∧ v.type = pr.res ∧ ∀ r, r < v.rows → s.regOn (v.addr r) = true) →
          on ⟨kind, v, 0, v.rows, p.toNat, t.toNat, pr.res, sh, s.clk.tape, [], s.clk.tape, cmd, s.clustersOff⟩ i) ∧
        (s.run.phase ≠ .running → v.kind ≠ 2 ∨ v.type ≠ pr.res → exec i s = .next (s.fault 2 0x181 0 0 0)) ∧
        (s.run.phase ≠ .running → v.kind = 2 → v.type = pr.res → (∃ r, r < v.rows ∧ s.regOn (v.addr r) = false) →
          exec i s = .next (s.fault 2 0x143 0 0 0))) ∧
      (∀ pr, profOf id = some pr → s.me.drain.isSome = true →
        (s.run.phase ≠ .running → exec i s = .next { s with cm := { s.cm with next := s.clk.tape + 1 } }) ∧
        (s.run.phase = .running → ∃ u : State, exec i s = .next u ∧ u.me = s.me ∧ u.rs = s.rs ∧
          u.ctl = { s.ctl with msticky := s.ctl.msticky ||| 64 }))) ∧
    (s.me.drain = none → s.run.phase ≠ .running →
      (v.kind ≠ 2 → exec (.mclr w) s = .next (s.fault 2 0x181 0 0 0)) ∧
      (v.kind = 2 → (∃ r, r < v.rows ∧ s.regOn (v.addr r) = false) → exec (.mclr w) s = .next (s.fault 2 0x143 0 0 0))) ∧
    (s.me.drain = none →
      (s.run.phase = .running ∨ (v.kind = 2 ∧ ∀ r, r < v.rows → s.regOn (v.addr r) = true) →
        on ⟨3, v, 0, v.rows, 0, 0, 0, 0, s.clk.tape, [], s.clk.tape, cmd, s.clustersOff⟩ (.mclr w)) ∧
      (∃ u : State, exec (.mstat p) s = .next u ∧ sameRegs s u ∧ samePackage s u ∧ u.rs = s.rs ∧ ∃ st : List Byte, u.me = { s.me with
        pushing := s.me.pushing ++ [⟨4, .reset, 0, 0, p.toNat, 0, 0, 0, s.clk.tape, [(s.clk.tape + 4, st)], s.clk.tape, cmd, []⟩] } ∧ st.length = 256 ∧
        fieldAt st 0 1 = s.me.bank0.fmt % 256 ∧ fieldAt st 4 1 = s.me.bank1.fmt % 256 ∧ fieldAt st 16 8 = s.ctl.msticky.toNat)) ∧
    (s.me.drain.isSome = true →
      (∀ j ∈ [Instr.mclr w, .mstat p], s.run.phase ≠ .running → exec j s = .next { s with cm := { s.cm with next := s.clk.tape + 1 } }) ∧
      (∀ j ∈ [Instr.mclr w, .mstat p], s.run.phase = .running → ∃ u : State, exec j s = .next u ∧ u.me = s.me ∧ u.rs = s.rs ∧
        u.ctl = { s.ctl with msticky := s.ctl.msticky ||| 64 })) ∧
    (∃ u : State, exec (.msfmt c h a b) s = .next u ∧ sameRegs s u ∧ samePackage s u ∧ u.rs = s.rs ∧
      u.mctx c.toNat = ⟨b.toNat, decide (a = 1), h.toNat⟩ ∧ (∀ k, k ≠ c.toNat → u.mctx k = s.mctx k) ∧
      u.me.bank0 = s.me.bank0 ∧ u.me.bank1 = s.me.bank1)

/-! ### C -/

/-- R126, R127: the walk of a record visits its elements with index 0 innermost, at the sums of index times stride, and its hull
holds every byte of every element.
R65, R81, R82, R107, R113, R125, R127, R133: CCPY, CXPOSE and CCVT check the source's hull and then the destination's, and issue
with a write for every element; overlapping hulls, an unfit record, a byte in error and a pending word fault, and a held segment
holds the word. -/
def Obligations.CopyForms : Prop :=
  (∀ (r : Shape) (ss ds : List Int),
     (r.walk ss ds).length = r.total ∧
     (∀ a b c d : Nat, a < r.count 0 → b < r.count 1 → c < r.count 2 → d < r.count 3 →
       let off (st : List Int) : Int := a * nthD 0 st 0 + b * nthD 0 st 1 + c * nthD 0 st 2 + d * nthD 0 st 3
       (r.walk ss ds)[a + r.count 0 * (b + r.count 1 * (c + r.count 2 * d))]? = some (off ss, off ds)) ∧
     (∀ (o : Int) (n : Nat), ∀ w ∈ r.walk ss ds, (r.hull ss o n).1 ≤ o + w.1 ∧ o + w.1 + n ≤ (r.hull ss o n).2)) ∧
  (∀ (s : State) (i : Instr) (d a r c : BitVec 4) (x y : BitVec 5) (slot : RecSlot) (fit : Bool) (ds : List Int) (cvt : Bool),
     s.run.phase ≠ .running → s.cClear [.c d.toNat, .c a.toNat, .s x.toNat, .s y.toNat] → tget none s.cx.recs r.toNat = some slot →
     let q := shapeOf slot.bytes
     (i, fit, ds, cvt) ∈ [(.ccpy d a r c x y, q.plain, q.ds, false), (.ccvt d a r c x y, q.cvtOk, q.ds, true),
       (.cxpose d a r c x y, q.plain, [nthD 0 q.ds 1, nthD 0 q.ds 0, nthD 0 q.ds 2, nthD 0 q.ds 3], false)] →
     let so : Int := (s.sreg y.toNat).toNat
     let dO : Int := (s.sreg x.toNat).toNat
     let kd := s.creg d.toNat
     let ka := s.creg a.toNat
     let n := 2 ^ q.el
     let sh := q.hull q.ss so n
     let dh := q.hull ds dO (if cvt then tySize q.tb else n)
     let ps := (q.walk q.ss ds).map (fun w => ((so + w.1).toNat, (dO + w.2).toNat))
     let j : CJob := ⟨some c.toNat, s.sideLat ka sh false + s.sideLat kd dh true, [], [],
       s.segsOf ka sh ++ s.segsOf kd dh, false, if cvt then some (q.ta, q.tb) else none, ka, kd⟩
     let src := s.afterCut ka (s.checkAcc ka 1 sh.1 (sh.2 - sh.1).toNat)
     let dst := s.afterCut kd (s.checkAcc kd 2 dh.1 (dh.2 - dh.1).toNat)
     let good (p : Nat × Nat) : Prop := s.badAt ka p.1 n = false ∧ (s.pendEn = true → isSpad ka = true → s.pendingSpad p.1 n = false)
     let held : Prop := ∃ t : State, exec i s = .next t ∧ t.regs = s.regs ∧ samePackage s t ∧ t.cc.cmds = s.cc.cmds ∧ t.cx = s.cx ∧
       t.cc.next = s.clk.tape + 1
     (fit = false → exec i s = .next (s.fault 3 0x0C1 0 0 0)) ∧
     (fit = true →
       (∀ e, src = .bad e → exec i s = .next (s.fault 3 e ka (BitVec.ofInt 64 sh.1) 0)) ∧
       (∀ g, src = .park g → held) ∧
       (src = .ok →
         (∀ e, dst = .bad e → exec i s = .next (s.fault 3 e kd (BitVec.ofInt 64 dh.1) 0)) ∧
         (∀ g, dst = .park g → held) ∧
         (dst = .ok →
           (capObj kd = capObj ka → dh.1 < sh.2 → sh.1 < dh.2 → exec i s = .next (s.fault 3 0x0C3 kd (BitVec.ofInt 64 dh.1) 0)) ∧
           (capObj kd ≠ capObj ka ∨ sh.2 ≤ dh.1 ∨ dh.2 ≤ sh.1 →
             (∀ before p rest, ps = before ++ p :: rest → (∀ x ∈ before, good x) →
               (s.badAt ka p.1 n = true → exec i s = .next (s.fault 3 0x08D ka (BitVec.ofNat 64 p.1) 0)) ∧
               (s.badAt ka p.1 n = false → s.pendEn = true → isSpad ka = true → s.pendingSpad p.1 n = true →
                 exec i s = .next (s.fault 3 0x002 ka (BitVec.ofNat 64 p.1) 0))) ∧
             ((∀ p ∈ ps, good p) →
               ∃ t : State, exec i s = .next t ∧ s.copies t (s.moving ka n ps (fun o b => s.cWrite kd o b true) j)))))))

/-- R134 to R136: CFILL writes its value over a walk; CCPYR copies into the register space; CGATH and CSCAT move rows whose places
an index list gives, read from the scratchpad before they issue (R95). -/
def Obligations.CopyRows : Prop :=
  ∀ (s : State) (d a r c : BitVec 4) (x y : BitVec 5) (slot : RecSlot),
    s.run.phase ≠ .running → tget none s.cx.recs r.toNat = some slot →
    let q := shapeOf slot.bytes
    let so : Int := (s.sreg y.toNat).toNat
    let dO : Int := (s.sreg x.toNat).toNat
    let kd := s.creg d.toNat
    let ka := s.creg a.toNat
    let n := 2 ^ q.el
    let sh := q.hull q.ss so n
    let dh := q.hull q.ds dO n
    let readable (m : Nat) (ps : List (Nat × Nat)) : Prop :=
      ∀ p ∈ ps, s.badAt ka p.1 m = false ∧ (s.pendEn = true → isSpad ka = true → s.pendingSpad p.1 m = false)
    (s.cClear [.c d.toNat, .s x.toNat, .s y.toNat] → q.plain = true → (∀ v ∈ q.ss, v = 0) →
      s.afterCut kd (s.checkAcc kd 2 dh.1 (dh.2 - dh.1).toNat) = .ok →
      ∃ t : State, exec (.cfill d r c x y) s = .next t ∧ s.copies t ⟨some c.toNat, s.sideLat kd dh true,
        (q.walk q.ss q.ds).map (fun w =>
          s.cWrite kd (dO + w.2).toNat ((List.range n).map (fun j => (leBytes 8 (s.sreg y.toNat).toNat).getD (j % 8) 0)) true),
        [], s.segsOf kd dh, false, none, 0, kd⟩) ∧
    (s.cClear [.c a.toNat, .s x.toNat, .s y.toNat] → q.plain = true → s.afterCut ka (s.checkAcc ka 1 sh.1 (sh.2 - sh.1).toNat) = .ok →
      (dO < 2 ^ 18 → 0 ≤ dh.1 → dh.2 ≤ 262144 →
        (s.regOnRange dh.1.toNat (dh.2 - dh.1).toNat = false → exec (.ccpyr a r c x y) s = .next (s.fault 3 0x143 0 (BitVec.ofInt 64 dO) 0)) ∧
        (s.regOnRange dh.1.toNat (dh.2 - dh.1).toNat = true →
          let ps := (q.walk q.ss q.ds).map (fun w => ((so + w.1).toNat, (dO + w.2).toNat))
          readable n ps → ∃ t : State, exec (.ccpyr a r c x y) s = .next t ∧ s.copies t (s.moving ka n ps (fun o b => .rs (cellsAt o b))
            ⟨some c.toNat, s.sideLat ka sh false, [], [], s.segsOf ka sh, false, none, ka, 0⟩))) ∧
      (2 ^ 18 ≤ dO ∨ dh.1 < 0 ∨ 262144 < dh.2 → exec (.ccpyr a r c x y) s = .next (s.fault 3 0x0C8 0 (BitVec.ofInt 64 dO) 0))) ∧
    (q.rows 65536 = true → ∀ idx : List Nat,
      let m := q.count 0 * n
      let near (b st : Int) := (List.range (q.count 1)).map (fun (k : Nat) => b + (k : Int) * st)
      let far (b st : Int) := idx.map (fun (k : Nat) => b + (k : Int) * st)
      let moves (i : Instr) (f g : List Int) : Prop := s.sideRows ka 1 m f = .ok () → s.sideRows kd 2 m g = .ok () →
        overlap kd ka (rowsHull f m) (rowsHull g m) = false →
        let ps := (f.zip g).map (fun w => (w.1.toNat, w.2.toNat))
        readable m ps → ∃ t : State, exec i s = .next t ∧ s.copies t (s.moving ka m ps (fun o b => s.cWrite kd o b true)
          ⟨some c.toNat, s.sideLat ka (rowsHull f m) false + s.sideLat kd (rowsHull g m) true, [], [],
            f.flatMap (fun o => s.segsOf ka (o, o + m)) ++ g.flatMap (fun o => s.segsOf kd (o, o + m)),
            false, none, ka, kd⟩)
      let list (i : Instr) (v : Nat) (go : Prop) : Prop :=
        (2 ^ 24 ≤ v → exec i s = .next (s.fault 3 0x0C1 0 0 0)) ∧
        (v < 2 ^ 24 → s.preHas v (4 * q.count 1) = false →
          (∀ e, s.checkSpad v (4 * q.count 1) s.ctl.world = .bad e → exec i s = .next (s.fault 3 e 0 (BitVec.ofNat 64 v) 0)) ∧
          (s.checkSpad v (4 * q.count 1) s.ctl.world = .ok →
            (s.pendEn = true → s.pendingSpad v (4 * q.count 1) = true → exec i s = .next (s.fault 3 0x002 0 (BitVec.ofNat 64 v) 0)) ∧
            ((s.pendEn && s.pendingSpad v (4 * q.count 1)) = false →
              (s.waitingFor .pre = true → exec i s = .next s) ∧
              (s.waitingFor .pre = false → exec i s = .next { s with sram := { s.sram with
                queue := s.sram.queue ++ s.rowReads 11 .pre [(v, v, 4 * q.count 1)] } })))) ∧
        (v < 2 ^ 24 → s.preHas v (4 * q.count 1) = true → s.waitingFor .pre = false → go)
      (s.cClear [.c d.toNat, .c a.toNat, .s x.toNat, .s y.toNat, .s (y.toNat + 1)] →
        list (.cgath d a r c x y) (s.sreg (y.toNat + 1)).toNat (s.indexList (s.sreg (y.toNat + 1)) (q.count 1) = idx →
          moves (.cgath d a r c x y) (far so (nthD 0 q.ss 1)) (near dO (nthD 0 q.ds 1)))) ∧
      (s.cClear [.c d.toNat, .c a.toNat, .s x.toNat, .s (x.toNat + 1), .s y.toNat] →
        list (.cscat d a r c x y) (s.sreg (x.toNat + 1)).toNat (s.indexList (s.sreg (x.toNat + 1)) (q.count 1) = idx →
          moves (.cscat d a r c x y) (near so (nthD 0 q.ss 1)) (far dO (nthD 0 q.ds 1)))) ∧
      (s.preHas (s.sreg (y.toNat + 1)).toNat (4 * q.count 1) = true → s.indexList (s.sreg (y.toNat + 1)) (q.count 1) = idx →
        idx.length = q.count 1 ∧ ∀ j, j < q.count 1 → nthD 0 idx j = fieldAt (s.preGot (s.sreg (y.toNat + 1)).toNat (4 * q.count 1)) (4 * j) 4))

/-- R95, R128, R129: CLDREC takes a well-formed record into its slot as it completes, a record of the scratchpad read at its banks
before the issue; RCFENCE reloads every valid slot, or the slot that it names, at its issue, and completes when its reads are done.
R30, R95, R123, R130 to R132, R134, R136: outside a run a timed form faults with ILL_CONTEXT; inside it asks the banks and ports
for its pieces, in their cycles, and moves no byte in the step of its issue; a piece that has lost its slot sets CCollide. -/
def Obligations.RecordsAndTimedCopies : Prop :=
  (∀ (s : State) (a r : BitVec 4) (y : BitVec 5), s.run.phase ≠ .running →
     let k := s.creg a.toNat
     let o : Int := (s.sreg y.toNat).toNat
     let has (k : Cap) (o : Nat) : Prop := isSpad k = true → s.preHas o 64 = true
     let may (k : Cap) (o : Int) : Prop := o % 64 = 0 ∧ (isSpad k = true ∧ s.preHas o.toNat 64 = true ∨
       s.afterCut k (s.checkAcc k 1 o 64) = .ok ∧ s.badAt k o.toNat 64 = false ∧
         (s.pendEn = true → isSpad k = true → s.pendingSpad o.toNat 64 = false))
     let rec_ (k : Cap) (o : Nat) : List Byte := if isSpad k = true then s.preGot o 64 else s.objRead (capObj k) o 64
     (s.cClear [.c a.toNat, .s y.toNat] →
       (o % 64 ≠ 0 → exec (.cldrec a r y) s = .next (s.fault 3 0x081 k (BitVec.ofInt 64 o) 0)) ∧
       (∀ e, o % 64 = 0 → (isSpad k = true → s.preHas o.toNat 64 = false) → s.afterCut k (s.checkAcc k 1 o 64) = .bad e →
         exec (.cldrec a r y) s = .next (s.fault 3 e k (BitVec.ofInt 64 o) 0)) ∧
       (may k o → s.waitingFor .pre = true → exec (.cldrec a r y) s = .next s) ∧
       (may k o → s.waitingFor .pre = false →
         (isSpad k = true → s.preHas o.toNat 64 = false → exec (.cldrec a r y) s = .next { s with sram := { s.sram with
           queue := s.sram.queue ++ s.rowReads 11 .pre [(o.toNat, o.toNat, 64)] } }) ∧
         (has k o.toNat → (shapeOf (rec_ k o.toNat)).ok = true → ∃ t : State, exec (.cldrec a r y) s = .next t ∧ s.copies t
           (CJob.plain none (s.sideLat k (o, o + 64) false) [.recSlot r.toNat k o.toNat (rec_ k o.toNat)] (s.segsOf k (o, o + 64)))) ∧
         (has k o.toNat → (shapeOf (rec_ k o.toNat)).ok = false →
           exec (.cldrec a r y) s = .next (s.fault 3 0x0C1 k (BitVec.ofInt 64 o) 0)))) ∧
     (s.waitingFor .pre = false →
       (tget none s.cx.recs r.toNat = none → exec (.rcfence r 0) s = .next (s.fault 3 0x0C2 0 0 0)) ∧
       (∀ slot, tget none s.cx.recs r.toNat = some slot → may slot.cap slot.off →
         (isSpad slot.cap = true → s.preHas slot.off 64 = false → exec (.rcfence r 0) s = .next { s with sram := { s.sram with
           queue := s.sram.queue ++ s.rowReads 11 .pre [(slot.off, slot.off, 64)] } }) ∧
         (has slot.cap slot.off → (shapeOf (rec_ slot.cap slot.off)).ok = true →
           ∃ t : State, exec (.rcfence r 0) s = .next t ∧ s.copies t (CJob.plain none
               (Nat.max 1 (s.sideLat slot.cap (slot.off, slot.off + 64) false)) [] (s.segsOf slot.cap (slot.off, slot.off + 64))) ∧
             tget none t.cx.recs r.toNat = some { slot with bytes := rec_ slot.cap slot.off } ∧
             ∀ j, j ≠ r.toNat → tget none t.cx.recs j = tget none s.cx.recs j)) ∧
       (∀ u, (∀ x ∈ s.reloadRows true (List.range 16), s.preHas x.1 x.2 = true) → s.reload true (List.range 16) = .ok u →
         ∃ t : State, exec (.rcfence r 1) s = .next t ∧ t.cx.recs = u.cx.recs ∧ ∃ j : CJob, s.copies t j ∧ j.ws = [] ∧
           ∀ n slot, n < 16 → tget none s.cx.recs n = some slot → s.sideLat slot.cap (slot.off, slot.off + 64) false ≤ j.lat))) ∧
  (∀ (s : State) (d a r c : BitVec 4) (x y : BitVec 5),
     let is := [Instr.ccpyt d a r c x y, .cgatht d a r c x y, .cscatt d a r c x y, .ccpyrt a r c x y]
     (s.run.phase ≠ .running → ∀ i ∈ is, exec i s = .next (s.fault 3 0x045 0 0 0)) ∧
     (s.run.phase = .running → ∀ i ∈ is, ∃ t : State, exec i s = .next t ∧ t.regs = s.regs ∧ sameBytes s t ∧ t.mem = s.mem ∧
       t.run.c = s.run.c.adv s.clk.tape 1 ∧ (∃ new, t.sram.timed = s.sram.timed ++ new)) ∧
     (s.run.phase = .running → ∀ slot, tget none s.cx.recs r.toNat = some slot →
       let q := shapeOf slot.bytes
       let ka := s.creg a.toNat
       let kd := s.creg d.toNat
       let so : Int := (s.sreg y.toNat).toNat
       let dO : Int := (s.sreg x.toNat).toNat
       let n := q.count 0 * 2 ^ q.el
       let rows (b st : Int) := (List.range (q.count 1)).map (fun (k : Nat) => b + (k : Int) * st)
       let at_ (l : List Nat) (b st : Int) := l.map (fun (k : Nat) => b + (k : Int) * st)
       let cut (f g : List Int) : List (Int × Int × Nat) := (f.zip g).flatMap (fun w =>
         (List.range ((n + 63) / 64)).map (fun (j : Nat) => (w.1 + 64 * j, w.2 + 64 * j, Nat.min 64 (n - 64 * j))))
       let moved (i : Instr) (u : State) : Prop := exec i s = .next { u with run := { u.run with c := u.run.c.adv s.clk.tape 1 } }
       moved (.ccpyt d a r c x y) (s.timedMove ka kd q ((q.walk q.ss q.ds).flatMap (fun w =>
         (List.range (2 ^ q.el / 64)).map (fun (j : Nat) => (so + w.1 + 64 * j, dO + w.2 + 64 * j, 64))))) ∧
       (let l := s.timedList (s.sreg (y.toNat + 1)) (q.count 1)
        moved (.cgatht d a r c x y) (l.1.timedMove ka kd q (cut (at_ l.2 so (nthD 0 q.ss 1)) (rows dO (nthD 0 q.ds 1))))) ∧
       (let l := s.timedList (s.sreg (x.toNat + 1)) (q.count 1)
        moved (.cscatt d a r c x y) (l.1.timedMove ka kd q (cut (rows so (nthD 0 q.ss 1)) (at_ l.2 dO (nthD 0 q.ds 1)))))) ∧
     (s.run.phase = .running → isSpad (s.creg a.toNat) = true → ∀ slot, tget none s.cx.recs r.toNat = some slot →
       let q := shapeOf slot.bytes
       let k := s.creg a.toNat
       let o := (s.sreg y.toNat).toNat
       let p := (s.sreg x.toNat).toNat
       q.el = 6 → q.total = 1 → p + 64 ≤ 2 ^ 18 → p % 32768 + 64 ≤ 32768 → o % 65536 + 64 ≤ 65536 → capLower k ≤ o → o + 64 ≤ capUpper k →
       ∃ t : State, exec (.ccpyrt a r c x y) s = .next t ∧ t.sram.timed = s.sram.timed ++ [⟨s.clk.tape + 1, 16 * s.coreJ + 1,
         s.sram.order, o, true, .move 64 (s.clk.tape + 1 + s.spadLat o) (.rs (if s.regOn p then [(p, 0)] else [])) (16 * s.coreJ + 1),
         s.clk.tape, true⟩] ∧ (s.regOn p = false → t.ctl.regsticky = s.ctl.regsticky ||| 1))) ∧
  (∀ (s : State) (a d : Cap) (q : Shape) (o p c : Nat),
     let k := if isSpad a then d else a
     let port := s.portAt (capObj k) (capLower k)
     let per := if port < 8 then 24 else 2
     let slot := q.first % (256 * per)
     let num := 16 * s.coreJ + 1
     let asked (u : State) (addr : Nat) (act : TReqDo) : State := { u with sram := { u.sram with
       timed := u.sram.timed ++ [⟨c, num, u.sram.order, addr, true, act, s.clk.tape, true⟩], order := u.sram.order + 1 } }
     let collided : State := { s with pend := s.pend ++ [⟨c, .c, .csticky 2, s.clk.tape⟩] }
     let lost : Prop := ∃ x ∈ s.env.rivals, x.1 = c ∧ x.2.1 = 7 + port ∧ x.2.2.1 = slot ∧ x.2.2.2 < s.ctl.coreId
     let moved (u : State) : Prop := s.timedMove a d q [((o : Int), (p : Int), 64)] = u
     isSpad a ≠ isSpad d → capLower a ≤ o → o + 64 ≤ capUpper a → capLower d ≤ p → p + 64 ≤ capUpper d →
     (isSpad a = true → o % 65536 + 64 ≤ 65536) → (isSpad d = true → p % 65536 + 64 ≤ 65536) →
     s.clk.tape < c → c % 256 = slot / per → (∀ b, s.clk.tape < b → b < c → b % 256 ≠ slot / per) →
     (isSpad a = true →
       (¬ lost → moved (asked s o (.move 64 (c + s.writeLatN (capObj d) p 64) (.obj (capObj d) p []) num))) ∧
       (lost → moved (asked collided o .touch))) ∧
     (isSpad a = false →
       (¬ lost → moved (asked s p (.fetch a o 64 (c + s.readLatN (capObj a) o 64) (.sram [(s.spadKey p, 0)]) num))) ∧
       (lost → moved collided))) ∧
  (∀ (s : State) (v : W64) (n : Nat),
     let a := v.toNat % 2 ^ 24
     a % 65536 + 4 * n ≤ 65536 → s.bankUsable (a / 65536) = true →
     (∀ x ∈ s.sram.timed, x.cycle = s.clk.tape → s.reqKey x / 65536 ≠ s.bankKey (a / 65536)) →
     s.timedList v n = ({ s with sram := { s.sram with
       timed := s.sram.timed ++ [⟨s.clk.tape, 16 * s.coreJ + 1, s.sram.order, a, true, .touch, s.clk.tape, true⟩]
       order := s.sram.order + 1 } }, (List.range n).map (fun i => fieldAt (s.spadRead a (4 * n)) (4 * i) 4)))

/-- R137 to R139: CPREF, CFLUSH and CINVAL check their range and complete, the last two with the fault of a range that fails; CWRW and CATOM act on one aligned dword as they complete;
MIGRATE reports a page that it may not move, and otherwise takes a page of its pool and holds its segment until the copy. -/
def Obligations.MemoryServices : Prop :=
  ∀ (s : State) (d a r o c : BitVec 4) (x y : BitVec 5) (slot : RecSlot), s.run.phase ≠ .running →
    let kd := s.creg d.toNat
    let ka := s.creg a.toNat
    let sx := (s.sreg x.toNat).toNat
    let sy := (s.sreg y.toNat).toNat
    let q := shapeOf slot.bytes
    let h := q.hull q.ss sy (2 ^ q.el)
    (s.cClear [.c a.toNat, .s y.toNat] → tget none s.cx.recs r.toNat = some slot → q.plain = true → (∀ v ∈ q.ds, v = 0) →
      (∃ t : State, exec (.cpref a r y) s = .next t ∧ s.copies t (CJob.plain none 1 [] [])) ∧
      (∀ (i : Instr) (drop : Bool), (i, drop) ∈ [(.cflush a r y, false), (.cinval a r y, true)] →
        (s.afterCut ka (s.checkAcc ka 1 h.1 (h.2 - h.1).toNat) = .ok → ∃ t : State, exec i s = .next t ∧ s.copies t
          (CJob.plain none (s.sideLat ka h true) [.writeback (capObj ka) h.1.toNat h.2.toNat drop] (s.segsOf ka h))) ∧
        (∀ e, s.afterCut ka (s.checkAcc ka 1 h.1 (h.2 - h.1).toNat) = .bad e →
          exec i s = .next (s.fault 3 e ka (BitVec.ofInt 64 h.1) 0)))) ∧
    (s.cClear [.c a.toNat, .s y.toNat] → ∀ i ∈ [Instr.cpref a r y, .cflush a r y, .cinval a r y],
      (tget none s.cx.recs r.toNat = none → exec i s = .next (s.fault 3 0x0C2 0 0 0)) ∧
      (tget none s.cx.recs r.toNat = some slot → q.plain = false ∨ (∃ v ∈ q.ds, v ≠ 0) → exec i s = .next (s.fault 3 0x0C1 0 0 0))) ∧
    (s.cClear [.c d.toNat, .s x.toNat, .s y.toNat] →
      (sx % 8 = 0 → s.afterCut kd (s.checkAcc kd 2 sx 8) = .ok → ∃ t : State, exec (.cwrw d c x y) s = .next t ∧ s.copies t
        ⟨some c.toNat, s.sideLat kd (sx, sx + 8) true, [s.cWrite kd sx (leBytes 8 sy) false], [], s.segsOf kd (sx, sx + 8), false, none,
          0, kd⟩) ∧
      (∀ e, sx % 8 = 0 → s.afterCut kd (s.checkAcc kd 2 sx 8) = .bad e →
        exec (.cwrw d c x y) s = .next (s.fault 3 e kd (BitVec.ofNat 64 sx) 0)) ∧
      (∀ e, sx % 8 = 0 → s.afterCut kd (s.checkAcc kd 7 sx 8) = .bad e →
        exec (.catom d o c x y) s = .next (s.fault 3 e kd (BitVec.ofNat 64 sx) 0)) ∧
      (sx % 8 = 0 → s.afterCut kd (s.checkAcc kd 7 sx 8) = .ok →
        (s.badAt kd sx 8 = true → exec (.catom d o c x y) s = .next (s.fault 3 0x08D kd (BitVec.ofNat 64 sx) 0)) ∧
        (s.badAt kd sx 8 = false → s.pendEn = true → isSpad kd = true → s.pendingSpad sx 8 = true →
          exec (.catom d o c x y) s = .next (s.fault 3 0x002 kd (BitVec.ofNat 64 sx) 0)) ∧
        (s.badAt kd sx 8 = false → (s.pendEn = true → isSpad kd = true → s.pendingSpad sx 8 = false) →
          ∃ t : State, exec (.catom d o c x y) s = .next t ∧ s.copies t ⟨some c.toNat, s.sideLat kd (sx, sx + 8) true,
            [.atom (destOf kd sx) o.toNat (s.sreg y.toNat)], [], s.segsOf kd (sx, sx + 8), true, none, 0, kd⟩)) ∧
      (sx % 8 ≠ 0 → exec (.cwrw d c x y) s = .next (s.fault 3 0x08E kd (BitVec.ofNat 64 sx) 0) ∧
        exec (.catom d o c x y) s = .next (s.fault 3 0x08E kd (BitVec.ofNat 64 sx) 0))) ∧
    (s.cClear [.c a.toNat, .s x.toNat, .s y.toNat] → s.afterCut ka (s.checkAcc ka 64 sy 1) = .ok → s.checkSpad (sx % 2 ^ 24 / 4 * 4) 4 s.ctl.world = .ok →
      ∀ e g, s.entry (capObj ka) = some e → e.segs.findIdx? (fun g => segCovers g (sy / 4096)) = some g →
      let seg := e.segs.getD g ⟨0, 0, 0, false, false, 0, 0⟩
      let tier := sx / 2 ^ 24 % 8
      let status (n : Nat) : Prop := ∃ t : State, exec (.migrate a x y) s = .next t ∧
        s.copies t (CJob.plain none 1 [.sram (sx % 2 ^ 24 / 4 * 4) (leBytes 4 n)] [])
      (e.pin = true → status 1) ∧
      (e.pin = false → 1 < tier ∨ (tier = 1 ∧ s.mem.xk4m = false) ∨ 2 ^ 27 ≤ sx → status 4) ∧
      (e.pin = false → tier ≤ 1 → (tier = 1 → s.mem.xk4m = true) → sx < 2 ^ 27 →
        (tier = seg.tier → status 5) ∧
        (tier ≠ seg.tier → tget [] (tget .reset s.mem.pools s.ctl.vi).pages (8 * tier + seg.pageSize) = [] → status 2) ∧
        (tier ≠ seg.tier → ∀ b rest, tget [] (tget .reset s.mem.pools s.ctl.vi).pages (8 * tier + seg.pageSize) = b :: rest →
          ∃ t : State, exec (.migrate a x y) s = .next t ∧ t.regs = s.regs ∧ sameBytes s t ∧
            t.cx.migs = s.cx.migs ++ [⟨capObj ka, g, tier, b, sx % 2 ^ 24 / 4 * 4, (s.issued .c 1 .open).2⟩] ∧
            t.entry (capObj ka) = some { e with segs := setNth e.segs g { seg with held := true } } ∧
            tget [] (t.pool s.ctl.vi).pages (8 * tier + seg.pageSize) = rest)))

/-- R65, R82: once no command holds the segment, its page moves with the identities under which it was written, the segment names
its new place, the old page goes back to its pool, and the command ends with status 0; a page with a byte in error ends it with
MEM_UNCORR.
R94, R117, R118: a command that is due completes: one of C hands its scratchpad writes to their banks, its source bytes in place,
and completes once they are served; the other writes take effect in their order, the busy counts of its segments fall, and its ticket completes if its predecessor has
and the beats it pushed are visible (R345); one whose write meets a conflict is cancelled where it stands (R398).
R94, R118, R198, R355: what each write of a C command does: bytes, atomics and reads in their bank cycles, a record slot, a counter,
register-space bytes, object bytes, which the detector may refuse. -/
def Obligations.CommandCompletes : Prop :=
  (∀ (s : State) (x : Mig) (e : ObjEntry) (g : Seg), s.migReady = some x → tget none s.mem.obj x.obj = some e →
     e.segs[x.seg]? = some g →
     let n := pageBytes g.pageSize
     (∀ p, s.mem.bad.find? (fun p => g.base ≤ p && p < g.base + n) = some p →
       exec .migrateCopy s = .next ((s.cancelId .c x.cmd).fault 3 0x08D (mkCap x.obj 0 0 0)
         (BitVec.ofNat 64 (g.unit * 4096 + (p - g.base))) 0)) ∧
     ((∀ p ∈ s.mem.bad, ¬ (g.base ≤ p ∧ p < g.base + n)) →
     ∃ t : State, exec .migrateCopy s = .next t ∧ t.regs = s.regs ∧ t.sram = s.sram ∧
       tget [] (t.pool s.ctl.vi).pages (8 * g.tier + g.pageSize) =
         putUp g.base (tget [] (s.pool s.ctl.vi).pages (8 * g.tier + g.pageSize)) ∧
       (twf none s.mem.tags = true → (x.base + n ≤ g.base ∨ g.base + n ≤ x.base) → ∀ j,
         (j < n / 16 → tget none t.mem.tags (x.base / 16 + j) = tget none s.mem.tags (g.base / 16 + j)) ∧
         (¬ (x.base / 16 ≤ j ∧ j < x.base / 16 + n / 16) → tget none t.mem.tags j = tget none s.mem.tags j)) ∧
       t.cx.migs = s.cx.migs.filter (fun y => y.cmd ≠ x.cmd) ∧
       (∀ f, tget none t.mem.obj x.obj = some f → f.segs[x.seg]? = some { g with tier := x.tier, base := x.base, held := false }) ∧
       (Memory.wf s.mem.phys = true → (x.base + n ≤ g.base ∨ g.base + n ≤ x.base) → ∀ j,
         (j < n → mread t.mem.phys (x.base + j) = mread s.mem.phys (g.base + j)) ∧
         (¬ (x.base ≤ j ∧ j < x.base + n) → mread t.mem.phys j = mread s.mem.phys j)) ∧
       (∀ c ∈ s.cc.cmds, c.id = x.cmd → { c with doneAt := some s.clk.tape, writes := [.sram x.addr (leBytes 4 0)] } ∈ t.cc.cmds))) ∧
  (∀ (s : State) (e : Engine) (x : Cmd), s.completable = some (e, x) →
     (e ≠ .s → e ≠ .c ∨ x.out = true ∨ x.writes = [] → (s.applyWrites x.writes).2 = true →
       exec .commandCompletion s = .next ((s.applyWrites x.writes).1.cancelRest e x).lookAgain) ∧
     (e ≠ .s → e ≠ .c ∨ x.out = true ∨ x.writes = [] → (s.applyWrites x.writes).2 = false →
       let w := x.busy.foldl (fun u b => u.busy1 false b) (x.writes.foldl State.applyWrite s)
       ∃ t : State, exec .commandCompletion s = .next t ∧ t.regs = w.regs ∧ t.mem = w.mem ∧ t.sram = w.sram ∧ t.rs = w.rs ∧
         (x.tokAt ≤ s.clk.tape → s.beatsDone x = true → x.prod = 0 ∨ tget 0 w.cmp x.prod = x.ticket - 1 →
           t.cmp = (if x.prod = 0 then w.cmp else tset 0 w.cmp x.prod x.ticket) ∧ ∀ c ∈ (t.chain e).cmds, c.id ≠ x.id) ∧
         (x.prod ≠ 0 → tget 0 w.cmp x.prod ≠ x.ticket - 1 → t.cmp = w.cmp)) ∧
     (e = .c → x.out = false → x.writes ≠ [] →
       let asks := (s.sourced x).1.flatMap (s.bankWrites x.id)
       (asks ≠ [] → ∃ t : State, exec .commandCompletion s = .next t ∧ t.regs = s.regs ∧ sameBytes s t ∧ t.cmp = s.cmp ∧
         t.sram.queue = s.sram.queue.filter (fun y => y.own ≠ .cmd x.id) ++ asks ∧
         (∀ c ∈ t.cc.cmds, c.id = x.id → c.out = true ∧ c.writes = (s.sourced x).1.filter (fun w => !w.spad))) ∧
       (asks = [] → s.cc.cmds.filter (fun c => c.id = x.id) = [x] →
         let ws := (s.sourced x).1.filter (fun w => !w.spad)
         let w := x.busy.foldl (fun u b => u.busy1 false b) (ws.foldl State.applyWrite (s.release x))
         ((s.release x).applyWrites ws).2 = false → ∃ t : State, exec .commandCompletion s = .next t ∧ t.regs = w.regs ∧ t.mem = w.mem ∧ t.sram = w.sram ∧ t.rs = w.rs))) ∧
  (∀ (s : State) (k v' : Nat) (b : List Byte) (c : Cap) (o : Nat) (v : W64) (cells : List Host.Cell),
     (let t := s.applyWrite (.rs cells)
      t.mem = s.mem ∧ t.sram = s.sram ∧ t.regs = s.regs) ∧
     (let t := s.applyWrite (.rs (cellsAt o b))
      (∀ j, j < b.length → s.regOn (o + j) = true → mread t.rs.bytes (o + j) = nthD 0 b j) ∧
      (∀ j, ¬ (o ≤ j ∧ j < o + b.length) ∨ s.regOn j = false → mread t.rs.bytes j = mread s.rs.bytes j) ∧
      ((∃ j, j < b.length ∧ s.regOn (o + j) = false) → t.ctl.regsticky = s.ctl.regsticky ||| 1)) ∧
     (∀ ep, ep = none ∨ s.detects true k = false → s.applyWrite (.obj k o b ep) = s.objWrite k o b) ∧
     (∀ ep, s.detects true k = true → b ≠ [] → o % 128 + b.length ≤ 128 →
       (∀ u, s.detect k o b.length ep = .ok u → s.applyWrite (.obj k o b (some ep)) = u.objWrite k o b) ∧
       (∀ g, s.detect k o b.length ep = .error g →
         s.applyWrites [.obj k o b (some ep)] = (s.fault 3 0x093 (mkCap k 0 0 0) (BitVec.ofNat 64 (o / 128 * 128)) (detInfo g), true))) ∧
     (let t := s.applyWrite (.recSlot k c o b)
      tget none t.cx.recs k = some ⟨c, o, b⟩ ∧ (∀ j, j ≠ k → tget none t.cx.recs j = tget none s.cx.recs j) ∧ t.mem = s.mem) ∧
     (let t := s.applyWrite (.raise v' v)
      tget 0 t.fab.counters v' = tget 0 s.fab.counters v' + v ∧ t.mem = s.mem ∧ t.sram = s.sram)) ∧
  (∀ (s : State) (n bk : Nat) (x : BItem) (l : List BItem), s.nextServed = some ⟨n, bk, .items (x :: l)⟩ →
     (∀ w, x.world = some w → (s.cfgOf bk).refuses w = none) →
     ∃ u : State, u.regs = s.regs ∧ u.mem = s.mem ∧ u.sram.bytes = s.sram.bytes ∧ u.sram.got = s.sram.got ∧
       exec .bankService s = .next ((x :: l).foldl State.doItem u).leaveTurn) ∧
  (∀ (s : State) (x : BItem) (b : List Byte) (i o n : Nat) (v : W64),
     let t := s.doItem x
     (x.act = .write b → t.regs = s.regs ∧ t.mem = s.mem ∧
       (∀ j, j < b.length → mread t.sram.bytes (x.addr + j) = nthD 0 b j) ∧
       (∀ j, ¬ (x.addr ≤ j ∧ j < x.addr + b.length) → mread t.sram.bytes j = mread s.sram.bytes j)) ∧
     (x.act = .atom 0 v → t.mem = s.mem ∧
       leNat (mreadN t.sram.bytes x.addr 8) = (leNat (mreadN s.sram.bytes x.addr 8) + v.toNat) % 2 ^ 64) ∧
     (x.act = .read i o n → t.regs = s.regs ∧ t.mem = s.mem ∧ t.sram.bytes = s.sram.bytes ∧
       t.sram.got = s.sram.got ++ [(x.own, i, o, mreadN s.sram.bytes x.addr n)]))

/-- R81, R127, R140, R141, R160: a fabric form outside a run checks its own side, and its two hulls against each other, and asks its
target; once granted it issues: it takes the next call number of its group, raises the counts of the segments of its sides on this
package, and its command, with its class, waits for its match; its data, the bytes of its walk, leave once its source has been read:
an object's after its latency, a scratchpad's rows by C's requests at their banks; for a match at this package, or by the links.
A call word that names no member, or a counter out of range, faults; a group busy with a call, a held segment, an arm, a request
under way and the lack of a path of UP links hold the form.
R130 to R132, R151: in a run PUT, PUTRED and GET ask the banks for their pieces. Of one piece: a PUT asks for its 64 bytes in the
cycle of its slot, to leave by the first link of its route; a PUTRED so for each of its values; a GET of this package asks its
target's bank at the nominal arrival of port 6, another sends what it asks in its slot and awaits the piece that comes back.
R142, R322: CARM arms a counter for the next fabric form, CRAISE adds to one; a counter out of range faults. -/
def Obligations.FabricForms : Prop :=
  (∀ (s : State) (i : Instr) (d a r c : BitVec 4) (x y : BitVec 5) (form : Nat) (refs : List RegRef) (ask : Except CStop Ask),
     (i, form, refs, ask) ∈ [
       (.put d a r c x y, 0, [.c d.toNat, .c a.toNat, .s x.toNat, .s (x.toNat + 1), .s y.toNat], s.askPut 0 d a r x y),
       (.putred d a r c x y, 1, [.c d.toNat, .c a.toNat, .s x.toNat, .s (x.toNat + 1), .s y.toNat], s.askPut 1 d a r x y),
       (.get d a r c x y, 2, [.c d.toNat, .c a.toNat, .s x.toNat, .s y.toNat, .s (y.toNat + 1)], s.askGet d a r x y)] →
     (s.run.phase ≠ .running → s.cClear refs → ∀ k, ask = .ok k →
       let holds : Prop := exec i s = .next { s with cc := { s.cc with next := s.clk.tape + 1 } }
       let sat := s.afterCut k.near (s.checkAcc k.near (if form = 2 then 2 else 1) k.hulls.1.1 (k.hulls.1.2 - k.hulls.1.1).toNat)
       let met : Bool := capObj k.near = capObj k.far && k.hulls.1.1 < k.hulls.2.2 && k.hulls.2.1 < k.hulls.1.2
       (∀ e, s.callTarget k.word = .error e → exec i s = .next (s.fault 3 e 0 (BitVec.ofNat 64 (k.word / 2 ^ 25 % 2 ^ 12)) 0)) ∧
       (∀ g t ctr, s.callTarget k.word = .ok (g, t, ctr) →
         (s.callBusy g = true → holds) ∧
         (s.callBusy g = false →
           (∀ e, sat = .bad e → exec i s = .next (s.fault 3 e k.near (BitVec.ofInt 64 k.hulls.1.1) 0)) ∧
           (∀ q, sat = .park q → ∃ u : State, exec i s = .next u ∧ u.regs = s.regs ∧ sameBytes s u ∧ u.cc.cmds = s.cc.cmds ∧ u.cx = s.cx ∧
             u.fab = s.fab ∧ u.cc.next = s.clk.tape + 1) ∧
           (sat = .ok → met = true → exec i s = .next (if form = 2 then s.fault 3 0x0C3 k.near (BitVec.ofInt 64 k.hulls.1.1) 0
             else s.fault 3 0x0C3 k.far (BitVec.ofInt 64 k.hulls.2.1) 0)) ∧
           (sat = .ok → met = false → s.cx.granted = false →
             (s.cx.arm.isSome = true ∨ s.cx.asked = true ∨ s.reaches (s.packageOf t) = false → holds) ∧
             (s.cx.arm = none → s.cx.asked = false → s.reaches (s.packageOf t) = true →
               let q : FabReq := ⟨form, s.ctl.vi, s.ctl.world, g, (tget 0 s.cx.calls g + 1).toNat, t, s.ctl.lcore, k.far,
                 k.hulls.2.1.toNat, (k.hulls.2.2 - k.hulls.2.1).toNat, ctr, s.ctl.launchNo⟩
               ∃ u : State, exec i s = .next u ∧ u.regs = s.regs ∧ sameBytes s u ∧ u.cx = { s.cx with asked := true } ∧
                 u.cc = { s.cc with next := s.clk.tape + 1 } ∧ (s.localCore t = true → u.fab = s.fab) ∧
                 (s.localCore t = false → u.fab.asks = s.fab.asks ++ [q] ∧ u.fab.links = (s.sendTo (s.packageOf t) [.req q]).fab.links))) ∧
           (sat = .ok → met = false → s.cx.granted = true →
             (∀ w ∈ k.q.walk k.q.ss k.q.ds, form = 2 ∨ s.partStop k.near (k.nearBase + w.1).toNat (2 ^ k.q.el) = none) →
             let far : Bool := decide (form = 2)
             let objects : Prop := form ≠ 2 ∧ isSpad k.near = false
             ∃ u : State, exec i s = .next u.leaveTurn ∧ u.regs = s.regs ∧ sameBytes s u ∧
               tget 0 u.cx.calls g = tget 0 s.cx.calls g + 1 ∧ u.cx.asked = false ∧ u.cx.granted = false ∧
               u.fab.held = s.fab.held ∧ u.fab.links = s.fab.links ∧
               ∃ (cmd : Cmd) (at_ : Nat) (f : FabData), u.cc.cmds = s.cc.cmds ++ [cmd] ∧
                 cmd.call = some (g, (tget 0 s.cx.calls g + 1).toNat) ∧ cmd.doneAt = none ∧ cmd.cls = some c.toNat ∧
                 cmd.once = decide (form = 1) ∧ cmd.src = (if far then k.far else k.near) ∧ cmd.dst = (if far then k.near else k.far) ∧
                 (∀ b, b ∈ cmd.busy ↔ b ∈ s.segsOf k.near k.hulls.1 ∨ s.localCore t = true ∧ b ∈ s.segsOf k.far k.hulls.2) ∧
                 u.fab.leaving = s.fab.leaving ++ [⟨cmd.id, at_, f⟩] ∧
                 u.sram.queue = s.sram.queue.filter (fun x => x.own ≠ .pre) ++ s.nearReads cmd.id k ∧
                 (objects → at_ = s.clk.tape + s.sideLat k.near k.hulls.1 false + s.delay) ∧ (¬ objects → at_ = s.clk.tape) ∧
                 f.form = form ∧ f.group = g ∧ f.target = t ∧ f.sender = s.ctl.lcore ∧ f.counter = ctr ∧ f.launch = s.ctl.launchNo ∧
                 f.call = (tget 0 s.cx.calls g + 1).toNat ∧ f.epoch = s.sx.epoch ∧ f.cap = (if far then k.near else k.far) ∧
                 (form = 2 → f.elems = (k.q.walk k.q.ss k.q.ds).map (fun w =>
                   ((k.nearBase + w.2).toNat, List.replicate (2 ^ k.q.el) 0))) ∧
                 (objects → f.elems = (k.q.walk k.q.ss k.q.ds).map (fun w =>
                   ((k.farBase + w.2).toNat, s.objRead (capObj k.near) (k.nearBase + w.1).toNat (2 ^ k.q.el)))))))) ∧
     (s.run.phase = .running →
       (∃ u : State, exec i s = .next u ∧ u.regs = s.regs ∧ sameBytes s u ∧ u.mem = s.mem ∧ u.run.c = s.run.c.adv s.clk.tape 1) ∧
       (∀ k t, ask = .ok k → s.callMember k.word = some t → k.q.el = 6 → k.q.total = 1 →
         capLower k.near ≤ k.nearBase → k.nearBase + 64 ≤ capUpper k.near → capLower k.far ≤ k.farBase → k.farBase + 64 ≤ capUpper k.far →
         (isSpad k.near = true → k.nearBase % 65536 + 64 ≤ 65536) → (isSpad k.far = true → k.farBase % 65536 + 64 ≤ 65536) →
         let pkg := s.packageOf t
         let rt := s.route pkg
         let slot := k.q.first % 1024
         let cy := frameCycle (s.clk.tape + 1) (slot / 4)
         let first := rt.2.headD 6
         let trip := 8 + 24 * rt.2.length
         let num := 16 * s.coreJ + 1
         let piece (red : Bool) (addr : Nat) : Piece := ⟨cy + trip, rt.1, match rt.2.getLast? with | some l => l ^^^ 1 | none => 6,
           slot % 4, red, k.q.ta, k.q.tb, 0, addr, none, false, t, s.ctl.lcore, 0, s.run.group, none, [], rt.2.tail, 0⟩
         s.slotLost cy first slot = false →
         ∃ u : State, exec i s = .next u ∧
           (form = 0 → u.sram.timed = s.sram.timed ++ [⟨cy, num, s.sram.order, k.nearBase.toNat, true,
             .send 64 pkg t first (piece false k.farBase.toNat), s.clk.tape, true⟩] ∧ u.fab = s.fab) ∧
           (form = 1 → u.sram.timed = s.sram.timed ++ (List.range (64 / tySize k.q.tb)).map (fun j =>
             ⟨cy, num, s.sram.order + j, k.nearBase.toNat + tySize k.q.tb * j, true,
               .send (tySize k.q.tb) pkg t first (piece true (k.farBase.toNat + tySize k.q.tb * j)), s.clk.tape, true⟩) ∧ u.fab = s.fab) ∧
           (form = 2 → s.localCore t = true → u.sram.timed = s.sram.timed ++ [⟨cy + trip, 128, 24 + slot % 4,
             2 ^ 24 * ((s.boundCore t).getD 0 / 8) + k.farBase.toNat % 2 ^ 24, false,
             .move 64 (cy + 16) (.sram [(s.spadKey k.nearBase.toNat, BitVec.ofNat 8 (slot % 4))]) 128, s.clk.tape, true⟩] ∧ u.fab = s.fab) ∧
           (form = 2 → s.localCore t = false → (∀ x ∈ s.fab.pieces, x.nominal ≠ cy + 2 * trip) →
             u.sram.timed = s.sram.timed ++ [⟨cy, num, s.sram.order, 0, true, .ask pkg t first { piece false k.farBase.toNat with
               data := some (List.replicate 64 0)
               get := some (s.fab.coord, s.ctl.lcore, k.nearBase.toNat, cy + 2 * trip, rt.2.reverse.map (fun l => l ^^^ 1)) },
               s.clk.tape, true⟩] ∧
             u.fab.pieces = s.fab.pieces ++ [{ piece false k.nearBase.toNat with
               nominal := cy + 2 * trip, link := first, cluster := s.cluster, core := s.ctl.lcore, no := s.ctl.launchNo, path := [] }])))) ∧
  (∀ (s : State) (x y : BitVec 5), s.cClear [.s x.toNat, .s y.toNat] →
     let i := (s.sreg x.toNat).toNat
     (s.counterIdx (s.sreg x.toNat) = none → ∀ k ∈ [Instr.carm x y, .craise x y], exec k s = .next (s.fault 3 0x0C5 0 (s.sreg x.toNat) 0)) ∧
     (∀ j, s.counterIdx (s.sreg x.toNat) = some j →
       (∃ u : State, exec (.carm x y) s = .next u ∧ u.regs = s.regs ∧ sameBytes s u ∧ u.cx = { s.cx with arm := some (i, s.sreg y.toNat) } ∧
         u.fab = s.fab) ∧
       (∃ u : State, exec (.craise x y) s = .next u ∧ u.regs = s.regs ∧ sameBytes s u ∧ u.cx = s.cx ∧
         u.fab = { s.fab with counters := tset 0 s.fab.counters j (tget 0 s.fab.counters j + s.sreg y.toNat) })))

/-- R141, R142, R161: the arm is consumed when its counter has come; the target of a request answers by its own check, its grant lets
the form issue, and its refusal leaves the form unissued with the code in the frame.
R83: a request that meets a held segment parks at its port, once; another core's is held back where the port has no room.
R141: a form's data leave when the source has been read. Data waits for the call of its target; at the match, and for a GET that has
come back at its arrival, it takes effect: data for a scratchpad comes to its banks as the router's requests, and once they are
served its counter goes up by one and the sender's form completes; so for an object, with its bytes, unless an error in the old bytes
of a PUTRED or a conflict stops it. A form whose data went to another package completes as its counter was raised there. What is for a
core of another package goes on to it. -/
def Obligations.FabricAnswers : Prop :=
  (∀ (s : State),
     (s.armReady = true → ∃ t : State, exec .armMet s = .next t ∧ t.cx = { s.cx with arm := none } ∧ t.regs = s.regs ∧ samePackage s t ∧
       t.cc.next ≤ s.clk.tape) ∧
     (s.cx.asked = true → s.cx.granted = false →
       (∀ k g t, s.ownGrant = some (k, .ok, g, t) → ∃ u : State, exec .fabricGrant s = .next u ∧ u.cx = { s.cx with granted := true } ∧
         u.regs = s.regs ∧ sameBytes s u ∧ ∃ q : FabReq, u.fab.served = s.fab.served ++ [q] ∧ q.form = k.form ∧ q.vi = s.ctl.vi ∧
           q.launch = s.ctl.launchNo ∧ q.group = g ∧ q.target = t ∧ q.sender = s.ctl.lcore ∧ q.call = (tget 0 s.cx.calls g + 1).toNat) ∧
       (s.ownGrant = none → exec .fabricGrant s = .next { s with cx := { s.cx with granted := true } }) ∧
       (∀ c k g t, s.ownGrant = some (k, .bad c, g, t) → ∃ u : State, exec .fabricGrant s = .next u ∧ u.cx.asked = false ∧
         u.regs = s.regs ∧ sameBytes s u ∧ u.cc.cmds = s.cc.cmds) ∧
       (∀ p k g t, s.ownGrant = some (k, .park p, g, t) →
         (s.cx.parked = true ∨ s.portFull p = true → exec .fabricGrant s = .next s) ∧
         (s.cx.parked = false → s.portFull p = false → ∃ u : State, exec .fabricGrant s = .next u ∧ u.cx = { s.cx with parked := true } ∧
           u.regs = s.regs ∧ sameBytes s u ∧ u.isParked .ask = true)) ∧
       (∀ c, ∃ u : State, exec (.fabricRefusal c) s = .next u ∧ u.cx = { s.cx with asked := false, granted := false, parked := false } ∧
         u.regs = s.regs ∧ sameBytes s u ∧ u.cc.cmds = s.cc.cmds ∧
         (s.run.phase = .off → s.trap.stop = none → ∃ f, u.trap.stop = some f ∧ f.cause = c ∧ f.src = 3))) ∧
     (∀ r : FabReq,
       let e := s.farCheck r.form r.group r.call r.target r.sender r.launch ((s.boundIn r.launch r.target).getD 0 / 8) r.cap r.lo
         r.len r.vi r.world
       let on : Prop := r.launch = s.ctl.launchNo ∧ s.localCore r.target = false
       let told (u : State) (code : Option Nat) : State :=
         if r.launch = s.ctl.launchNo ∧ s.localCore r.sender = false then u.sendTo (s.packageOf r.sender) [.answer r code] else u
       (on → exec (.fabricRequestArrival r) s = .next (s.sendTo (s.packageOf r.target) [.req r])) ∧
       (¬ on → e = .ok →
         exec (.fabricRequestArrival r) s = .next (told { s with fab := { s.fab with served := s.fab.served ++ [r] } } none)) ∧
       (∀ c, ¬ on → e = .bad c → exec (.fabricRequestArrival r) s = .next (told s (some c))) ∧
       (∀ p, ¬ on → e = .park p →
         (s.portFull p = true → exec (.fabricRequestArrival r) s = .next { s with fab := { s.fab with back := s.fab.back ++ [r] } }) ∧
         (s.portFull p = false → exec (.fabricRequestArrival r) s = .next (s.park (.req r) p))) ∧
       (r.form = 1 → (∃ x ∈ s.fab.served, x.form = 1 ∧ x.vi = r.vi ∧ x.launch = r.launch ∧ x.group = r.group ∧ x.call = r.call ∧
         x.target = r.target ∧ x.sender ≠ r.sender) → e ≠ .ok))) ∧
  (∀ (s : State) (x : Leaving),
     (s.clk.tape < x.at_ ∨ s.waitingFor (.cmd x.cmd) = true → s.leave1 x = s) ∧
     (x.at_ ≤ s.clk.tape → s.waitingFor (.cmd x.cmd) = false → ∀ o b, x.data.elems = [(o, b)] →
       let got := (s.sram.got.filter (fun y => y.1 = .cmd x.cmd)).filter (fun y => y.2.1 = 0)
       let t := s.leave1 x
       let d := { x.data with elems := [(o, got.foldl (fun (b : List Byte) y => patch y.2.2.1 y.2.2.2 b) b)] }
       t.regs = s.regs ∧ sameBytes s t ∧ t.fab.leaving = s.fab.leaving.filter (fun y => y.cmd ≠ x.cmd) ∧
       (s.localCore d.target = true → t.fab.held = s.fab.held ++ [d] ∧ t.fab.links = s.fab.links) ∧
       (s.localCore d.target = false → t.fab.held = s.fab.held ∧ t.fab.sent = s.fab.sent ++ [d] ∧
         t.fab.links = (s.sendTo (s.packageOf d.target) (fabLoads d)).fab.links))) ∧
  (∀ (s : State) (d : FabData),
     let back : Prop := d.form = 2 ∧ s.hereCore d.launch d.sender = true
     let on : Prop := d.launch = s.ctl.launchNo ∧ s.localCore d.target = false
     (¬ back → ¬ on → exec (.fabricDataArrival d) s = .next { s with fab := { s.fab with held := s.fab.held ++ [d] } }) ∧
     (¬ back → on → exec (.fabricDataArrival d) s = .next (s.sendTo (s.packageOf d.target) (fabLoads d))) ∧
     (back → exec (.fabricDataArrival d) s = .next (s.fabEffect d)) ∧
     (s.ownMatch = some d → d.launch = s.ctl.launchNo ∧ d.target = s.ctl.lcore ∧ exec .fabricCallMatch s = .next (s.fabEffect d)) ∧
     (s.ownMatch = none → s.fab.held.find? (fun x => x.launch ≠ s.ctl.launchNo ∨ x.target ≠ s.ctl.lcore) = some d →
       exec .fabricCallMatch s = .next (s.fabEffect d)) ∧
     (d.form = 0 → isSpad d.cap = true → ∀ o b, d.elems = [(o, b)] →
       let t := s.fabEffect d
       t.regs = s.regs ∧ sameBytes s t ∧ t.fab.held = s.fab.held.filter (fun x => x ≠ d) ∧
       t.fab.landing = s.fab.landing ++ [⟨s.fab.landNo + 1, s.clk.tape, true, d⟩] ∧
       t.sram.queue = s.sram.queue ++ (rowsOf o b.length).map (fun p => (⟨128,
         2 ^ 24 * ((s.boundIn d.launch d.target).getD 0 / 8) + p.2.1 % 2 ^ 24,
         .write ((b.drop p.1).take p.2.2), .fab (s.fab.landNo + 1), some d.world⟩ : BItem)))) ∧
  (∀ (s : State), s.ownMatch = none → (∀ x ∈ s.fab.held, x.launch = s.ctl.launchNo ∧ x.target = s.ctl.lcore) → s.farCalls ≠ [] →
     ∃ (c : Cmd) (t : State), c ∈ s.farCalls ∧ exec .fabricCallMatch s = .next t ∧ t.regs = s.regs ∧ samePackage s t ∧
       (c.once = false → t.ctl = s.ctl) ∧
       t.cc = { s.cc with cmds := s.cc.cmds.map (fun x => if x.id = c.id then { x with doneAt := some s.clk.tape } else x) }) ∧
  (∀ (s : State) (l : Landing), s.waitingFor (.fab l.id) = false → l.at_ ≤ s.clk.tape → l.out = true →
     let t := s.fabSettle l
     let d := l.data
     let u := if isSpad d.cap then s else (s.fabElems d d.elems).1
     let bad : Prop := isSpad d.cap = false ∧ d.form = 1 ∧ ∃ e ∈ d.elems, s.badAt d.cap e.1 e.2.length = true
     (¬ bad → isSpad d.cap = true ∨ (s.fabElems d d.elems).2 = false →
       t.mem = u.mem ∧ t.sram.bytes = u.sram.bytes ∧ t.regs = u.regs ∧ t.fab.landing = u.fab.landing.filter (fun x => x.id ≠ l.id) ∧
       (∀ i, u.counterOf d.vi d.counter = some i → t.fab.counters = tset 0 u.fab.counters i (tget 0 u.fab.counters i + 1)) ∧
       (d.launch = u.ctl.launchNo → d.sender = u.ctl.lcore → t.cc.cmds = u.cc.cmds.map (fun c =>
         if c.call = some (d.group, d.call) then { c with doneAt := some u.clk.tape } else c))) ∧
     (isSpad d.cap = false → d.form = 1 → ∀ e c, d.elems.find? (fun e => s.badAt d.cap e.1 e.2.length) = some e → s.callCmd d = some c →
       t = ((s.dropLanding l.id).cancelCmd .c c).fault 3 0x08D d.cap (BitVec.ofNat 64 e.1) 0) ∧
     (¬ bad → isSpad d.cap = false → (s.fabElems d d.elems).2 = true → t.fab.counters = (s.fabElems d d.elems).1.fab.counters))

/-! ### The fabric and the shuttles -/

/-- R163: the combine of a reduction over int64 is exact where it can be, and stays at the end of the range where it has once gone
there; minimum and maximum are those of the numbers; over a float, a sum is one rounded addition.
R151, R152, R158, R162: an announced piece is awaited; one that arrives asks its bank as the router's request, no earlier than its
nominal arrival, a GET's request to be answered, a PUTRED piece waits for its combine cycle, and combines in the order of nominal
arrival, link and lane, or at once where it is late; one with links still to cross goes on by the next of them, in its slot there; a
missed deadline counts, sets DeadlineMiss for a member of the run's group and asks for a hold of that group, of this core's launch or
of another.
R153 to R155, R363, R417: what a link does at a flit, which passes if it is intact and under the key of its epoch: what it
acknowledges, what it lets go, the replay that it asks for, a replay that it requests; at the end of a replay or a training, when it
has trained too long, when management turns it off or on, and when its keys are written and switched; no link does anything to a
register or a byte. -/
def Obligations.LinkEvents : Prop :=
  (∀ (d v : Nat), d < 2 ^ 64 → v < 2 ^ 64 →
     let a := (BitVec.ofNat 64 d).toInt
     let b := (BitVec.ofNat 64 v).toInt
     let top : Int := 2 ^ 63 - 1
     let bot : Int := -(2 ^ 63)
     let num (r : Nat × Bool) := (BitVec.ofNat 64 r.1).toInt
     (a = top ∨ a = bot → redCombine 0 3 d v = (d, false)) ∧
     (a ≠ top → a ≠ bot → bot < b → b < top → bot ≤ a + b → a + b ≤ top →
       num (redCombine 0 3 d v) = a + b ∧ (redCombine 0 3 d v).2 = false) ∧
     (a ≠ top → a ≠ bot → bot < b → b < top → top < a + b → num (redCombine 0 3 d v) = top ∧ (redCombine 0 3 d v).2 = true) ∧
     (a ≠ top → a ≠ bot → bot < b → b < top → a + b < bot → num (redCombine 0 3 d v) = bot ∧ (redCombine 0 3 d v).2 = true) ∧
     num (redCombine 1 3 d v) = min a b ∧ num (redCombine 2 3 d v) = max a b ∧
     (∀ wire ∈ [8, 9], (redCombine 0 wire d v).1 = ((tyFmt wire).encode 0 (((tyFmt wire).decode d).add 0 ((tyFmt wire).decode v))).1)) ∧
  (∀ (s : State) (p : Piece) (b : List Byte),
     let req (cycle : Nat) (act : TReqDo) (addr : Nat) : TReq := ⟨cycle, 128, 4 * p.link + p.lane, 2 ^ 24 * p.cluster + addr % 2 ^ 24,
       false, act, s.clk.tape, decide (p.no = s.ctl.launchNo ∧ p.issuer = s.ctl.lcore)⟩
     let asks (i : Instr) (t : State) (new : List TReq) : Prop := exec i s = .next t ∧ t.regs = s.regs ∧ sameBytes s t ∧
       t.sram.timed = s.sram.timed ++ new
     let own : Bool := decide (p.no = s.ctl.launchNo ∧ (p.core = s.ctl.lcore ∨ p.issuer = s.ctl.lcore))
     let others := s.fab.pieces.filter (fun x => !samePiece x p)
     let late := p.nominal + p.ease < s.clk.tape ∨ ∃ x ∈ s.fab.pieces, samePiece x p = true ∧ x.missed = true
     (p.path = [] → p.data = none → exec (.timedPieceArrival p) s = .next { s with fab := { s.fab with pieces := s.fab.pieces ++ [p] } }) ∧
     (p.path = [] → p.data = some b → p.get = none →
       let parts := (p.addr, 0, b) :: p.more
       (p.red = false → ∃ t, asks (.timedPieceArrival p) t
         (parts.map (fun x => req (max s.clk.tape p.nominal) (.write x.2.2) x.1)) ∧ t.fab.pieces = others) ∧
       (p.red = true → late → ∃ t, asks (.timedPieceArrival p) t
         (parts.map (fun x => req s.clk.tape (.red p.op p.wire x.2.2 own) x.1)) ∧ t.fab.pieces = others) ∧
       (p.red = true → ¬ late → ∃ t : State, exec (.timedPieceArrival p) s = .next t ∧ t.regs = s.regs ∧ sameBytes s t ∧
         t.fab.pieces = others ++ [p])) ∧
     (∀ pkg core addr home ret, p.path = [] → p.data = some b → p.get = some (pkg, core, addr, home, ret) →
       ∃ t, asks (.timedPieceArrival p) t (((p.addr, addr, b) :: p.more).map (fun x => req (max s.clk.tape p.nominal)
         (.send x.2.2.length pkg core p.link { p with nominal := home, red := false, addr := x.2.1, data := none, more := [], core := core
                                                      get := none, path := ret.tail }) x.1)) ∧ t.fab.pieces = others) ∧
     (∀ k rest, p.path = k :: rest →
       (p.data = none → exec (.timedPieceArrival p) s = .next s) ∧
       (p.data = some b → ∃ pkg, exec (.timedPieceArrival p) s = .next (s.launchTimed k pkg p.core { p with path := rest } none) ∧
         (rest = [] → pkg = s.beyond s.fab.coord k)) ∧
       (∀ pkg (q : Piece), q.around = 0 → (s.link k).st < 2 → (s.link k).wait = [] → s.clk.tape ≤ pieceCut q →
         s.launchTimed k pkg q.core q none = s.setLink k { s.link k with
           wait := [(4 * pieceCut q + q.lane, ⟨.piece pkg q.core (pieceCut q) q, k, 0, none⟩)] })) ∧
     (s.redDue = some (p, b) → p.get = none → ∃ t, asks .putredCombine t
         (((p.addr, 0, b) :: p.more).map (fun x => req s.clk.tape (.red p.op p.wire x.2.2 own) x.1)) ∧
       t.fab.pieces = s.fab.pieces.filter (fun x => x ≠ p)) ∧
     (s.missing = some p →
       let links := tset .reset s.fab.links p.link { s.link p.link with misses := ((s.link p.link).misses + 1) % 2 ^ 16 }
       ∃ t : State, exec .deadlineCheck s = .next t ∧ t.regs = s.regs ∧ sameBytes s t ∧ t.fab.links = links ∧
         t.fab.pieces = s.fab.pieces.map (fun x => if x = p then { x with missed := true } else x) ∧
         (p.no = s.ctl.launchNo → s.member p.group = true → t.ctl = { s.ctl with ssticky := s.ctl.ssticky ||| 2 }) ∧
         (p.no ≠ s.ctl.launchNo ∨ s.member p.group = false → t.ctl = s.ctl) ∧
         (p.no = s.ctl.launchNo → ∀ x, tget none s.grp.table p.group = some x →
           t.grp.table = tset none s.grp.table p.group (some { x with hold := x.hold.request s.clk.tape true })) ∧
         (p.no ≠ s.ctl.launchNo → t.grp = s.grp ∧ ∀ h ∈ s.fw.holds, h.launch = p.no → h.group = p.group →
           { h with hold := h.hold.request s.clk.tape true } ∈ t.fw.holds))) ∧
  (∀ (h : GHold) (at_ : Nat) (miss : Bool),
     (h.st = 0 → (h.request at_ miss).st = 1 ∧ (h.request at_ miss).miss = miss) ∧ (h.st ≠ 0 → (h.request at_ miss).st = h.st)) ∧
  (∀ (s : State) (k : Nat) (q ack : BitVec 12) (how : Receipt) (key : BitVec 256) (ep : W32),
     let l := s.link k
     let m := l.ack ack
     let n := (l.nextSeq - ack).toNat
     let goes (i : Instr) (m : Link) : Prop := exec i s = .next { s with fab := { s.fab with links := tset .reset s.fab.links k m } }
     let left (i : Instr) (m : Link) : Prop := ∃ t : State, exec i s = .next t ∧ sameRegs s t ∧ sameBytes s t ∧ t.mem = s.mem ∧
       t.fab = { s.fab with links := tset .reset s.fab.links k m }
     let first := l.expect - BitVec.ofNat 12 (l.rxNo % 16)
     let back : Link := { (if q = first then { l with expect := first, rxNo := l.rxNo - l.rxNo % 16 } else l : Link) with
       replays := (l.replays + 1) % 2 ^ 16 }
     let train (x : Link) : Link := { x with st := 2, retrains := (l.retrains + 1) % 2 ^ 16, retrainAt := s.clk.tape, upAt := none, fails := 0
                                             again := [], txFails := 0, txBlock := none }
     let taken : Link := if q = l.expect then { m with
         expect := l.expect + 1, rxNo := l.rxNo + 1, fails := if (l.rxNo + 1) % 16 = 0 then 0 else l.fails
         rxOld := if epochBit l.rxEpoch = how.epoch then none else l.rxOld } else m
     let rx : Instr := .flitReceive k q how ack
     (n ≤ l.buffer.length → m.buffer = l.buffer.drop (l.buffer.length - n) ∧ m.again = l.again.filter (fun x => m.buffer.contains x)) ∧
     (l.buffer.length < n → m = l) ∧ m.expect = l.expect ∧ m.st = l.st ∧
     (l.passes how = true ↔ how.intact = true ∧ (epochBit l.rxEpoch = how.epoch ∧ l.rxKey = how.key ∨
       epochBit l.rxEpoch ≠ how.epoch ∧ ∃ e, l.rxOld = some (how.key, e) ∧ epochBit e = how.epoch)) ∧
     (l.st < 2 → l.passes how = true →
       (how.request = false → left rx taken) ∧
       (how.request = true → taken.buffer = [] → left rx taken) ∧
       (how.request = true → ∀ x r, taken.buffer = x :: r →
         let blk := some (x.epoch, x.no / 16)
         let fails := if l.st = 1 ∧ taken.txBlock = blk then taken.txFails + 1 else 0
         let y : Link := { taken with replays := (l.replays + 1) % 2 ^ 16 }
         (fails < 3 → left rx { y with st := 1, again := y.buffer, txBlock := blk, txFails := fails }) ∧
         (3 ≤ fails → left rx (train y)))) ∧
     (2 ≤ l.st → l.passes how = true → q = l.expect → left rx taken) ∧
     (2 ≤ l.st → l.passes how = false ∨ q ≠ l.expect → exec rx s = .next s) ∧
     (l.passes how = false → (l.st = 0 → left rx { back with st := 1, fails := 0 }) ∧
       (l.st = 1 → l.fails < 2 → left rx { back with fails := l.fails + 1 }) ∧ (l.st = 1 → 2 ≤ l.fails → left rx (train back))) ∧
     (l.st = 1 → l.again = [] → goes (.linkReplayDone k) { l with st := 0, fails := 0, txFails := 0, txBlock := none }) ∧
     (l.again ≠ [] → exec (.linkReplayDone k) s = .next s) ∧
     (l.st = 2 → goes (.linkTrainingDone k) { l with upAt := some ((s.clk.tape / 256 + 1) * 256) }) ∧
     (s.slowLink = some k → goes .linkRetrainTimeout { l with st := 3 }) ∧
     (l.st ≠ 4 → let d : Link := { l with st := 3, upAt := none, disabled := true, again := [] }
       left (.linkDisable k) d ∧ (s.clk.loaded = true → (s.setLink k d).inStep = true →
         ∃ t : State, exec (.linkDisable k) s = .next t ∧ t.clk = { s.clk with aligned := true })) ∧
     (l.st = 3 → goes (.linkEnable k) { train l with disabled := false }) ∧
     (l.st < 3 → goes (.linkEnable k) { l with disabled := false }) ∧
     (l.st = 4 → ∀ i ∈ [Instr.linkDisable k, .linkEnable k], exec i s = .next s) ∧
     goes (.linktxkey k key ep) { l with txNew := some (key.toNat, ep) } ∧ goes (.linkrxkey k key ep) { l with rxNew := some (key.toNat, ep) } ∧
     (s.keyDue = some k → goes (.linkKeySwitch trivial) l.switchKeys) ∧
     (∀ x e y f, l.txNew = some (x, e) → l.txOld = none → l.txNo % 16 = 0 → l.rxNew = some (y, f) → l.rxNo % 16 = 0 →
       l.switchKeys = { l with
         txOld := if l.buffer.isEmpty then none else some (l.txKey, l.txEpoch), txKey := x, txEpoch := e, txNew := none, txNo := 0
         rxOld := some (l.rxKey, l.rxEpoch), rxKey := y, rxEpoch := f, rxNew := none, rxNo := 0 }) ∧
     (l.txNo % 16 ≠ 0 → l.rxNo % 16 ≠ 0 → l.switchKeys = l))

/-- R170 to R174: the words that only move, compute, skip and test: what they leave on the stack (its top last), where the visit
goes on, and one word per cycle; too few or too many entries park with SH_STACK, a step past word 15 with SH_FALLOFF. -/
def Obligations.ShuttleStack : Prop :=
  ∀ (s : State) (v : Visit) (st : List W64) (a b : W64) (k : BitVec 11) (g : BitVec 2) (c : BitVec 6) (n : BitVec 4),
    s.visit = some v →
    let runs (i : Instr) (out : List W64) (skip : Nat) : Prop := exec i s = .next (s.setVisit v { v with
      sh := { v.sh with stack := out, pc := v.sh.pc + 1 + skip }, steps := v.steps + 1, next := s.clk.tape + 1, acc := none })
    (v.sh.pc < 15 → v.sh.stack = st → st.length ≤ 4 →
      runs .shNop st 0 ∧ (v.sh.pc + n.toNat < 15 → runs (.shSkip n) st n.toNat) ∧
      (st.length ≤ 3 → runs (.shPushi k) (st ++ [BitVec.ofInt 64 k.toInt]) 0 ∧ runs (.shPushg g) (st ++ [nthD 0 v.sh.g g.toNat]) 0 ∧
        runs .shHops (st ++ [BitVec.ofNat 64 v.sh.hops]) 0 ∧
        runs .shHere (st ++ [if v.sh.origin.toNat = s.fab.coord then 1 else 0]) 0)) ∧
    (v.sh.pc < 15 → v.sh.stack = st ++ [a] → st.length ≤ 3 →
      runs .shDrop st 0 ∧ runs (.shShl c) (st ++ [a <<< c.toNat]) 0 ∧ runs (.shShr c) (st ++ [a >>> c.toNat]) 0 ∧
      (st.length ≤ 2 → runs .shDup (st ++ [a, a]) 0) ∧
      (v.sh.pc + n.toNat < 15 → runs (.shSkz n) st (if a = 0 then n.toNat else 0) ∧ runs (.shSknz n) st (if a = 0 then 0 else n.toNat)) ∧
      exec (.shPopg g) s = .next (s.setVisit v { v with
        sh := { v.sh with g := setNth v.sh.g g.toNat a, stack := st, pc := v.sh.pc + 1 }, steps := v.steps + 1, next := s.clk.tape + 1
        acc := none })) ∧
    (v.sh.pc < 15 → v.sh.stack = st ++ [a, b] → st.length ≤ 2 →
      runs .shSwap (st ++ [b, a]) 0 ∧ runs .shAdd (st ++ [a + b]) 0 ∧ runs .shSub (st ++ [a - b]) 0 ∧ runs .shAnd (st ++ [a &&& b]) 0 ∧
      runs .shOr (st ++ [a ||| b]) 0 ∧ runs .shXor (st ++ [a ^^^ b]) 0 ∧
      runs .shClt (st ++ [if a.toInt < b.toInt then 1 else 0]) 0 ∧ runs .shCeq (st ++ [if a = b then 1 else 0]) 0) ∧
    (v.sh.stack.length < 2 → ∀ i ∈ [Instr.shSwap, .shAdd, .shSub, .shAnd, .shOr, .shXor, .shClt, .shCeq],
      exec i s = .next (s.parkVisit v 0x104 0)) ∧
    (v.sh.stack = [] → ∀ i ∈ [Instr.shPopg g, .shDup, .shDrop, .shShl c, .shShr c, .shSkz n, .shSknz n],
      exec i s = .next (s.parkVisit v 0x104 0)) ∧
    (4 ≤ v.sh.stack.length → ∀ i ∈ [Instr.shPushi k, .shPushg g, .shHops, .shHere, .shDup], exec i s = .next (s.parkVisit v 0x104 0)) ∧
    (15 ≤ v.sh.pc →
      (st.length ≤ 4 → v.sh.stack = st → exec .shNop s = .next (s.parkVisit v 0x105 0)) ∧
      (st.length ≤ 3 → v.sh.stack = st → ∀ i ∈ [Instr.shPushi k, .shPushg g, .shHops, .shHere], exec i s = .next (s.parkVisit v 0x105 0)) ∧
      (st.length ≤ 3 → v.sh.stack = st ++ [a] → (∀ i ∈ [Instr.shPopg g, .shDrop, .shShl c, .shShr c], exec i s = .next (s.parkVisit v 0x105 0)) ∧
        (st.length ≤ 2 → exec .shDup s = .next (s.parkVisit v 0x105 0))) ∧
      (st.length ≤ 2 → v.sh.stack = st ++ [a, b] → ∀ i ∈ [Instr.shSwap, .shAdd, .shSub, .shAnd, .shOr, .shXor, .shClt, .shCeq],
        exec i s = .next (s.parkVisit v 0x105 0))) ∧
    (15 ≤ v.sh.pc + n.toNat → st.length ≤ 3 →
      (v.sh.stack = st → exec (.shSkip n) s = .next (s.parkVisit v 0x105 0)) ∧
      (v.sh.stack = st ++ [a] → (a = 0 ∨ 15 ≤ v.sh.pc → exec (.shSkz n) s = .next (s.parkVisit v 0x105 0)) ∧
        (a ≠ 0 ∨ 15 ≤ v.sh.pc → exec (.shSknz n) s = .next (s.parkVisit v 0x105 0))))

/-- R157, R171, R174 to R177, R186: the words that read a link, a counter or a window, add to a window, turn, copy, leave, deliver
and end; an access through a window is checked once, waits for its memory or its bank, or parks at a held segment, and goes on from
there with the window as it was checked; a permission that is missing parks the shuttle with SH_PERM. -/
def Obligations.ShuttleEffects : Prop :=
  ∀ (s : State) (v : Visit) (st : List W64) (a b : W64) (k : BitVec 3) (w : BitVec 2), s.visit = some v →
    let t := v.sh.tenant.toNat
    let perm (b : Nat) : Prop := (s.shPerm t) / 2 ^ b % 2 = 1
    let go (u : State) (sh : Shuttle) (cl : Nat) : State := u.setVisit v { v with
      sh := { sh with pc := v.sh.pc + 1 }, steps := v.steps + 1, clones := cl, next := s.clk.tape + 1, acc := none }
    let top (x : W64) : Shuttle := { v.sh with stack := st ++ [x] }
    let parks (i : Instr) (code : Nat) (o : W64) : Prop := exec i s = .next (s.parkVisit v code o)
    let ask (w o n need ctr : Nat) : ShAcc := ⟨w, o, n, need, 0, 0, s.winCap t w, s.winCtl t w, ctr⟩
    let access (i : Instr) (x₀ : ShAcc) (op : W64) (act : Nat → Nat → BAct) (final : State → ShAcc → State) : Prop :=
      let waits (u : State) (x : ShAcc) : Prop := exec i s = .next (u.setVisit v { v with next := s.clk.tape + 1, acc := some x })
      let starts (x : ShAcc) : Prop :=
        let c := s.winCheckAt t x.cap x.ctl x.o x.n x.need
        (∀ e, c = .bad e → parks i e op) ∧
        (∀ q, c = .park q → waits (if s.portFull q then s else s.park (.visit v.id) q) x) ∧
        (c = .ok → isSpad x.cap = true → waits (s.enqueue ((rowsOf x.o x.n).map (fun p => ⟨128,
          2 ^ 24 * bitsOf x.ctl 1 5 + p.2.1 % 2 ^ 24, act p.1 p.2.2, .visit v.id, some (bitsOf x.ctl 16 16)⟩))) { x with stage := 2 }) ∧
        (c = .ok → isSpad x.cap = false → waits s.popDelay { x with stage := 1, ready := s.clk.tape +
          (if x.need % 2 = 1 then s.readLatN (capObj x.cap) x.o x.n else s.writeLatN (capObj x.cap) x.o x.n) + s.delay })
      (v.acc = none → starts x₀) ∧
      (∀ x, v.acc = some x →
        (x.stage = 0 → s.isParked (.visit v.id) = true → waits s x) ∧
        (x.stage = 0 → s.isParked (.visit v.id) = false → starts x) ∧
        (x.stage = 1 → s.clk.tape < x.ready → waits s x) ∧ (x.stage = 2 → s.waitingFor (.visit v.id) = true → waits s x) ∧
        (x.stage = 1 ∧ x.ready ≤ s.clk.tape ∨ x.stage = 2 ∧ s.waitingFor (.visit v.id) = false → exec i s = .next (final s x)))
    let first : Prop := v.acc = none
    let valid (w : Nat) : Prop := (s.winCtl t w) % 2 = 1
    let leaves (d : Nat) (l : List W64) : Shuttle := { v.sh with stack := l, dir := d, budget := v.sh.budget - 1, pc := 0, status := 0 }
    (∀ x, (∀ y, s.sram.got.find? (fun g => g.1 = .visit v.id) = some y → s.winGot v x = BitVec.ofNat 64 (leNat y.2.2.2)) ∧
      (s.sram.got.find? (fun g => g.1 = .visit v.id) = none → s.winGot v x =
        BitVec.ofNat 64 (leNat (s.farRead x.cap (bitsOf x.ctl 1 5) x.o x.n)))) ∧
    (v.sh.pc < 15 → v.sh.stack = st → st.length ≤ 3 → perm 11 → exec (.shLload k) s = .next (go s (top (BitVec.ofNat 64
      (if 2 ≤ (s.link k.toNat).st then 65535 else min (s.link k.toNat).out.length 65535))) v.clones)) ∧
    (v.sh.pc < 15 → v.sh.stack = st ++ [a] → st.length ≤ 3 → (first → perm 7) →
      (a.toNat < 4096 → ∀ c, s.counterOf t a.toNat = some c → exec .shRdc s = .next (go s (top (tget 0 s.fab.counters c)) v.clones)) ∧
      (4096 ≤ a.toNat ∨ s.counterOf t a.toNat = none → parks .shRdc 0x0C5 a) ∧
      (first → ¬ valid w.toNat → parks (.shRdw w) 0x10A a) ∧
      ((first → valid w.toNat) → a.toNat % 8 ≠ 0 → parks (.shRdw w) 0x08E a) ∧
      ((first → valid w.toNat) → a.toNat % 8 = 0 → access (.shRdw w) (ask w.toNat a.toNat 8 1 0) a (fun i n => .read 0 i n)
        (fun u x => go (u.dropAsks (.visit v.id)) (top (s.winGot v x)) v.clones))) ∧
    (v.sh.pc < 15 → v.sh.stack = st ++ [a, b] → st.length ≤ 2 → (first → perm 8) →
      (first → ¬ valid w.toNat → parks (.shAddw w) 0x10A a) ∧
      ((first → valid w.toNat) → a.toNat % 8 ≠ 0 → parks (.shAddw w) 0x08E a) ∧
      ((first → valid w.toNat) → a.toNat % 8 = 0 → access (.shAddw w) (ask w.toNat a.toNat 8 7 0) a (fun _ _ => .add b) (fun u x =>
        let y := if isSpad x.cap then u
          else u.farWrite x.cap (bitsOf x.ctl 1 5) x.o (leBytes 8 (((s.winGot v x).toNat + b.toNat) % 2 ^ 64)) none
        go (y.dropAsks (.visit v.id)) (top (s.winGot v x)) v.clones))) ∧
    (∀ d rest, v.sh.pc < 15 → rest.length ≤ 4 →
        (k.toNat < 7 ∧ d = k.toNat ∧ v.sh.stack = rest) ∨ (k = 7 ∧ d = a.toNat ∧ v.sh.stack = rest ++ [a]) →
      let sh := { v.sh with stack := rest }
      (5 < d → parks (.shDir k) 0x107 0) ∧ (d ≤ 5 → exec (.shDir k) s = .next (go s { sh with dir := d } v.clones)) ∧
      (perm 9 → 5 < d → parks (.shClone k) 0x107 0) ∧
      (perm 9 → d ≤ 5 → v.clones = 4 → parks (.shClone k) 0x109 0) ∧
      (perm 9 → d ≤ 5 → v.clones < 4 → v.sh.budget = 0 → parks (.shClone k) 0x103 0) ∧
      (perm 9 → d ≤ 5 → v.clones < 4 → 0 < v.sh.budget → ¬ perm (1 + d) → parks (.shClone k) 0x106 0) ∧
      (perm 9 → d ≤ 5 → v.clones < 4 → 0 < v.sh.budget → perm (1 + d) → (s.link d).st = 4 → parks (.shClone k) 0x108 0) ∧
      (perm 9 → d ≤ 5 → v.clones < 4 → 0 < v.sh.budget → perm (1 + d) → (s.link d).st ≠ 4 →
        exec (.shClone k) s = .next (go (s.depart d (leaves d rest)) sh (v.clones + 1)))) ∧
    (first → (¬ perm 9 → parks (.shClone k) 0x106 0) ∧ (¬ perm 7 → parks .shRdc 0x106 0 ∧ parks (.shRdw w) 0x106 0) ∧
      (¬ perm 8 → parks (.shAddw w) 0x106 0) ∧ (¬ perm 10 → parks .shDlv 0x106 0) ∧ (¬ perm 11 → parks (.shLload k) 0x106 0)) ∧
    (v.sh.stack.length ≤ 4 → v.sh.dir ≤ 5 → perm (1 + v.sh.dir) → (s.link v.sh.dir).st ≠ 4 →
      (0 < v.sh.budget → exec .shFwd s = .next ((s.depart v.sh.dir (leaves v.sh.dir v.sh.stack)).endVisit v)) ∧
      (v.sh.budget = 0 → parks .shFwd 0x103 0)) ∧
    (v.sh.stack.length ≤ 4 → 0 < v.sh.budget → v.sh.dir ≤ 5 → ¬ perm (1 + v.sh.dir) → parks .shFwd 0x106 0) ∧
    (v.sh.stack.length ≤ 4 → (first → perm 10) →
      (first → ¬ valid v.sh.dlvWin → parks .shDlv 0x10A v.sh.dlvOff) ∧
      (first → valid v.sh.dlvWin → s.counterOf t v.sh.dlvCtr = none → parks .shDlv 0x0C5 (BitVec.ofNat 64 v.sh.dlvCtr)) ∧
      (∀ c, (first → valid v.sh.dlvWin ∧ s.counterOf t v.sh.dlvCtr = some c) →
        let n := 32 + 64 * v.sh.flits
        let bs := fitBytes n (v.sh.g.flatMap (fun x => leBytes 8 x.toNat) ++ v.sh.payload)
        access .shDlv (ask v.sh.dlvWin v.sh.dlvOff.toNat n 2 c) v.sh.dlvOff (fun i m => .write ((bs.drop i).take m)) (fun u x =>
          let y := if isSpad x.cap then u else u.farWrite x.cap (bitsOf x.ctl 1 5) x.o bs none
          (y.setCounter x.ctr (tget 0 y.fab.counters x.ctr + 1)).endVisit v))) ∧
    (v.sh.stack.length ≤ 4 → exec .shKill s = .next ({ s with sh := { s.sh with drops := (s.sh.drops + 1) % 2 ^ 16 } }.endVisit v))

/-- R81, R143, R166 to R172, R183 to R186: SHSEND reads the image of a shuttle and, as it completes, the shuttle leaves by the link of
its image, one hop poorer; one that arrives waits in the buffer; a grant starts a visit; parking keeps a record until 16 of a tenant,
or 256, are held. -/
def Obligations.ShuttleTraffic : Prop :=
  (∀ (s : State) (a : BitVec 4) (x y : BitVec 5), s.run.phase ≠ .running → s.cClear [.c a.toNat, .s x.toNat, .s y.toNat] →
    let k := s.creg a.toNat
    let o := (s.sreg y.toNat).toNat
    let f := (s.sreg x.toNat).toNat
    let n := 128 + 64 * f
    let has : Bool := s.preHas o n
    let b := if isSpad k then s.preGot o n else s.objRead (capObj k) o n
    let sh := shuttleOf b
    let c := s.afterCut k (s.checkAcc k 1 o n)
    let may : Prop := isSpad k = true ∧ has = true ∨ c = .ok ∧ s.partStop k o n = none
    (4 < f → exec (.shsend a x y) s = .next (s.fault 3 0x0C6 0 0 0)) ∧
    (f ≤ 4 → (isSpad k = true → has = false) → (∀ e, c = .bad e → exec (.shsend a x y) s = .next (s.fault 3 e k (BitVec.ofNat 64 o) 0)) ∧
      (c = .ok → ∀ e p, s.partStop k o n = some (.code e k p) → exec (.shsend a x y) s = .next (s.fault 3 e k (BitVec.ofInt 64 p) 0))) ∧
    (f ≤ 4 → may → s.waitingFor .pre = true → exec (.shsend a x y) s = .next s) ∧
    (f ≤ 4 → may → s.waitingFor .pre = false →
      (isSpad k = true → has = false → exec (.shsend a x y) s = .next { s with sram := { s.sram with
        queue := s.sram.queue ++ s.rowReads 1 .pre [(o, o, n)] } }) ∧
      ((isSpad k = true → has = true) →
        (s.imageOk b f = false → exec (.shsend a x y) s = .next (s.fault 3 0x0C6 0 0 0)) ∧
        (s.imageOk b f = true → ∃ t : State, exec (.shsend a x y) s = .next t ∧ t.sh = s.sh ∧ s.copies t (CJob.plain none
          (s.sideLat k (o, o + n) false)
          [.inject { sh with origin := BitVec.ofNat 16 s.fab.coord, tenant := BitVec.ofNat 6 s.ctl.vi, budget := sh.budget - 1 }]
          (s.segsOf k (o, o + n))))))) ∧
  (∀ (s : State) (sh : Shuttle), s.applyWrite (.inject sh) = s.depart sh.dir sh ∧
    (s.depart sh.dir sh).sh = { s.sh with departed := s.sh.departed ++ [(sh.dir, sh)] } ∧
    ((s.link sh.dir).st < 2 → (tget .reset (s.depart sh.dir sh).fab.links sh.dir).out =
      (s.link sh.dir).out ++ (shLoads sh).map (fun x => ⟨x, sh.dir, 0, none⟩))) ∧
  (∀ (s : State) (l : Nat) (sh : Shuttle),
    exec (.shuttleArrival l sh) s = .next { s with sh := { s.sh with buffer := s.sh.buffer ++ [(l, sh)] } }) ∧
  (∀ (s : State) (x : Nat × Shuttle), s.illVisit = none → s.granted = some x →
    let v : Visit := ⟨s.sh.visitNo, { x.2 with hops := (x.2.hops + 1) % 256, pc := 0 }, x.1, s.clk.tape, 0, 0, s.clk.tape, none⟩
    ∃ t : State, t.regs = s.regs ∧ sameBytes s t ∧ t.sh.rr = x.2.tenant.toNat ∧
      t.sh.eng = s.sh.eng ++ [v] ∧ t.sh.visitNo = s.sh.visitNo + 1 ∧
      t.sh.buffer.length + 1 = s.sh.buffer.length ∧ t.sh.visits = (s.sh.visits + 1) % 2 ^ 16 ∧
      exec .shuttleVisit s = .next (if bitsOf (s.shPerm x.2.tenant.toNat) 0 1 = 1 then t else t.parkVisit v 0x106 0)) ∧
  (∀ (s : State) (v : Visit), s.illVisit = some v → exec .shuttleVisit s = .next (s.parkVisit v 0x049 0)) ∧
  (∀ (s : State) (v : Visit) (c : Nat) (o : W64),
    let t := s.parkVisit v c o
    let full := 256 ≤ s.sh.parks.length ∨ 16 ≤ (s.sh.parks.filter (fun p => p.tenant = v.sh.tenant.toNat)).length
    t.regs = s.regs ∧ sameBytes s t ∧ t.sh.eng = s.sh.eng.filter (fun x => x.id ≠ v.id) ∧
    (full → t.sh.parks = s.sh.parks ∧ t.sh.drops = (s.sh.drops + 1) % 2 ^ 16) ∧
    (¬ full → t.sh.parks = s.sh.parks ++ [⟨s.sh.parkNo + 1, v.sh.tenant.toNat, c, v.link, s.clk.tape, { v.sh with status := 1 }, v.steps, o⟩] ∧
      t.sh.drops = s.sh.drops))

/-! ### Chains, runs, the tape and the package on their own -/

/-- R47 to R50, R113, R116, R120, R121: what a chain engine does with the entry under its head: a command is decoded, a loop entry
goes round, a link jumps, an end stops, a conditional one decides about the next; an entry that may not be read or is malformed
faults, and one that is past its bound is recorded and faults. -/
def Obligations.ChainEvents : Prop :=
  (∀ (s : State), s.decodes s.actor = true →
    let e := s.actor
    let c := s.chain e
    (∀ k, s.peek e = .error k → ∀ i ∈ [Instr.chainEntryDecode, .chainLoopEntry, .chainLinkEntry, .chainEndEntry],
      (s.winAddr c.win c.pos 16 = .error k →
        exec i s = .next (s.fault (engNo e) k c.win (BitVec.ofNat 64 (capLower c.win + c.pos)) 0)) ∧
      (∀ a, s.winAddr c.win c.pos 16 = .ok a → exec i s = .next (s.fault (engNo e) k 0 0 0))) ∧
    (∀ r, s.peek e = .ok r →
      let skip := decide (c.after = some false)
      let goes (i : Instr) (f : Chain → Prop) : Prop := ∃ t : State, exec i s = .next t ∧ t.regs = s.regs ∧ sameBytes s t ∧
        t.mem = s.mem ∧ t.sram = s.sram ∧ (t.chain e).cur = none ∧ (t.chain e).next = s.clk.tape + 1 ∧ f (t.chain e)
      let on (ls : List (Nat × Nat)) (d : Chain) : Prop := d.pos = c.pos + 16 ∧ d.e = (c.e + 1) % 2 ^ 24 ∧ d.loops = ls
      let back (ls : List (Nat × Nat)) (d : Chain) : Prop := d.pos = (c.pos + 2 ^ 32 - 16 * (r.w0 % 2 ^ 16)) % 2 ^ 32 ∧
        d.e = (r.seq + 2 ^ 24 - r.w0 % 2 ^ 16) % 2 ^ 24 ∧ d.loops = ls
      let en : Entry := {
        word := BitVec.ofNat 32 r.w0, token := BitVec.ofNat 32 r.tok, bound := r.bound, seq := r.seq, pos := c.pos
        loops := c.loops, at_ := s.clk.tape, needs := if skip then [] else s.captures r.tok
        cond := if r.kind = 2 then some (decide (r.ctl / 2 ^ 24 % 2 = 1)) else none, skip := skip, ready := false, held := false }
      (r.kind = 0 ∨ r.kind = 2 → exec .chainEntryDecode s = .next (s.setChain e { c with st := 2, cur := some en })) ∧
      (r.kind = 1 → (∀ m, c.loops.head? ≠ some (r.seq, m)) →
        (1 < r.w0 / 2 ^ 16 → goes .chainLoopEntry (back ((r.seq, r.w0 / 2 ^ 16 - 1) :: c.loops))) ∧
        (r.w0 / 2 ^ 16 = 1 → goes .chainLoopEntry (on c.loops))) ∧
      (r.kind = 1 → ∀ m ls, c.loops = (r.seq, m) :: ls →
        (1 < m → goes .chainLoopEntry (back ((r.seq, m - 1) :: ls))) ∧ (m = 1 → goes .chainLoopEntry (on ls))) ∧
      (r.kind = 3 → goes .chainLinkEntry (fun d => d.pos = r.w0 ∧ d.e = (c.e + 1) % 2 ^ 24 ∧ d.loops = c.loops)) ∧
      (r.kind = 4 → goes .chainEndEntry (fun d => d.st = 0 ∧ d.loops = [])))) ∧
  (∀ (s : State) (en : Entry) (arg : Bool) (b : List Byte),
    let e := s.actor
    let c := s.chain e
    e ≠ .s → c.cur = some en → en.cond = some arg → (∀ n ∈ en.needs, (tget 0 s.cmp n.1 - n.2).toNat < 2 ^ 31) →
    (s.winRead c.win en.word.toNat 4 = .ok b → ∃ t : State, exec .chainCondEntry s = .next t ∧ t.regs = s.regs ∧ sameBytes s t ∧
      (t.chain e).after = some (if arg then decide (leNat b ≠ 0) else decide (leNat b = 0)) ∧ (t.chain e).cur = none ∧
      (t.chain e).pos = c.pos + 16 ∧ (t.chain e).e = (c.e + 1) % 2 ^ 24 ∧
      ∀ j, tget 0 t.iss j = if j = en.token.toNat % 256 ∧ j ≠ 0 then tget 0 s.iss j + 1 else tget 0 s.iss j) ∧
    (∀ k, s.winRead c.win en.word.toNat 4 = .error k → exec .chainCondEntry s = .next
      (s.fault (engNo e) k c.win (BitVec.ofNat 64 (capLower c.win + en.word.toNat)) 0))) ∧
  (∀ (s : State) (e : Engine), [Engine.v, .m, .c].find? (fun e => (s.overCmd e).isSome || (s.overEntry e).isSome) = some e →
    s.run.phase = .off → s.trap.stop = none →
    let bounded (seq issued again : Nat) (w : Nat × Nat) : Prop := ∃ t : State, exec .chainBound s = .next t ∧ t.regs = s.regs ∧ sameBytes s t ∧
      let info : W64 := BitVec.ofNat 64 (seq % 2 ^ 24 + engNo e * 2 ^ 24 + w.1 * 2 ^ 26 + w.2 % 2 ^ 12 * 2 ^ 30 + issued * 2 ^ 42 + again * 2 ^ 43)
      t.ctl = { s.ctl with cboundinfo := info } ∧
      t.trap = { s.trap with stop := some ⟨s.clk.tape, 0x0C0, 0, engNo e, 0, 0, info, false, decide (again = 1)⟩ }
    (∀ x, s.overCmd e = some x → x.writes = [] → bounded x.seq 1 (if x.once then 0 else 1) (s.flightKind e x)) ∧
    (∀ en, s.overCmd e = none → s.overEntry e = some en → bounded en.seq 0 1 (s.waitKind e en)))

/-- R74, R83, R315: a write of the object table leaves the ports as they are until an invalidation of its scope ends; one
invalidation runs at a time; a parked access is checked again, goes on, parks twice as long, or traps, and so is another core's request,
which is granted or refused; a combining line leaves its buffer in time to have performed 4,096 cycles after its first store.
R413: with an entry that makes it FREE an object's life ends, and its binding to an entry. -/
def Obligations.MemoryEvents : Prop :=
  (∀ (s : State) (o : Nat) (e : ObjEntry), exec (.objectTableWrite o e) s = .next { s with mem := { s.mem with
    obj := tset none s.mem.obj o (some e)
    bound := if e.state = 0 ∨ 3 < e.state ∨ 2 < e.kind then tset none s.mem.bound o none else s.mem.bound } }) ∧
  (∀ (s : State) (o k : Nat),
    (s.mem.inv = none →
      exec (.invalidateObject o) s = .next { s with mem := { s.mem with inv := some (0, o) } } ∧
      exec (.invalidateKeyslot k) s = .next { s with mem := { s.mem with inv := some (1, k) } } ∧
      exec .invalidateAll s = .next { s with mem := { s.mem with inv := some (2, 0) } }) ∧
    (s.mem.inv ≠ none → ∀ i ∈ [Instr.invalidateObject o, .invalidateKeyslot k, .invalidateAll], exec i s = .next s)) ∧
  (∀ (s : State) (sc k : Nat), s.mem.inv = some (sc, k) → sc < 3 →
    ∃ t : State, exec .invalidationComplete s = .next t ∧ t.mem.inv = none ∧ t.mem.obj = s.mem.obj ∧ t.regs = s.regs ∧ sameBytes s t ∧
      ∀ id,
        let slot (x : Option ObjEntry) : Prop := ∃ e, x = some e ∧ e.keySlot = k
        let hit : Prop := sc = 2 ∨ (sc = 0 ∧ id = k) ∨ (sc = 1 ∧ (slot (tget none s.mem.port id) ∨ slot (tget none s.mem.obj id)))
        (hit → tget none t.mem.port id = tget none s.mem.obj id) ∧ (¬ hit → tget none t.mem.port id = tget none s.mem.port id)) ∧
  (∀ (s : State) (p : Parked), s.mem.parked.find? (fun x => x.retryAt ≤ s.clk.tape) = some p →
    let rest := s.mem.parked.filter (fun x => x.who ≠ p.who)
    let free (x : SIssue) : State := { s with mem := { s.mem with parked := rest }, sx := x }
    let goes (x : SIssue) : Prop := exec .parkedRetry s = .next (free x).popDelay
    let longer (q : Nat) : Prop :=
      let w := min (2 * p.wait) (2 ^ (tget 20 s.mem.retryCeil q))
      exec .parkedRetry s = .next
        { s with mem := { s.mem with parked := rest ++ [{ p with port := q, wait := w, retryAt := s.clk.tape + w }] } }
    let traps (x : SIssue) (k : Nat) (c : Cap) (o : Nat) : Prop := exec .parkedRetry s = .next ((free x).fault 0 k c (BitVec.ofNat 64 o) 0)
    let look (k : Cap) (o n : Nat) : Chk := s.checkObj k o n s.ctl.vi s.ctl.world
    (∀ n l, p.who = .load n → s.sx.loads.find? (fun x => x.seq = n) = some l →
      let c := look l.cap l.off l.size
      (c = .ok → goes { s.sx with loads := s.sx.loads.map (fun x => if x.seq = n then
        { x with parked := false, due := some (s.clk.tape + s.readLat (capObj l.cap) l.off + s.delay) } else x) }) ∧
      (∀ q, c = .park q → longer q) ∧
      (∀ k, c = .bad k → traps { s.sx with loads := s.sx.loads.filter (fun x => x.seq ≠ n) } k l.cap l.off)) ∧
    (∀ n r, p.who = .store n → s.sx.stores.filter (fun x => x.seq = n) = [r] →
      let c := look r.cap r.off r.bytes.length
      (c = .ok → goes { s.sx with stores := s.sx.stores.map (fun x => if x.seq = n then
        { x with parked := false, due := some (s.clk.tape + s.writeLat (capObj r.cap) r.off + s.delay) } else x) }) ∧
      (∀ q, c = .park q → longer q) ∧
      (∀ k, c = .bad k → traps { s.sx with stores := s.sx.stores.filter (fun x => x.seq ≠ n) } k r.cap r.off)) ∧
    (∀ x, p.who = .blk → s.sx.blk = some x →
      let c := look x.cap x.a.toNat x.n
      (c = .ok → goes { s.sx with blk := some { x with
        parked := false, ready := s.clk.tape + s.readLat (capObj x.cap) x.a.toNat + s.delay } }) ∧
      (∀ q, c = .park q → longer q) ∧ (∀ k, c = .bad k → traps { s.sx with blk := none } k x.cap x.a.toNat)) ∧
    (∀ id v a, p.who = .visit id → s.sh.eng.find? (fun x => x.id = id) = some v → v.acc = some a →
      let c := s.winCheckAt v.sh.tenant.toNat a.cap a.ctl a.o a.n a.need
      (∀ q, c = .park q → longer q) ∧
      ((∀ q, c ≠ .park q) → exec .parkedRetry s = .next { s with mem := { s.mem with parked := rest } })) ∧
    (∀ k c g t, p.who = .ask → s.ownGrant = some (k, c, g, t) →
      ∃ u : State, exec .parkedRetry s = .next u ∧ u.regs = s.regs ∧ sameBytes s u ∧ u.cx = { s.cx with parked := u.isParked .ask } ∧
        ((∀ q, c ≠ .park q) → u.isParked .ask = false)) ∧
    (∀ r, p.who = .req r →
      let u : State := { s with mem := { s.mem with parked := rest } }
      (s.reqCheck r = .ok → exec .parkedRetry s = .next (u.grantReq r)) ∧ (∀ q, s.reqCheck r = .park q → longer q) ∧
      (∀ k, s.reqCheck r = .bad k → exec .parkedRetry s = .next (u.tellReq r (some k))))) ∧
  (∀ (s : State) (l : CombLine), s.oldLine = some l →
    l ∈ s.sx.comb ∧ (∀ id o, l.dest = .obj id o → l.first + 4096 ≤ s.clk.tape + s.lineLat l) ∧
    (∀ a, l.dest = .sram a → l.first + 3072 ≤ s.clk.tape + s.lineLat l) ∧
    ∃ (t : State) (new : List StoreRec), exec .stcbLineTimeout s = .next t ∧ t.regs = s.regs ∧ sameBytes s t ∧
      t.sx.comb = s.sx.comb.filter (fun x => x.seq ≠ l.seq) ∧ t.sx.stores = s.sx.stores ++ new ∧
      (∀ r ∈ new, r.seq = l.seq ∧ r.loose = true ∧ r.bypass = false ∧ r.mask = l.classes ∧
        ∀ d, r.due = some d → d ≤ max (l.first + 4096) s.clk.tape) ∧
      (∀ a, l.dest = .sram a → new.flatMap (fun r => r.bytes) = (cellRuns l.cells).flatMap (fun x => x.2) ∧ ∀ r ∈ new, r.due = none))

/-- R149, R159, R328, R329, R364, R365, R369 to R371: a run starts at its cycle if everything stands as it must, on the failover pattern
where the one in force has lost a link, and otherwise fails; it ends after its length, or stands in a hold; an abort ends the hold of
its group, and every member stops a span and eight cycles after its detection, its frame naming the detector; a restart takes the
restart record back, at a new release of its seam. -/
def Obligations.RunEvents : Prop :=
  (∀ (s : State), s.run.phase = .lead → s.sx.hold = .run → s.run.abort = none → s.run.fail = none →
    let late := s.run.t0 < s.run.issued + s.run.lead_
    let fails (c : Nat) : Prop := exec .runStart s = .next { s with run := { s.run with
      fail := some ⟨s.clk.tape, c, 0, 0, 0, 0, 0, false, true⟩ } }
    let flying := s.cv.flying + s.cm.flying + s.cc.flying
    let lost (pat : Table (List (Nat × Nat))) : Prop := ∃ k, k < 6 ∧ 2 ≤ (s.link k).st ∧ ∃ x ∈ tget [] pat k, x.2 = 1
    let switch : Prop := s.grp.failover = false ∧ lost s.fab.pattern ∧ s.fab.failRoutes.isSome = true
    let bad : Prop := (switch ∧ lost s.fab.failPattern) ∨ (¬ switch ∧ lost (if s.grp.failover then s.fab.failPattern else s.fab.pattern)) ∨
      (s.run.slots = true ∧ ∃ x, s.group s.run.group = some x ∧ x.grain ≠ 256)
    let st (x : Stream) : Stream := { x with next := s.clk.tape }
    let begun : Run := { s.run with
      phase := .running, started := true, s := st s.run.s, v := st s.run.v, m := st s.run.m, c := st s.run.c }
    (late → fails 0x205) ∧
    (¬ late → s.clk.tape < s.run.t0 → exec .runStart s = .next s) ∧
    (¬ late → s.run.t0 ≤ s.clk.tape →
      (flying ≠ 0 → fails 0x206) ∧
      (flying = 0 → bad → fails 0x102) ∧
      (flying = 0 → ¬ bad → s.clk.aligned = false → fails 0x282) ∧
      (flying = 0 → ¬ bad → s.clk.aligned = true →
        (¬ switch → exec .runStart s = .next { s with run := begun }) ∧
        (switch → exec .runStart s = .next { s with
          run := begun, grp := { s.grp with failover := true }
          fab := { s.fab with routes := s.fab.failRoutes.getD s.fab.routes, xbar := tset [] s.fab.xbar s.ctl.launchNo s.fab.failXbar } })))) ∧
  (∀ (s : State) (x : Group), s.run.phase = .running → s.run.t0 + s.run.len ≤ s.clk.tape → s.group s.run.group = some x →
    let held := x.hold.st ≠ 0 ∧ x.hold.q + x.span + 8 ≤ s.clk.tape
    (held → exec .runEnd s = .next { s with run := { s.run with phase := .held } }) ∧
    (¬ held → ∃ t : State, exec .runEnd s = .next t ∧ t.run.phase = .off ∧ t.regs = { s.regs with pc := s.regs.pc + 4 } ∧
      t.sx.hold = .no ∧ t.sx.safe = none ∧ t.sx.next = s.clk.tape ∧ sameBytes s t ∧ t.pend = s.pend ∧
      ∀ e ∈ [Engine.v, .m, .c], (t.chain e).after = (s.chain e).after ∧
        (t.chain e).st = if (s.chain e).st = 3 then (s.chain e).prev else (s.chain e).st)) ∧
  (∀ (s : State) (g code core : Nat),
    let held : Prop := ∃ x, s.group g = some x ∧ x.hold.st ≠ 0
    let u := s.dropHold g
    (¬ held → u = s) ∧
    (held → u.regs = s.regs ∧ sameBytes s u ∧ u.run = s.run ∧ u.sx = s.sx ∧ u.trap = s.trap ∧
      ∀ x, s.group g = some x → ∃ y, u.group g = some y ∧ y.hold = { x.hold with st := 0, lift := s.clk.tape, miss := false }) ∧
    (s.member g = false ∨ s.sx.on = false → exec (.runAbort ⟨g, code, core⟩) s = .next u) ∧
    (s.member g = true → s.sx.on = true →
      let mine (r : FaultRec) : Prop := core = s.ctl.lcore ∧ s.run.phase ≠ .off ∧ s.run.group = g ∧ s.runFail = some r ∧ r.cause = code
      (∀ a, s.run.abort = some a → a.at_ ≠ s.clk.tape ∨ a.group ≠ g → exec (.runAbort ⟨g, code, core⟩) s = .next u) ∧
      (s.run.abort = none → ∃ f : FaultRec,
        exec (.runAbort ⟨g, code, core⟩) s = .next { u with run := { s.run with abort := some ⟨s.clk.tape, g, f, code⟩ } } ∧
        f.at_ = s.clk.tape ∧ f.cause = 0x280 ∧ f.inRun = decide (s.run.phase ≠ .off) ∧ (f.restartable = true ↔ endsLaunch code = false) ∧
        (∀ r, mine r → f.under = code ∧ f.src = r.src ∧ f.cap = r.cap ∧ f.off = r.off) ∧
        ((∀ r, ¬ mine r) → f.under = 0x284 ∧ f.src = 4 ∧ f.info = BitVec.ofNat 64 (core % 2 ^ 17 + code % 2 ^ 10 * 2 ^ 32))))) ∧
  (∀ (s : State) (a : Abort), s.run.abort = some a → s.sx.on = true → s.trap.stop = none → s.trap.save = none →
    a.at_ + s.spanAt a.group + 8 ≤ s.clk.tape →
    ∃ t : State, exec .abortStop s = .next t ∧ t.run.phase = .off ∧ t.sx.hold = .no ∧ t.trap = { s.trap with stop := some a.frame } ∧
      t.regs = s.regs ∧ sameBytes s t ∧ t.pend = s.pend ∧
      ∀ e ∈ [Engine.v, .m, .c], (t.chain e).st = if (s.chain e).st = 3 then (s.chain e).prev else (s.chain e).st) ∧
  (∀ (s : State) (g code : Nat) (r : Restart),
    s.grp.waitRestart = some (g, code) ∨ (s.grp.waitRestart = none ∧ code = 0x100 ∧
      ∃ x, s.group g = some x ∧ x.hold.st = 2 ∧ s.ctl.lcore ∈ x.members) →
    tget none s.grp.restart g = some r → r.uses < 3 →
    (code = 0x282 → s.clk.aligned = true) → (code = 0x100 → s.grp.failover = true ∨ s.fab.failRoutes.isSome = true) →
    (code = 0x281 → ∀ i ∈ s.fw.islands, usesIsland s.ctl.coreId i.1 = true → i.2.2.2 = false) →
    ∃ t : State, exec (.groupRestart g) s = .next t ∧ t.regs = { r.regs with pc := r.regs.pc - 4 } ∧ t.iss = r.iss ∧ t.cmp = r.cmp ∧
      t.mem = s.mem ∧ t.sram = s.sram ∧ t.rs.views = r.views ∧ t.rs.bytes = [] ∧ t.cx = r.cx ∧ t.dq = r.dq ∧
      t.ctl = { r.ctl with coreId := s.ctl.coreId } ∧ t.sx.on = true ∧ t.sx.next = s.clk.tape ∧ t.sx.hold = .seam g s.clk.tape 0 false none ∧
      t.run.phase = .off ∧ t.pend = [] ∧ t.trap.stop = none ∧ t.grp.waitRestart = none ∧
      (t.grp.failover = true ↔ s.grp.failover = true ∨ code = 0x100) ∧
      tget none t.grp.restart g = some { r with uses := r.uses + 1 } ∧
      (∀ h, h ≠ g → tget none t.grp.restart h = tget none s.grp.restart h) ∧
      ∀ x, s.group g = some x → ∃ y, t.group g = some y ∧ y.released = r.seams ∧ y.met = some s.clk.tape ∧ y.withheld = false ∧ y.fixed = false ∧
        (0 < x.grain → y.releaseAt % x.grain = 0 ∧ s.clk.tape + x.span + x.rel ≤ y.releaseAt ∧
          y.releaseAt < s.clk.tape + x.span + x.rel + x.grain))

/-- R330, R364 to R368, R370, R381: an arrival is counted once, at its group and, where seams are joined, at those above it; the last
one fixes the release, the first cycle of the group's grain after its span and its delay; the release lets S go, or is withheld by a
hold in force, and after the last lift stands a span and a delay on, in its old frame phase; a hold of a group of this core's launch,
or of another with a member here, is requested, becomes late, and is lifted, unless members are saved; of a group with no member here
neither has an effect. -/
def Obligations.SeamEvents : Prop :=
  (∀ (s : State) (g m : Nat) (x : Group), s.group g = some x → m ∈ x.members → tget 0 x.arrived m ≤ x.released →
    (∃ t : State, exec (.seamArrival g m) s = .next t ∧ t.regs = s.regs ∧ sameBytes s t ∧ t.sx = s.sx ∧
      (∀ h y, h ∈ State.upward 3 s g → s.group h = some y → ∃ z, t.group h = some z ∧ tget 0 z.arrived m = y.released + 1 ∧
        z.released = y.released ∧ ∀ n, n ≠ m → tget 0 z.arrived n = tget 0 y.arrived n) ∧
      (∀ h, h ∉ State.upward 3 s g → t.group h = s.group h)) ∧
    (x.joined = none →
      let y := { x with arrived := tset 0 x.arrived m (x.released + 1) }
      ∃ (t : State) (z : Group), exec (.seamArrival g m) s = .next t ∧ t.group g = some z ∧
        ((∃ n ∈ x.members, tget 0 y.arrived n ≤ x.released ∧ n ∉ x.exited) ∨ x.met ≠ none → z = y) ∧
        ((∀ n ∈ x.members, x.released < tget 0 y.arrived n ∨ n ∈ x.exited) → x.met = none → 0 < x.grain →
          z = { y with met := some s.clk.tape, withheld := false, fixed := false, releaseAt := z.releaseAt } ∧
          z.releaseAt % x.grain = 0 ∧
          s.clk.tape + x.span + x.rel ≤ z.releaseAt ∧ z.releaseAt < s.clk.tape + x.span + x.rel + x.grain))) ∧
  (∀ (s : State) (g m : Nat) (x : Group), s.group g = some x → m ∉ x.members ∨ x.released < tget 0 x.arrived m →
    exec (.seamArrival g m) s = .next s) ∧
  (∀ (s : State) (g : Nat) (x : Group), s.releaseDue = some g → s.group g = some x →
    (x.fixed = false → s.withholds g x.releaseAt = true →
      ((∃ h ∈ s.holders g x.releaseAt, h.hold.st ≠ 0) → exec .seamRelease s = .next (s.setGroup g { x with withheld := true })) ∧
      ((∀ h ∈ s.holders g x.releaseAt, h.hold.st = 0) → ∃ u, exec .seamRelease s = .next (s.setGroup g (x.liftedAt u)) ∧
        (∀ h ∈ s.holders g x.releaseAt, h.hold.lift ≤ u) ∧ ∃ h ∈ s.holders g x.releaseAt, u = h.hold.lift)) ∧
    (x.fixed = true ∨ s.withholds g x.releaseAt = false → (∀ p ∈ s.grp.table, ∀ y, p.2 = some y → y.joined = none) →
      ∃ (t : State) (z : Group), exec .seamRelease s = .next t ∧ sameBytes s t ∧ t.group g = some z ∧ z.released = x.released + 1 ∧
        t.sx.epoch = (if s.grp.detGroup = some g then s.sx.epoch + 1 else s.sx.epoch) ∧
        (∀ a b r, s.sx.hold = .seam g a b r none → s.run.phase ≠ .running → t.sx.hold = .no ∧ t.sx.next = s.clk.tape ∧
          t.regs = { s.regs with pc := s.regs.pc + 4 } ∧
          (r = true → ∃ q, tget none t.grp.restart g = some q ∧ q.group = g ∧ q.regs = t.regs ∧ q.uses = 0)) ∧
        (∀ a b r k l, s.sx.hold = .seam g a b r (some (k, l)) → t.sx.hold = .run ∧ t.run.t0 = s.clk.tape + l ∧ t.regs = s.regs))) ∧
  (∀ (x : Group) (u : Nat), let y := x.liftedAt u
    let first := max x.releaseAt (u + x.span + x.rel)
    y.withheld = false ∧ y.fixed = true ∧ y.releaseAt % 256 = x.releaseAt % 256 ∧ first ≤ y.releaseAt ∧ y.releaseAt < first + 256) ∧
  (∀ (s : State) (g n : Nat),
    (s.holdNames n g = false → exec (.holdRequest n g) s = .next s ∧ exec (.holdLift n g) s = .next s) ∧
    (s.holdNames s.ctl.launchNo g = true → ∀ x, s.group g = some x →
      (∃ t : State, exec (.holdRequest s.ctl.launchNo g) s = .next t ∧ t.regs = s.regs ∧ sameBytes s t ∧
        t.group g = some { x with hold := if x.hold.st = 0 then { x.hold with st := 1, q := s.clk.tape, noticed := false, lift := 0, miss := false }
          else x.hold } ∧
        ∀ h, h ≠ g → t.group h = s.group h) ∧
      (s.heldSaved s.ctl.launchNo = true → ∃ t : State, exec (.holdLift s.ctl.launchNo g) s = .next t ∧ t.regs = s.regs ∧ sameBytes s t ∧
        t.grp.table = s.grp.table ∧ t.run = s.run) ∧
      (s.heldSaved s.ctl.launchNo = false → (∀ p ∈ s.grp.table, ∀ y, p.2 = some y → y.withheld = false) →
        ∃ t : State, exec (.holdLift s.ctl.launchNo g) s = .next t ∧ sameBytes s t ∧
          t.group g = some { x with hold := if x.hold.st = 0 then x.hold
            else { x.hold with st := 0, lift := s.clk.tape, miss := false } } ∧
          (s.run.phase = .held → s.run.group = g → t.run.phase = .off ∧ t.sx.hold = .no ∧ t.sx.next = s.clk.tape + 1 ∧
            t.regs = { s.regs with pc := s.regs.pc + 4 }) ∧
          (s.run.phase ≠ .held ∨ s.run.group ≠ g → t.regs = s.regs ∧ t.run = s.run ∧ t.sx = s.sx))) ∧
    (n ≠ s.ctl.launchNo → s.holdNames n g = true → ∀ h ∈ s.fw.holds, h.launch = n → h.group = g →
      (∃ t : State, exec (.holdRequest n g) s = .next t ∧ t.regs = s.regs ∧ sameBytes s t ∧ t.grp.table = s.grp.table ∧
        { h with hold := h.hold.request s.clk.tape false } ∈ t.fw.holds) ∧
      (s.heldSaved n = false → ∃ t : State, exec (.holdLift n g) s = .next t ∧ t.regs = s.regs ∧ sameBytes s t ∧ t.grp.table = s.grp.table ∧
        { h with hold := h.hold.lifted s.clk.tape } ∈ t.fw.holds))) ∧
  (∀ (s : State) (g : Nat) (x : Group), s.lateHold = some (g, x) → exec .holdNoticeElapsed s = .next (s.setGroup g
    { x with hold := { x.hold with late := true, noticed := true } })) ∧
  (∀ (s : State) (h : OtherHold), s.lateHold = none → h ∈ s.fw.holds → h.hold.st = 1 → h.hold.noticed = false →
    h.hold.q + h.notice < s.clk.tape → ∃ t : State, exec .holdNoticeElapsed s = .next t ∧
      { h with hold := { h.hold with late := true, noticed := true } } ∈ t.fw.holds)

/-- R360: TADJ of a management launch takes the new rate, or keeps the old one, and adds its step; any other launch traps with
SYS_PRIV, and a field out of range with TAPE_ARG. Rate 0 to 2 MiHz and a step within 16 bits.
R359 to R363, R439: a clock cycle adds the rate to the phase; a carry swallows it, unless a unit of a negative step is due, which keeps
it; a unit of a positive step swallows one without a carry; a cycle that is kept advances the tape by one, or to the value loaded. A
unit falls due every 1,024 clock cycles; the tape is loaded once; sync flits go out every 4,096 cycles, with their departure and the
last arrival as they leave, and one received gives the
offset and the delay of the exchange whose departure the far end has acknowledged. -/
def Obligations.TapeEvents : Prop :=
  (∀ (s : State) (a : BitVec 5), s.shadow [.s a.toNat] = false →
     let v := (s.sreg a.toNat).toNat
     let step := s.clk.stepPending + (BitVec.ofNat 16 (v / 2 ^ 32)).toInt
     let keep := 2 ^ 63 ≤ v
     (s.ctl.mgmt = false → exec (.tadj a) s = .next (s.unblock.fault 0 0x203 0 0 0)) ∧
     (s.ctl.mgmt = true → v / 2 ^ 48 % 2 ^ 15 = 0 → (keep ∨ v % 2 ^ 32 ≤ 2097152) → -32768 ≤ step → step ≤ 32767 →
       ∃ t : State, exec (.tadj a) s = .next t.past ∧ t.clk.stepPending = step ∧ t.regs = s.regs ∧ sameBytes s t ∧
         t.clk.tape = s.clk.tape ∧ (keep → t.clk.rate = s.clk.rate) ∧ (¬ keep → t.clk.rate.toNat = v % 2 ^ 32)) ∧
     (s.ctl.mgmt = true → v / 2 ^ 48 % 2 ^ 15 ≠ 0 ∨ (¬ keep ∧ 2097152 < v % 2 ^ 32) ∨ step < -32768 ∨ 32767 < step →
       exec (.tadj a) s = .next (s.unblock.fault 0 0x283 0 0 0))) ∧
  ((∀ s : State,
     let carry := 2 ^ 32 ≤ s.clk.phase.toNat + s.clk.rate.toNat
     let p := s.clk.stepPending
     let next (p u : Int) : Clock := { s.clk with
       phase := s.clk.phase + s.clk.rate, stepPending := p, unit := u, clocks := min 1024 (s.clk.clocks + 1) }
     let kept (p u : Int) : Prop := ∃ t : State, exec .clockCycle s = .next t ∧
       t.clk = { next p u with tape := s.clk.load.getD (s.clk.tape + 1), load := none }
     (carry → 0 ≤ s.clk.unit ∨ 0 ≤ p → exec .clockCycle s = .next { s with clk := next p s.clk.unit }) ∧
     (carry → s.clk.unit < 0 → p < 0 → kept (p + 1) 0) ∧
     (¬ carry → 0 < s.clk.unit → 0 < p → exec .clockCycle s = .next { s with clk := next (p - 1) 0 }) ∧
     (¬ carry → s.clk.unit ≤ 0 ∨ p ≤ 0 → kept p s.clk.unit)) ∧
   (∀ s : State,
     let p := s.clk.stepPending
     let u : Int := if 0 < p then 1 else if p < 0 then -1 else 0
     (1024 ≤ s.clk.clocks → exec .tadjStepApply s = .next { s with clk := { s.clk with clocks := 0, unit := u } }) ∧
     (s.clk.clocks < 1024 → exec .tadjStepApply s = .next s)) ∧
   (∀ (s : State) (v : W64),
     (s.clk.loaded = true → exec (.tapeload v) s = .next s) ∧
     (s.clk.loaded = false → ∃ t : State, exec (.tapeload v) s = .next t ∧ t.regs = s.regs ∧ sameBytes s t ∧ t.fab = s.fab ∧
       t.clk.load = some v.toNat ∧ t.clk.loaded = true ∧ t.clk.tape = s.clk.tape ∧ t.clk.phase = s.clk.phase ∧ t.clk.rate = s.clk.rate)) ∧
   (∀ s : State, ∃ t : State, exec .syncFlitSend s = .next t ∧ t.regs = s.regs ∧ sameBytes s t ∧ t.clk = s.clk ∧ ∀ k,
     let l := s.link k
     t.link k = if k < 6 ∧ l.st < 2 ∧ l.syncSent + 4096 ≤ s.clk.tape then
       { l with syncSent := s.clk.tape, out := ⟨.sync 0 0, k, 0, none⟩ :: l.out } else l) ∧
   (∀ (s : State) (k : Nat) (d a : Int), let l := s.link k
     l.st < 2 → l.again = [] → l.wait = [] → l.out = [⟨.sync d a, k, 0, none⟩] → s.rivalLanes k = [] → l.buffer.length < 4095 →
     let m := (s.sendLink k).link k
     m.out = [] ∧ m.nextSeq = l.nextSeq + 1 ∧ m.txNo = l.txNo + 1 ∧
       m.buffer = l.buffer ++ [⟨l.nextSeq, l.txEpoch, l.txNo, ⟨.sync (64 * s.clk.tape) l.syncArr, k, 0, none⟩⟩]) ∧
   (∀ (s : State) (k : Nat) (dep arr : Int), (s.link k).st < 2 →
     let l := s.link k
     let ta : Int := 64 * s.clk.tape
     let m := if l.syncSeen then { l with
       syncArr := ta, valid := true
       offset := Int.tdiv ((ta - dep) - (arr - l.syncDep)) 2, delay := Int.tdiv ((ta - dep) + (arr - l.syncDep)) 2 }
       else { l with syncArr := ta }
     ∃ t : State, exec (.syncFlitReceive k dep arr) s = .next t ∧ t.link k = m ∧ (∀ j, j ≠ k → t.link j = s.link j) ∧ t.regs = s.regs ∧
       sameBytes s t ∧ t.clk.tape = s.clk.tape ∧ (l.syncSeen = false → t.clk = s.clk ∧ t.run = s.run) ∧
       (l.syncSeen = true →
         let far := ∃ j, j < 6 ∧ (t.link j).valid = true ∧ 128 < (t.link j).offset.natAbs
         let near := s.clk.loaded = true ∧ ∀ j, j < 6 → (t.link j).st = 0 → (t.link j).valid = true
         (far → t.clk.aligned = false ∧ (s.run.phase ≠ .off → s.run.phase ≠ .lead → s.run.fail = none →
           t.run.fail = some ⟨s.clk.tape, 0x282, 0, 5, 0, 0, 0, false, true⟩)) ∧
         (¬ far → (t.clk.aligned = true ↔ near ∨ s.clk.aligned = true)))))

/-- R76, R380, R382, R386, R393 to R395, R412, R414, R428: a record is refused with its code or QUEUED; an abort ends a launch; a
launch whose dependences have retired is LEASING, or ends where one failed; with its objects resident it leases them and is READY;
its end scrubs its cores, and after the scrub it is retired with its status; a world that no launch holds any more ends. A launch
whose objects are in part in host swap has them all in its tiers 0 and 1 when it is READY. -/
def Obligations.LaunchEvents : Prop :=
  ∀ (s : State) (vi : BitVec 6) (seq id : W64) (r : List Byte),
    let v := vi.toNat
    let done (u : State) (n : Nat) : State := u.putCpl v (leBytes 8 seq.toNat ++ leBytes 2 n ++ leBytes 1 0x80 ++ List.replicate 21 0)
    let ends (l : Launch) (n : Nat) : State := s.setLaunch { l with st := 6, status := n, scrubAt := 0 }
    let kept (l : Launch) (n : Nat) (t : State) : Prop :=
      t.fw.launches = s.fw.launches.filter (fun x => !(x.vi = l.vi && x.id = l.id)) ∧
      ∃ x ∈ t.fw.retained, x.vi = l.vi ∧ x.id = l.id ∧ x.status = n ∧ x.recs.length = l.recs.length + 1
    ((s.vif v).st = 3 → s.ringsQuiet v →
      (r.length ≠ 256 ∨ fieldAt r 0 4 ≠ 0x584C4B34 → s.recordCode v r = some 0x2C1) ∧
      (∀ c, s.recordCode v r = some c → exec (.launch vi seq r) s = .next (s.putCpl v (leBytes 8 (fieldAt r 16 8 % 2 ^ 64) ++ leBytes 2 c ++
        leBytes 1 0 ++ List.replicate 5 0 ++ leBytes 8 s.clk.tape ++ leBytes 8 0))) ∧
      (s.recordCode v r = none → ∃ (t : State) (l : Launch), exec (.launch vi seq r) s = .next t ∧ t.fw.launches = s.fw.launches ++ [l] ∧
        l.vi = v ∧ l.id = BitVec.ofNat 64 (fieldAt r 16 8) ∧ l.st = 0 ∧ l.no = 0 ∧ l.record = r ∧ l.recs.length = 1 ∧ l.accept = s.clk.tape ∧
        l.depends = [136, 144, 152, 160].map (fun o => BitVec.ofNat 64 (fieldAt r o 8)) ∧ l.leases = s.leaseList r ∧
        t.regs = s.regs ∧ t.mem = s.mem ∧ t.tr = s.tr) ∧
      (s.launchId v id = none → exec (.abort vi seq id) s = .next (done s 0)) ∧
      (∀ l, s.launchId v id = some l →
        (l.st = 6 → exec (.abort vi seq id) s = .next (done s 0)) ∧
        (l.st ≠ 0 → l.st ≠ 6 → exec (.abort vi seq id) s = .next (done (ends l 0x2C5) 0)) ∧
        (l.st = 0 → ∃ t : State, exec (.abort vi seq id) s = .next t ∧ kept l 0x2C5 t ∧ t.regs = s.regs ∧ t.mem = s.mem))) ∧
    (∀ l, s.launchId v id = some l →
      let ds := l.depends.filter (fun d => d ≠ 0)
      let failed : Prop := ∃ d ∈ ds, ∃ x ∈ s.fw.retained, x.vi = l.vi ∧ x.id = d ∧ x.status ≠ 0
      (l.st = 0 →
        ((∃ d ∈ ds, s.launchId v d ≠ none) → exec (.dependencesSettled vi id) s = .next s) ∧
        ((∀ d ∈ ds, s.launchId v d = none) → failed → exec (.dependencesSettled vi id) s = .next (ends l 0x2C4)) ∧
        ((∀ d ∈ ds, s.launchId v d = none) → ¬ failed → exec (.dependencesSettled vi id) s = .next (s.setLaunch { l with st := 1 }))) ∧
      (l.st = 1 → (∃ x ∈ l.leases, s.leaseOk v x = false) → exec (.leasesResident vi id) s = .next (ends l 0x2C3)) ∧
      (l.st = 1 → (∀ x ∈ l.leases, s.leaseOk v x = true) →
        let away : Prop := ∃ x ∈ l.leased, ∃ e, tget none s.mem.obj x.1 = some e ∧ ∃ g ∈ e.segs, g.valid = true ∧ g.tier = 2
        (∃ t : State, exec (.leasesResident vi id) s = .next t ∧ t.regs = s.regs ∧ t.tr.host = s.tr.host ∧ (t = s ∨
          (∃ m, t.launchId v id = some m ∧ m.st = 2) ∧ ∀ x ∈ l.leased, ∀ f, tget none t.mem.obj x.1 = some f →
            ∀ g ∈ f.segs, g.valid = true → g.tier ≠ 2)) ∧
        (¬ away → s.keyHandle v l.record = none → ∃ (t : State) (m : Launch), exec (.leasesResident vi id) s = .next t ∧ t.regs = s.regs ∧
          sameBytes s t ∧ t.launchId v id = some m ∧ m.st = 2 ∧ m.world = 0 ∧ m.recs.length = l.recs.length + 2 ∧
          ∀ o e, tget none s.mem.obj o = some e →
            let n := l.leased.countP (fun x => x.1 = o)
            (n = 0 → tget none t.mem.obj o = some e) ∧
            (0 < n → ∃ f, tget none t.mem.obj o = some f ∧ f.state = 2 ∧ f.leaseCount = (e.leaseCount + n) % 256 ∧ f.size = e.size ∧
              f.segs = e.segs))) ∧
      (s.mayRetire l = true → ∃ (t : State) (m : Launch), exec (.launchRetire vi id) s = .next t ∧ t.launchId v id = some m ∧
        m.st = 6 ∧ s.clk.tape < m.scrubAt ∧ m.scrubAt ≤ s.clk.tape + 2304 ∧ t.regs = s.regs ∧
        (s.mine l = true → t.iss = [] ∧ t.cmp = [] ∧ t.rs = RegSpace.reset ∧ t.pend = [] ∧ t.ctl.launchNo = 0) ∧
        ∀ c ∈ s.boundTo l.no, t.bindState c = 3) ∧
      (s.scrubDue l = true → ∃ t : State, exec (.scrubEnd vi id) s = .next t ∧ kept l l.status t ∧ t.regs = s.regs ∧ sameBytes { s with tr := t.tr } t ∧
        ∀ c ∈ s.boundTo l.no, t.bindState c = 0 ∧ t.bindOf c = 0)) ∧
    (∀ w, (∀ x ∈ s.tr.worlds, x.1 = w → s.keyNamed x.2.1 x.2.2 = true) → exec (.worldEnd w) s = .next s) ∧
    (∀ w, (∃ x ∈ s.tr.worlds, x.1 = w ∧ s.keyNamed x.2.1 x.2.2 = false) → ∃ t : State, exec (.worldEnd w) s = .next t ∧ t.regs = s.regs ∧
      sameBytes s t ∧ (∀ x, x ∈ t.tr.worlds ↔ x ∈ s.tr.worlds ∧ x.1 ≠ w) ∧ tget 0 t.mem.worldKey w = 0 ∧
      ∀ o e, tget none s.mem.obj o = some e → tget none t.mem.obj o = some (if e.worldID = w then { e with worldID := 0xFFFF } else e))

/-- R409, R410, R420 to R425, R430, R431, R435, R436: the check of a ring's entry; the writes by which the host and the management
firmware work the rings; and the commands of an interface, each ending with its completion record. -/
def Obligations.RingEvents : Prop :=
  ∀ (s : State) (vi : BitVec 6) (seq a : W64) (r : BitVec 2) (w : W64),
    let v := vi.toNat
    let x := s.vif v
    let k := x.ring r.toNat
    let n := 2 ^ (k.size.toNat % 32)
    let rec' (q st : Nat) : List Byte := leBytes 8 q ++ leBytes 2 st ++ leBytes 1 0x80 ++ List.replicate 21 0
    let done (u : State) (st : Nat) : State := u.putCpl v (rec' seq.toNat st)
    let put (k' : Ring) : State := s.setVif v (x.setRing r.toNat k')
    (let e := s.hostRead (k.base.toNat + 64 * (k.head.toNat % n)) 64
     let p := s.payload e
     let q := fieldAt e 0 8
     let good := k.tagOk (leBytes 1 v ++ leBytes 1 r.toNat ++ e.take 48 ++ p) (e.drop 48)
     let head := BitVec.ofNat 64 ((k.head.toNat % n + 1) % n)
     (good = false → s.ringEntry v r.toNat =
       ((put { k with head := head, authFails := (k.authFails + 1) % 2 ^ 24 }).putCpl v (rec' 0 0x303), none)) ∧
     (good = true → q < k.n.toNat → s.ringEntry v r.toNat =
       ((put { k with head := head, replays := (k.replays + 1) % 2 ^ 24 }).putCpl v (rec' 0 0x300), none)) ∧
     (good = true → k.n.toNat < q → s.ringEntry v r.toNat = ((put { k with st := 1 }).putCpl v (rec' 0 0x301), none)) ∧
     (good = true → q = k.n.toNat → ∀ i, cmdOf v e p = some i →
       s.ringEntry v r.toNat = (put { k with head := head, n := k.n + 1 }, some i)) ∧
     (k.st = 0 → k.n = BitVec.allOnes 64 → s.wrapRing v r.toNat = (put { k with st := 2 }).putCpl v (rec' 0 0x302))) ∧
    (x.st ≠ 3 ∨ v ∈ s.env.unstreamed ∨ 2 ^ 16 ≤ w.toNat → exec (.doorbell vi r w) s = .next s) ∧
    (x.st = 3 → v ∉ s.env.unstreamed → w.toNat < 2 ^ 16 →
      let t := put { k with tail := w }
      (t.ringsQuiet v → exec (.doorbell vi r w) s = .next t) ∧
      (t.readsRings v = true → t.ringsCount v → ((t.vif v).ring r.toNat).pending = true → (∀ j, j < 4 → j ≠ r.toNat → ((t.vif v).ring j).pending = false) →
        ∀ u i, t.ringEntry v r.toNat = (u, some i) →
          exec (.doorbell vi r w) s = .next { u with env := { u.env with inbox := i :: u.env.inbox } })) ∧
    (∀ key, (put { k with key := some key, n := 1, st := 0 }).ringsQuiet v →
      exec (.ringkey vi r key) s = .next (put { k with key := some key, n := 1, st := 0 })) ∧
    (∀ b : List Byte,
      let m := fieldAt b 8 8
      let good := k.tagOk (leBytes 1 v ++ leBytes 1 r.toNat ++ b.take 16) (b.drop 16) = true ∧ fieldAt b 0 8 = k.n.toNat ∧ k.n.toNat ≤ m ∧
        m < 2 ^ 64 - 1
      let t := put { k with n := BitVec.ofNat 64 m, st := 0, resyncs := k.resyncs + 1 }
      (k.st ≠ 1 → exec (.ringresync vi r b) s = .next s) ∧
      (k.st = 1 → good → t.ringsQuiet v → exec (.ringresync vi r b) s = .next t) ∧
      (k.st = 1 → ¬ good → exec (.ringresync vi r b) s = .next (put { k with authFails := (k.authFails + 1) % 2 ^ 24 }))) ∧
    (s.ringsQuiet v → x.heldRecs = [] → exec (.cplhead vi w) s = .next (s.setVif v { x with cplHead := BitVec.ofNat 64 (w.toNat % 2 ^ 16) })) ∧
    (s.ringsQuiet v → x.st = 3 →
      (∀ o,
        (∀ e, tget none s.mem.obj o = some e → e.kind = 2 → e.ownerVI = v →
          (e.state = 3 →
            let u := (s.mem.rels.filter (fun r => r.id = o)).foldl State.releaseBolt s
            exec (.releaseId vi seq o) s = .next (done ((u.setEntry o none).setPool v { u.pool v with ids := putUp o (u.pool v).ids }) 0)) ∧
          (e.state = 1 → ∃ t : State, exec (.cutIdle vi seq o) s = .next (done t 0) ∧ t.regs = s.regs ∧ sameBytes s t ∧
            tget none t.mem.obj o = some { e with state := 3 } ∧ tget 0 t.mem.keySlot e.keySlot = 0)) ∧
        (tget none s.mem.obj o = none → exec (.releaseId vi seq o) s = .next (done s 0x307) ∧
          exec (.cutIdle vi seq o) s = .next (done s 0x307))) ∧
      (∀ p, s.sh.parks.find? (fun p => p.tenant = v) = some p →
        exec (.parkRead vi seq a) s = .next (done (s.hostWrite a.toNat (s.parkBytes p)) 0)) ∧
      (s.sh.parks.find? (fun p => p.tenant = v) = none → exec (.parkRead vi seq a) s = .next (done s 0x308)) ∧
      (∀ p, s.sh.parks.find? (fun p => p.tenant = v && p.seq = a.toNat) = some p → exec (.parkRelease vi seq a) s =
        .next (done { s with sh := { s.sh with parks := s.sh.parks.filter (fun y => y.seq ≠ a.toNat) } } 0)) ∧
      (s.sh.parks.find? (fun p => p.tenant = v && p.seq = a.toNat) = none → exec (.parkRelease vi seq a) s = .next (done s 0x308)) ∧
      (∀ id, s.fw.retained.reverse.find? (fun y => y.vi = v && y.id = id && !y.tainted) = none →
        exec (.receipt vi seq id a) s = .next (done s 0x306)) ∧
      (∀ id y, s.fw.retained.reverse.find? (fun y => y.vi = v && y.id = id && !y.tainted) = some y →
        let b := receiptBody s.fab.coord (s.tr.receipts + 1).toNat y
        exec (.receipt vi seq id a) s = .next (done ({ s with tr := { s.tr with receipts := s.tr.receipts + 1 } }.hostWrite a.toNat
          (b ++ fitBytes 3309 (Config.mldsa65 b))) 0)) ∧
      (∀ (en : BitVec 4) (blob : List Byte),
        let e := en.toNat
        (s.keyNamed v e = true → ∀ i ∈ [Instr.keyNew vi seq en a, .keyLoad vi seq en blob, .keyDrop vi seq en],
          exec i s = .next (done s 0x305)) ∧
        (s.keyNamed v e = false →
          (∃ (t : State) (g : Nat) (iv : List Byte), exec (.keyNew vi seq en a) s = .next (done (t.hostWrite a.toNat
              (blobOf v e g (s.mem.keySerial + 1) iv)) 0) ∧ iv.length = 12 ∧ (∀ j, j < 16 → (s.sealed v j).high < g) ∧
            t.sealed v e = ⟨some (s.mem.keySerial + 1), g, g⟩ ∧ t.mem = { s.mem with keySerial := s.mem.keySerial + 1 } ∧ t.regs = s.regs) ∧
          (s.openBlob v e blob = none → exec (.keyLoad vi seq en blob) s = .next (done s 0x305)) ∧
          (∀ key, s.openBlob v e blob = some key → ∃ (t : State) (g : Nat), exec (.keyLoad vi seq en blob) s = .next (done t 0) ∧
            (∀ j, j < 16 → (s.sealed v j).high < g) ∧ t.sealed v e = ⟨some key, g, g⟩ ∧ t.mem = s.mem ∧ t.regs = s.regs) ∧
          (∃ t : State, exec (.keyDrop vi seq en) s = .next (done t 0) ∧ t.sealed v e = ⟨none, 0, (s.sealed v e).high⟩ ∧
            (∀ j, j < 16 → j ≠ e → t.sealed v j = s.sealed v j) ∧ t.mem = s.mem ∧ t.regs = s.regs))))

/-- R331, R333, R383 to R388, R391, R408: a core is bound, and starts sixteen cycles after the word that starts its launch, with the
registers of its start; it is done when its engines are spent, stops at a quiet boundary for another core or the host, is asked to
stop for pre-emption, and is restored as it was saved. -/
def Obligations.CoreEvents : Prop :=
  (∀ (s : State) (core : BitVec 8) (v : W64),
    let c := core.toNat
    let no := v.toNat % 256
    let bound (u : State) : State := { u with fw := { u.fw with
      bind := tset 0 u.fw.bind c (v &&& 0x7FFFFFF#64), bindSt := tset 0 u.fw.bindSt c (if no = 0 then 0 else 1) } }
    (2 ≤ s.bindState c → exec (.bindent core v) s = .next s) ∧
    (s.bindState c < 2 → no = 0 ∨ (∃ l ∈ s.fw.launches, l.no = no) → exec (.bindent core v) s = .next (bound s)) ∧
    (s.bindState c < 2 → no ≠ 0 → (∀ l ∈ s.fw.launches, l.no ≠ no) →
      ((∀ l, s.nextBound = some l → l.st ≠ 2) → exec (.bindent core v) s = .next (bound s)) ∧
      (∀ l, s.nextBound = some l → l.st = 2 →
        exec (.bindent core v) s = .next (((bound s).setLaunch { l with no := no }).install no l.record))) ∧
    (∀ l, s.nextBound = some l → let ready (x : Launch) : Prop := (x.st = 2 ∧ x.no = 0) ∨ x.st = 5
      l ∈ s.fw.launches ∧ ready l ∧ ∀ x ∈ s.fw.launches, ready x → x.f 8 1 ≤ l.f 8 1) ∧
    (∀ r, ∃ x, tget none (s.install no r).fab.installed no = some x ∧ x.routes = s.routesFor r false ∧
      x.pattern = patternTable (s.patternSet r 0) ∧ (x.failRoutes.isSome = true ↔ hasFailover r = true)) ∧
    (s.fw.go = none → no ≠ 0 → (∃ c ∈ s.boundTo no, s.bindState c = 1) →
      exec (.bindgo v) s = .next { s with fw := { s.fw with go := some (no, s.clk.tape) } }) ∧
    (s.fw.go ≠ none ∨ no = 0 ∨ (∀ c ∈ s.boundTo no, s.bindState c ≠ 1) → exec (.bindgo v) s = .next s)) ∧
  (∀ (s : State) (no at_ : Nat) (l : Launch), s.fw.go = some (no, at_) →
    (s.clk.tape < at_ + 16 → exec .coreStart s = .next s) ∧
    (at_ + 16 ≤ s.clk.tape → s.ctl.coreId ∈ s.boundTo no → s.bindState s.ctl.coreId = 1 → s.launchNo no = some l → l.st = 2 →
      let h := s.objRange (recCap l.record 48) 0 64
      let logical := s.bindOf s.ctl.coreId / 2 ^ 8 % 2 ^ 17
      ∃ t : State, exec .coreStart s = .next t ∧ t.regs.pc = BitVec.ofNat 64 (fieldAt h 44 4) ∧
        t.sreg 1 = BitVec.ofNat 64 logical ∧ t.sreg 2 = BitVec.ofNat 64 (l.f 24 4) ∧ t.sreg 3 = BitVec.ofNat 64 no ∧
        (l.f 6 2 / 4 % 2 = 0 → ∀ n, 4 ≤ n → n < 32 → t.sreg n = 0) ∧
        t.creg 0 = mkCap spadId 0xB7 0 (2 ^ 24) ∧ t.creg 1 = recCap l.record 64 ∧ (∀ n, 2 ≤ n → t.creg n = 0) ∧
        t.ctl.lcore = logical ∧ t.ctl.launchNo = no ∧ t.ctl.vi = l.vi ∧ t.ctl.world = l.world ∧ t.sx.on = true ∧ t.sx.next = s.clk.tape ∧
        t.pend = [] ∧ t.iss = [] ∧ t.cmp = [] ∧
        t.mem = { s.mem with sigs := s.mem.sigs.filter (fun x => x.launch ≠ no), detLost := s.mem.detLost.filter (fun n => n ≠ no) } ∧
        t.sram = { s.sram with lines := s.sram.lines.map (fun (x : Line) => { x with first := none, classes := 0, plain := 0 }) } ∧
        (∀ x, tget none s.fab.installed no = some x →
          t.fab.routes = x.routes ∧ t.fab.pattern = x.pattern ∧ t.fab.failRoutes = x.failRoutes ∧ tget [] t.fab.xbar no = x.xbar) ∧
        t.bindState s.ctl.coreId = 2 ∧ ∃ m ∈ t.fw.launches, m.vi = l.vi ∧ m.id = l.id ∧ m.st = 3) ∧
    (at_ + 16 ≤ s.clk.tape → s.launchNo no = some l → l.st = 5 → s.boundWaiting no = [s.ctl.coreId] → s.ctl.coreId ∉ s.fw.back →
      ∀ x, s.fw.saved.find? (fun x => x.no = no && x.logical = bitsOf (s.bindOf s.ctl.coreId) 8 17 &&
          bitsOf x.ctl.slicesel.toNat 3 2 = bitsOf (s.bindOf s.ctl.coreId) 25 2) = some x →
        ∃ t : State, exec .coreStart s = .next t ∧ t.sx.on = true ∧ t.sx.next = s.clk.tape ∧ t.iss = x.iss ∧ t.cmp = x.cmp ∧ t.dq = x.dq ∧
          (t.regs.s = x.regs.s ∧ t.regs.c = x.regs.c ∧ t.regs.b = x.regs.b ∧ t.regs.m = x.regs.m) ∧ t.rs.bytes = x.rs.bytes ∧
          (x.held = none → t.regs.pc = x.regs.pc) ∧ t.bindState s.ctl.coreId = 2 ∧ x ∉ t.fw.saved ∧
          ∃ m ∈ t.fw.launches, m.vi = l.vi ∧ m.id = l.id ∧ m.st = 3) ∧
    (at_ + 16 ≤ s.clk.tape → s.ctl.coreId ∈ s.boundTo no → s.bindState s.ctl.coreId = 1 → s.ctl.coreId ∈ s.fw.back →
      s.launchNo no = some l → l.st = 5 → (∀ c ∈ s.boundWaiting no, c ∈ s.fw.back) →
      ∃ t : State, exec .coreStart s = .next t ∧ t.sx.on = true ∧ t.sx.next = s.clk.tape ∧ t.regs = s.regs ∧ t.rs.bytes = s.rs.bytes ∧
        t.mem = s.mem ∧ t.fw.saved = s.fw.saved ∧ s.ctl.coreId ∉ t.fw.back)) ∧
  (∀ s : State,
    (s.exitDone = true → ∃ t : State, exec .coreDone s = .next t ∧ t.sx.on = false ∧ t.sx.done = true ∧ t.sx.hold = .no ∧ t.regs = s.regs ∧
      ((∀ l ∈ s.fw.launches, s.mine l = true → l.st ≠ 4) → sameBytes s t) ∧
      (∀ l, s.fw.launches.find? s.mine = some l → l.st = 4 → (∀ c ∈ s.boundTo l.no, c = s.ctl.coreId ∨ c ∈ s.fw.doneCores) →
        (s.boundTo l.no).length < fieldAt l.record 32 2 →
        ∃ m ∈ t.fw.launches, m.vi = l.vi ∧ m.id = l.id ∧ m.st = 5 ∧ m.preemptions = l.preemptions + 1) ∧
      ∀ g x, s.group g = some x → s.ctl.lcore ∈ x.members → ∃ y, t.group g = some y ∧ s.ctl.lcore ∈ y.exited) ∧
    (s.exitDone = false → ∃ t : State, exec .coreDone s = .next t ∧ t.regs = s.regs ∧ t.sx = s.sx ∧ t.run = s.run ∧ t.trap = s.trap ∧
      ((∀ l ∈ s.fw.launches, s.othersRunning l = []) → t = s))) ∧
  (∀ (s : State) (code : Nat),
    (s.sx.on = true → s.run.phase = .off → s.trap.handler = false → s.sx.blk = none → s.sx.hold ≠ .exit → s.trap.stop = none →
      s.trap.save = none →
      exec (.asyncAbortTaken code) s = .next { s with trap := { s.trap with stop := some ⟨s.clk.tape, code, 0, 4, 0, 0, 0, false, true⟩ } }) ∧
    (s.sx.on = false ∨ s.run.phase ≠ .off ∨ s.trap.handler = true ∨ s.sx.blk ≠ none ∨ s.sx.hold = .exit ∨ s.trap.stop ≠ none ∨
      s.trap.save ≠ none → exec (.asyncAbortTaken code) s = .next s)) ∧
  (∀ (s : State) (no : Nat) (l : Launch), s.launchNo no = some l →
    (l.st ≠ 3 → exec (.preemptRequest no) s = .next s) ∧
    (l.st = 3 → s.mine l = false → exec (.preemptRequest no) s = .next (s.setLaunch { l with st := 4 })) ∧
    (l.st = 3 → s.mine l = true → ∃ t : State, exec (.preemptRequest no) s = .next t ∧ t.regs = s.regs ∧ sameBytes s t ∧
      (∃ m ∈ t.fw.launches, m.vi = l.vi ∧ m.id = l.id ∧ m.st = 4) ∧
      (∀ g x, s.group g = some x → ∃ y, t.group g = some y ∧ y.released = x.released ∧ y.met = x.met ∧
        tget 0 y.arrived s.ctl.lcore = tget 0 x.arrived s.ctl.lcore ∧
        (∀ m, tget 0 y.arrived m = tget 0 x.arrived m ∨ tget 0 y.arrived m = min (tget 0 x.arrived m) x.released) ∧
        (y.hold = if s.sx.on = true ∧ s.run.phase ≠ .off ∧ s.run.group = g then x.hold.request s.clk.tape false else x.hold)) ∧
      (s.sx.on = false → t.sx = s.sx ∧ t.trap = s.trap) ∧
      (s.sx.on = true → t.sx = { s.sx with preempt := true } ∧ (s.savable = none → t.trap = s.trap) ∧
        (∀ i, s.savable = some i → s.trap.handler = false → s.stopping = false → t.trap = { s.trap with save := some i })))) ∧
  (∀ (s : State) (i : Nat), s.trap.ready = true → s.trap.stop = none → s.trap.save = some i → i < s.code.safeCount →
    s.run.phase = .off → s.sx.hold = .no →
    ∃ (t : State) (x : Saved), exec .coreStopRecord s = .next t ∧ t.sx.on = false ∧ t.trap = Trap.reset ∧ t.regs = s.regs ∧
      t.bindState s.ctl.coreId = 0 ∧ t.bindOf s.ctl.coreId = 0 ∧ t.fw.saved = s.fw.saved ++ [x] ∧ x.no = s.ctl.launchNo ∧
      x.logical = s.ctl.lcore ∧ x.regs = s.regs ∧ x.ctl = s.ctl ∧ x.code = s.code ∧ x.dq = s.dq ∧ x.iss = s.iss ∧ x.cmp = s.cmp ∧
      x.rs.views = s.rs.views ∧ x.epoch = s.sx.epoch ∧ x.held = none ∧
      (∀ a, mread x.rs.bytes a = if liveAt (s.liveMap i) a then mread s.rs.bytes a else 0) ∧
      ∀ l, s.fw.launches.find? s.mine = some l →
        let last : Prop := l.st = 4 ∧ ∀ c ∈ s.boundTo l.no, c = s.ctl.coreId ∨ c ∈ s.fw.doneCores
        (last → ∃ m ∈ t.fw.launches, m.vi = l.vi ∧ m.id = l.id ∧ m.st = 5 ∧ m.preemptions = l.preemptions + 1) ∧
        (¬ last → t.fw.launches = s.fw.launches)) ∧
  (∀ s : State, s.trap.ready = false → ∃ t : State, exec .coreStopRecord s = .next t ∧ t.regs = s.regs ∧ t.sx = s.sx ∧ t.run = s.run ∧
    t.trap = s.trap ∧ ((∀ l ∈ s.fw.launches, l.st = 4 → s.othersRunning l = []) → t = s)) ∧
  (∀ (s : State) (no : Nat) (core : BitVec 8) (l : Launch), s.launchNo no = some l →
    let c := core.toNat
    let may : Prop := l.st = 5 ∧ s.bindState c = 1 ∧ s.bindOf c % 256 = no ∧ c ∉ s.fw.back ∧ s.bankCluster l c = true
    let saved := s.fw.saved.find? (fun x => x.no = no && x.logical = bitsOf (s.bindOf c) 8 17 &&
      bitsOf x.ctl.slicesel.toNat 3 2 = bitsOf (s.bindOf c) 25 2)
    let u := s.banksBack l
    (¬ may → exec (.resume no core) s = .next s) ∧
    (may → saved = none → exec (.resume no core) s = .next (if c = s.ctl.coreId then u
      else { u with fw := { u.fw with back := s.fw.back ++ [c] } })) ∧
    (∀ k, k ∉ l.copied → u.cfgOf k = s.cfgOf k ∧ u.fifostAt k = s.fifostAt k ∧
      ∀ a, a / 65536 = k → mread u.sram.bytes a = mread s.sram.bytes a) ∧
    (l.copied.Nodup → ∀ i k, l.copied[i]? = some k →
      let b := s.objRead (capObj l.bankArea.1) (l.bankArea.2 + 69632 * i) 65552
      u.cfgOf k = { BankCfg.ofWord (fieldAt b 65536 8) with changing := false } ∧
      ∀ j, j < 65536 → mread u.sram.bytes (65536 * k + j) = nthD 0 b j) ∧
    (∀ x, may → saved = some x → c ≠ s.ctl.coreId → ∃ t : State, exec (.resume no core) s = .next t ∧ t.regs = s.regs ∧ t.sx = s.sx ∧
      t.fw.back = s.fw.back ++ [c] ∧ x ∉ t.fw.saved) ∧
    ∀ x, may → saved = some x → c = s.ctl.coreId →
      ∃ t : State, exec (.resume no core) s = .next t ∧ t.iss = x.iss ∧ t.cmp = x.cmp ∧ t.dq = x.dq ∧ t.cx = x.cx ∧
        t.rs = x.rs ∧ t.pend = [] ∧ t.sx.on = false ∧ t.fw.back = s.fw.back ++ [c] ∧
        (t.regs.s = x.regs.s ∧ t.regs.c = x.regs.c ∧ t.regs.b = x.regs.b ∧ t.regs.m = x.regs.m) ∧
        (x.held = none → t.regs.pc = x.regs.pc ∧ t.run.phase = .off ∧ t.sx.hold = .no) ∧
        (∀ g, x.held = some g → t.regs.pc = x.regs.pc - 4 ∧ t.run.phase = .held ∧ t.run.group = g ∧ t.sx.hold = .run) ∧
        (∀ g y, tget none x.grp.table g = some y → ∃ z, t.group g = some z ∧ z.met = none ∧ z.arrived = [] ∧ z.members = y.members ∧
          z.released = (if y.met.isSome then y.released + 1 else y.released)) ∧
        t.mem = s.mem ∧ (∀ a, mread t.sram.bytes a = mread u.sram.bytes a) ∧ t.sram.cfg = u.sram.cfg ∧ t.sram.fifo = u.sram.fifo ∧
        t.bindState c = 1 ∧ x ∉ t.fw.saved ∧ ∃ m ∈ t.fw.launches, m.vi = l.vi ∧ m.id = l.id ∧ m.st = 5)

/-- R17, R19, R75, R103, R107, R178 to R180, R372, R373, R418, R419, R436, R438, R440 to R443, R481: islands; the operations on an
interface; the writes of configuration registers, which a locked interface takes only as it is unlocked; snapshots, checkpoints and
package reset. -/
def Obligations.ManagementEvents : Prop :=
  (∀ (s : State) (island : BitVec 7) (v : W64),
    let i := island.toNat
    let x := s.island i
    let tripped := s.setIsland i (x.1, x.2.1, true)
    (usesIsland s.ctl.coreId i = false → exec (.thermalTrip island) s = .next tripped) ∧
    (usesIsland s.ctl.coreId i = true → s.run.phase ≠ .off → s.run.fail = none →
      exec (.thermalTrip island) s = .next { tripped with run := { s.run with
        fail := some ⟨s.clk.tape, 0x281, 0, 5, 0, 0, 0, false, true⟩ } }) ∧
    (usesIsland s.ctl.coreId i = true → s.run.phase = .off → s.sx.on = true → s.trap.stop = none →
      exec (.thermalTrip island) s = .next { tripped with trap := { s.trap with stop := some ⟨s.clk.tape, 0x281, 0, 5, 0, 0, 0, false, true⟩ } }) ∧
    (let written (i : Instr) (j : Nat) (w : W64) : Prop :=
       ∃ f : W64, f.toNat = (if w.toNat % 4 = 3 then w.toNat % 64 - 1 else w.toNat % 64) ∧
         exec i s = .next (s.setIsland j (f, none, (s.island j).2.2 && decide (w.toNat / 2 ^ 7 % 2 = 0)))
     (s.islandTimed i = true → exec (.islctl island v) s = .next (s.setIsland i (x.1, some v, x.2.2))) ∧
     (s.islandTimed i = false → written (.islctl island v) i v) ∧
     (∀ j w, s.islandDue = some j → (s.island j).2.1 = some w → written .islandChangeApply j w))) ∧
  (∀ (s : State) (vi : BitVec 6),
    let v := vi.toNat
    let x := s.vif v
    let goes (i : Instr) (n : Nat) : Prop := exec i s = .next (s.setVif v { x with st := n })
    let refused (i : Instr) : Prop := exec i s = .next (s.setVif v { x with refused := true })
    let sizes : Prop := (6 ≤ x.cplSize.toNat ∧ x.cplSize.toNat ≤ 16) ∧ ∀ r, r < 4 → 6 ≤ (x.ring r).size.toNat ∧ (x.ring r).size.toNat ≤ 16
    let keyed : Prop := ∀ r, r < 4 → (x.ring r).st ≠ 3
    (x.st = 0 → goes (.viEnable vi) 1 ∧ refused (.viLock vi) ∧ refused (.viStart vi) ∧ refused (.viStop vi) ∧ refused (.viUnlock vi)) ∧
    (x.st = 1 → exec (.viEnable vi) s = .next s ∧ (sizes → goes (.viLock vi) 2) ∧ (¬ sizes → refused (.viLock vi)) ∧ refused (.viStart vi) ∧
      refused (.viStop vi) ∧ exec (.viUnlock vi) s = .next s) ∧
    (x.st = 2 → (∀ i ∈ [Instr.viEnable vi, .viLock vi, .viStop vi], exec i s = .next s) ∧ (¬ keyed → refused (.viStart vi)) ∧
      (keyed →
        let u := s.setVif v { x with st := 3 }
        (u.ringsQuiet v → exec (.viStart vi) s = .next u) ∧
        (u.readsRings v = true → u.ringsCount v → ∀ r, r < 4 → (x.ring r).pending = true → (∀ j, j < 4 → j ≠ r → (x.ring j).pending = false) →
          ∀ w i, u.ringEntry v r = (w, some i) → exec (.viStart vi) s = .next { w with env := { w.env with inbox := i :: w.env.inbox } })) ∧
      ∃ t : State, exec (.viUnlock vi) s = .next t ∧ (t.vif v).st = 1 ∧ (t.vif v).cfgPending = false ∧ t.regs = s.regs ∧ sameBytes s t ∧
        t.mem.obj = s.mem.obj ∧
        (t.vif v).live = x.live.filter (fun k => lowDword k.1 && (tget none x.live (k.1 + 4)).isNone)) ∧
    (x.st = 3 → (∀ i ∈ [Instr.viEnable vi, .viLock vi, .viStart vi], exec i s = .next s) ∧ refused (.viUnlock vi) ∧
      exec (.viStop vi) s = .next (s.setVif v { x with stopping := true })) ∧
    (∀ w, s.stoppedVi = some w → exec .viStopComplete s = .next (s.setVif w { s.vif w with st := 2, stopping := false })) ∧
    (∃ t : State, exec (.viReset vi) s = .next t ∧ t.vif v = Vi.reset ∧ (∀ w, w ≠ v → t.vif w = s.vif w) ∧ t.regs = s.regs ∧
      t.mem.phys = s.mem.phys ∧ t.mem.obj = s.mem.obj ∧ t.pool v = Pool.reset ∧ (∀ k, k < 6 → ∀ f ∈ (t.link k).out, ofShuttle v f = false) ∧
      (∀ y ∈ t.sh.buffer, y.2.tenant.toNat ≠ v) ∧ (∀ y ∈ t.sh.eng, y.sh.tenant.toNat ≠ v) ∧ (∀ y ∈ t.sh.parks, y.tenant ≠ v) ∧
      (∀ e, e < 16 → t.sealed v e = SealedKey.reset) ∧ t.shPerm v = 0 ∧ t.sh.drops = (s.sh.drops +
        (s.sh.buffer.countP (fun y => y.2.tenant.toNat = v) + s.sh.eng.countP (fun y => y.sh.tenant.toNat = v) +
          s.sh.departed.countP (fun y => y.2.tenant.toNat = v && [0, 1, 2, 3, 4, 5].any (fun k => (s.link k).out.any (fun f =>
            f.seq.isNone && (match f.load with | .shuttle z _ => z = y.2 | _ => false)))))) % 2 ^ 16)) ∧
  (∀ (s : State) (vi : BitVec 6) (w : BitVec 2) (p c n t : Nat) (v : W64),
    let u := vi.toNat
    let x := s.vif u
    (let b := v &&& 0xFFFFFFFFFFFF#64
     exec (.registerWrite .mpOtBase v) s = .next { s with mem := s.mem.rebase b } ∧ (s.mem.rebase b).otBase = b ∧
       (s.mem.rebase b).port = s.mem.port ∧ (s.mem.rebase b).phys = s.mem.phys) ∧
    exec (.registerWrite (.clDebug c) v) s = .next { s with sram := { s.sram with
      pendEn := tset false s.sram.pendEn c (decide (v.toNat % 2 = 1)) } } ∧
    (let k := 16 * c + 4 * n + t
     let lim := v.toNat % 2 ^ 16
     exec (.registerWrite (.sliceLimit c n t) v) s = .next { s with sram := { s.sram with
       way := tset (0, 0) s.sram.way k ((tget (0, 0) s.sram.way k).1 &&& lim, lim) } }) ∧
    (∃ q : State, exec (.registerWrite (.mpRetry p) v) s = .next q ∧ q.regs = s.regs ∧
      tget 20 q.mem.retryCeil p = max 6 (min 20 (v.toNat % 32)) ∧
      tget 0 q.mem.parkedTotal p = if v.toNat / 2 ^ 32 = 2 ^ 32 - 1 then 0 else tget 0 s.mem.parkedTotal p) ∧
    exec (.registerWrite (.linkWeight vi) v) s = .next { s with fab := { s.fab with weights := tset 0 s.fab.weights u v.toNat } } ∧
    exec (.registerWrite (.victlFlags vi) v) s = .next (if v.toNat / 2 ^ 12 % 2 = 1 then s.setVif u { x with refused := false } else s) ∧
    (x.st < 2 →
      exec (.registerWrite (.dcPart vi) v) s = .next { s with fab := { s.fab with dcPart := tset 0 s.fab.dcPart u (v &&& 0x1FFFFFF#64) } } ∧
      exec (.registerWrite (.shPerm vi) v) s = .next { s with sh := { s.sh with perm := tset 0 s.sh.perm u (v &&& 0x1FFFFFFFFF#64) } } ∧
      exec (.registerWrite (.leaseMask vi) v) s = .next { s with fw := { s.fw with
        leaseMask := tset 0xFF#64 s.fw.leaseMask u (v &&& 0xFF#64) } } ∧
      exec (.registerWrite (.shWinCtl vi w) v) s = .next { s with sh := { s.sh with
        winCtl := tset 0 s.sh.winCtl (4 * u + w.toNat) (v &&& 0xFFFF003F#64) } } ∧
      (∃ q : State, exec (.registerWrite (.boltIds vi) v) s = .next q ∧ q.regs = s.regs ∧ (q.pool u).slots = (s.pool u).slots ∧
        ∀ i, i ∈ (q.pool u).ids ↔ v.toNat % 2 ^ 24 ≤ i ∧ i < v.toNat % 2 ^ 24 + v.toNat / 2 ^ 24 % 2 ^ 25 ∧
          ∀ e, tget none s.mem.obj i = some e → e.state = 0) ∧
      (∃ q : State, exec (.registerWrite (.boltSlots vi) v) s = .next q ∧ q.regs = s.regs ∧ (q.pool u).ids = (s.pool u).ids ∧
        ∀ i, i ∈ (q.pool u).slots ↔ v.toNat % 2 ^ 16 ≤ i ∧ i < v.toNat % 2 ^ 16 + v.toNat / 2 ^ 16 % 2 ^ 16 ∧ tget 0 s.mem.keySlot i = 0) ∧
      exec (.registerWrite (.shWinCapLo vi w) v) s = .next (s.setVif u { x with live := tset none x.live (4 + w.toNat) (some v) }) ∧
      (∀ lo, tget none x.live (4 + w.toNat) = some lo → ∃ q : State, exec (.registerWrite (.shWinCapHi vi w) v) s = .next q ∧ q.regs = s.regs ∧
        q.mem = s.mem ∧ q.winCap u w.toNat = (v ++ lo).setWidth 128 ∧ tget none (q.vif u).live (4 + w.toNat) = none)) ∧
    (2 ≤ x.st → ∀ y ∈ [(RegName.dcPart vi, 0), (.shPerm vi, 1), (.leaseMask vi, 2), (.boltIds vi, 33), (.boltSlots vi, 34),
      (.boltPages vi 0 5, 45), (.boltPages vi 1 0, 48), (.shWinCapLo vi w, 4 + w.toNat),
      (.shWinCapHi vi w, 8 + w.toNat), (.shWinCtl vi w, 12 + w.toNat)],
      exec (.registerWrite y.1 v) s = .next (s.setVif u { x with live := tset none x.live y.2 (some v), cfgPending := true }))) ∧
  (∀ s : State,
    (s.fw.snapAt ≠ some s.clk.tape → ∀ i ∈ [Instr.snaptrig 1, .snapPin], ∃ t : State, exec i s = .next t ∧ t.fw.snap = s.snapshot ∧
      t.fw.snapSeq = s.fw.snapSeq + 1 ∧ t.fw.snapAt = some s.clk.tape ∧ t.regs = s.regs ∧ t.mem = s.mem ∧ t.fab = s.fab) ∧
    (s.fw.snapAt = some s.clk.tape → ∀ i ∈ [Instr.snaptrig 1, .snapPin], exec i s = .next s) ∧
    ((∀ l ∈ s.fw.launches, l.st = 5) → ∃ t : State, exec .ckpt s = .next t ∧ t.regs = s.regs ∧ sameBytes s t ∧
      t.fw = { s.fw with ckpt := some s.image, ckptStatus := 0 } ∧ t.mem = { s.mem with keySerial := s.mem.keySerial + 1 }) ∧
    (s.image.key = s.mem.keySerial + 1 ∧ s.image.bound = s.mem.bound ∧ ∀ j, inPages s.mem.obj (16 * j) = true →
      tget none s.image.tags j = (tget none s.mem.tags j).map (fun b =>
        if b.dom = 0 ∧ b.key = s.mem.pkgKey then { b with key := s.mem.keySerial + 1 } else b)) ∧
    ((∃ l ∈ s.fw.launches, l.st ≠ 5) → exec .ckpt s = .next { s with fw := { s.fw with ckptStatus := 0x340 } }) ∧
    (∀ x, s.fw.ckpt = some x →
      exec (.checkpointRestore false) s = .next { s with fw := { s.fw with ckptStatus := 0x341 } } ∧
      (Memory.wf x.phys = true → (∀ k ∈ x.phys, inPages x.obj k.1 = true) → ∃ t : State, exec (.checkpointRestore true) s = .next t ∧
        t.mem.obj = x.obj ∧ t.mem.port = x.obj ∧ t.mem.bound = x.bound ∧ t.regs = s.regs ∧ t.fw.ckptStatus = 0 ∧
        (twf none x.tags = true → (∀ k ∈ x.tags, inPages x.obj (16 * k.1) = true) → ∀ j, inPages x.obj (16 * j) = true →
          tget none t.mem.tags j = (tget none x.tags j).map (fun b =>
            if b.dom = 0 ∧ b.key = x.key then { b with key := s.mem.pkgKey } else b)) ∧
        ∀ a, mread t.mem.phys a = if inPages x.obj a = true then mread x.phys a else mread s.mem.phys a)) ∧
    (∃ t : State, exec .packageReset s = .next t ∧ t.regs = State.reset.regs ∧ t.clk = State.reset.clk ∧ t.sx = State.reset.sx ∧
      t.sram = State.reset.sram ∧ t.fw.launches = [] ∧ t.mem.phys = s.mem.phys ∧ t.mem.pkgKey = s.mem.keySerial + 1 ∧
      t.tr.host = s.tr.host ∧ t.fab.coord = s.fab.coord))
end

