-- ==== Sys2Proof/Laws/State.lean ====
section
/-! SUPPORT. What each named operation over State leaves unchanged, field by field, as simp lemmas: no later proof unfolds a record
update. -/

namespace Sys2Proof.Machine

@[simp] theorem State.setS_keeps (s : State) (r : Nat) (v : W64) :
    (State.setS s r v).clk = s.clk ∧ (State.setS s r v).env = s.env ∧ (State.setS s r v).actor = s.actor ∧
    (State.setS s r v).ctl = s.ctl ∧ (State.setS s r v).code = s.code ∧ (State.setS s r v).sx = s.sx ∧
    (State.setS s r v).trap = s.trap ∧ (State.setS s r v).pend = s.pend ∧ (State.setS s r v).iss = s.iss ∧
    (State.setS s r v).cmp = s.cmp ∧ (State.setS s r v).cv = s.cv ∧ (State.setS s r v).cm = s.cm ∧ (State.setS s r v).cc = s.cc ∧
    (State.setS s r v).cx = s.cx ∧ (State.setS s r v).rs = s.rs ∧ (State.setS s r v).dq = s.dq ∧ (State.setS s r v).dpend = s.dpend ∧
    (State.setS s r v).me = s.me ∧ (State.setS s r v).run = s.run ∧ (State.setS s r v).sram = s.sram ∧
    (State.setS s r v).mem = s.mem ∧ (State.setS s r v).fab = s.fab ∧ (State.setS s r v).sh = s.sh ∧ (State.setS s r v).grp = s.grp ∧
    (State.setS s r v).fw = s.fw ∧ (State.setS s r v).tr = s.tr := by
  unfold State.setS
  (repeat' split) <;> exact ⟨rfl, rfl, rfl, rfl, rfl, rfl, rfl, rfl, rfl, rfl, rfl, rfl, rfl, rfl, rfl, rfl, rfl, rfl, rfl, rfl, rfl, rfl, rfl, rfl, rfl, rfl⟩

@[simp] theorem State.setC_keeps (s : State) (r : Nat) (v : Cap) :
    (State.setC s r v).clk = s.clk ∧ (State.setC s r v).env = s.env ∧ (State.setC s r v).actor = s.actor ∧
    (State.setC s r v).ctl = s.ctl ∧ (State.setC s r v).code = s.code ∧ (State.setC s r v).sx = s.sx ∧
    (State.setC s r v).trap = s.trap ∧ (State.setC s r v).pend = s.pend ∧ (State.setC s r v).iss = s.iss ∧
    (State.setC s r v).cmp = s.cmp ∧ (State.setC s r v).cv = s.cv ∧ (State.setC s r v).cm = s.cm ∧ (State.setC s r v).cc = s.cc ∧
    (State.setC s r v).cx = s.cx ∧ (State.setC s r v).rs = s.rs ∧ (State.setC s r v).dq = s.dq ∧ (State.setC s r v).dpend = s.dpend ∧
    (State.setC s r v).me = s.me ∧ (State.setC s r v).run = s.run ∧ (State.setC s r v).sram = s.sram ∧
    (State.setC s r v).mem = s.mem ∧ (State.setC s r v).fab = s.fab ∧ (State.setC s r v).sh = s.sh ∧ (State.setC s r v).grp = s.grp ∧
    (State.setC s r v).fw = s.fw ∧ (State.setC s r v).tr = s.tr := ⟨rfl, rfl, rfl, rfl, rfl, rfl, rfl, rfl, rfl, rfl, rfl, rfl, rfl, rfl, rfl, rfl, rfl, rfl, rfl, rfl, rfl, rfl, rfl, rfl, rfl, rfl⟩

@[simp] theorem State.setB_keeps (s : State) (r : Nat) (v : W64) :
    (State.setB s r v).clk = s.clk ∧ (State.setB s r v).env = s.env ∧ (State.setB s r v).actor = s.actor ∧
    (State.setB s r v).ctl = s.ctl ∧ (State.setB s r v).code = s.code ∧ (State.setB s r v).sx = s.sx ∧
    (State.setB s r v).trap = s.trap ∧ (State.setB s r v).pend = s.pend ∧ (State.setB s r v).iss = s.iss ∧
    (State.setB s r v).cmp = s.cmp ∧ (State.setB s r v).cv = s.cv ∧ (State.setB s r v).cm = s.cm ∧ (State.setB s r v).cc = s.cc ∧
    (State.setB s r v).cx = s.cx ∧ (State.setB s r v).rs = s.rs ∧ (State.setB s r v).dq = s.dq ∧ (State.setB s r v).dpend = s.dpend ∧
    (State.setB s r v).me = s.me ∧ (State.setB s r v).run = s.run ∧ (State.setB s r v).sram = s.sram ∧
    (State.setB s r v).mem = s.mem ∧ (State.setB s r v).fab = s.fab ∧ (State.setB s r v).sh = s.sh ∧ (State.setB s r v).grp = s.grp ∧
    (State.setB s r v).fw = s.fw ∧ (State.setB s r v).tr = s.tr := ⟨rfl, rfl, rfl, rfl, rfl, rfl, rfl, rfl, rfl, rfl, rfl, rfl, rfl, rfl, rfl, rfl, rfl, rfl, rfl, rfl, rfl, rfl, rfl, rfl, rfl, rfl⟩

@[simp] theorem State.setM_keeps (s : State) (r : Nat) (v : Mask) :
    (State.setM s r v).clk = s.clk ∧ (State.setM s r v).env = s.env ∧ (State.setM s r v).actor = s.actor ∧
    (State.setM s r v).ctl = s.ctl ∧ (State.setM s r v).code = s.code ∧ (State.setM s r v).sx = s.sx ∧
    (State.setM s r v).trap = s.trap ∧ (State.setM s r v).pend = s.pend ∧ (State.setM s r v).iss = s.iss ∧
    (State.setM s r v).cmp = s.cmp ∧ (State.setM s r v).cv = s.cv ∧ (State.setM s r v).cm = s.cm ∧ (State.setM s r v).cc = s.cc ∧
    (State.setM s r v).cx = s.cx ∧ (State.setM s r v).rs = s.rs ∧ (State.setM s r v).dq = s.dq ∧ (State.setM s r v).dpend = s.dpend ∧
    (State.setM s r v).me = s.me ∧ (State.setM s r v).run = s.run ∧ (State.setM s r v).sram = s.sram ∧
    (State.setM s r v).mem = s.mem ∧ (State.setM s r v).fab = s.fab ∧ (State.setM s r v).sh = s.sh ∧ (State.setM s r v).grp = s.grp ∧
    (State.setM s r v).fw = s.fw ∧ (State.setM s r v).tr = s.tr := ⟨rfl, rfl, rfl, rfl, rfl, rfl, rfl, rfl, rfl, rfl, rfl, rfl, rfl, rfl, rfl, rfl, rfl, rfl, rfl, rfl, rfl, rfl, rfl, rfl, rfl, rfl⟩

@[simp] theorem State.setPc_keeps (s : State) (v : W64) :
    (State.setPc s v).clk = s.clk ∧ (State.setPc s v).env = s.env ∧ (State.setPc s v).actor = s.actor ∧
    (State.setPc s v).ctl = s.ctl ∧ (State.setPc s v).code = s.code ∧ (State.setPc s v).sx = s.sx ∧ (State.setPc s v).trap = s.trap ∧
    (State.setPc s v).pend = s.pend ∧ (State.setPc s v).iss = s.iss ∧ (State.setPc s v).cmp = s.cmp ∧ (State.setPc s v).cv = s.cv ∧
    (State.setPc s v).cm = s.cm ∧ (State.setPc s v).cc = s.cc ∧ (State.setPc s v).cx = s.cx ∧ (State.setPc s v).rs = s.rs ∧
    (State.setPc s v).dq = s.dq ∧ (State.setPc s v).dpend = s.dpend ∧ (State.setPc s v).me = s.me ∧ (State.setPc s v).run = s.run ∧
    (State.setPc s v).sram = s.sram ∧ (State.setPc s v).mem = s.mem ∧ (State.setPc s v).fab = s.fab ∧ (State.setPc s v).sh = s.sh ∧
    (State.setPc s v).grp = s.grp ∧ (State.setPc s v).fw = s.fw ∧ (State.setPc s v).tr = s.tr := ⟨rfl, rfl, rfl, rfl, rfl, rfl, rfl, rfl, rfl, rfl, rfl, rfl, rfl, rfl, rfl, rfl, rfl, rfl, rfl, rfl, rfl, rfl, rfl, rfl, rfl, rfl⟩

@[simp] theorem State.bump_keeps (s : State) :
    (State.bump s).clk = s.clk ∧ (State.bump s).actor = s.actor ∧ (State.bump s).regs = s.regs ∧ (State.bump s).ctl = s.ctl ∧
    (State.bump s).code = s.code ∧ (State.bump s).sx = s.sx ∧ (State.bump s).trap = s.trap ∧ (State.bump s).pend = s.pend ∧
    (State.bump s).iss = s.iss ∧ (State.bump s).cmp = s.cmp ∧ (State.bump s).cv = s.cv ∧ (State.bump s).cm = s.cm ∧
    (State.bump s).cc = s.cc ∧ (State.bump s).cx = s.cx ∧ (State.bump s).rs = s.rs ∧ (State.bump s).dq = s.dq ∧
    (State.bump s).dpend = s.dpend ∧ (State.bump s).me = s.me ∧ (State.bump s).run = s.run ∧ (State.bump s).sram = s.sram ∧
    (State.bump s).mem = s.mem ∧ (State.bump s).fab = s.fab ∧ (State.bump s).sh = s.sh ∧ (State.bump s).grp = s.grp ∧
    (State.bump s).fw = s.fw ∧ (State.bump s).tr = s.tr := ⟨rfl, rfl, rfl, rfl, rfl, rfl, rfl, rfl, rfl, rfl, rfl, rfl, rfl, rfl, rfl, rfl, rfl, rfl, rfl, rfl, rfl, rfl, rfl, rfl, rfl, rfl⟩

@[simp] theorem State.popDelay_keeps (s : State) :
    (State.popDelay s).clk = s.clk ∧ (State.popDelay s).actor = s.actor ∧ (State.popDelay s).regs = s.regs ∧
    (State.popDelay s).ctl = s.ctl ∧ (State.popDelay s).code = s.code ∧ (State.popDelay s).sx = s.sx ∧
    (State.popDelay s).trap = s.trap ∧ (State.popDelay s).pend = s.pend ∧ (State.popDelay s).iss = s.iss ∧
    (State.popDelay s).cmp = s.cmp ∧ (State.popDelay s).cv = s.cv ∧ (State.popDelay s).cm = s.cm ∧ (State.popDelay s).cc = s.cc ∧
    (State.popDelay s).cx = s.cx ∧ (State.popDelay s).rs = s.rs ∧ (State.popDelay s).dq = s.dq ∧ (State.popDelay s).dpend = s.dpend ∧
    (State.popDelay s).me = s.me ∧ (State.popDelay s).run = s.run ∧ (State.popDelay s).sram = s.sram ∧
    (State.popDelay s).mem = s.mem ∧ (State.popDelay s).fab = s.fab ∧ (State.popDelay s).sh = s.sh ∧ (State.popDelay s).grp = s.grp ∧
    (State.popDelay s).fw = s.fw ∧ (State.popDelay s).tr = s.tr := ⟨rfl, rfl, rfl, rfl, rfl, rfl, rfl, rfl, rfl, rfl, rfl, rfl, rfl, rfl, rfl, rfl, rfl, rfl, rfl, rfl, rfl, rfl, rfl, rfl, rfl, rfl⟩

@[simp] theorem State.pushIss_keeps (s : State) (iss due : Nat) (e : Engine) (t : Tgt) :
    (State.pushIss s iss due e t).clk = s.clk ∧ (State.pushIss s iss due e t).env = s.env ∧
    (State.pushIss s iss due e t).actor = s.actor ∧ (State.pushIss s iss due e t).regs = s.regs ∧
    (State.pushIss s iss due e t).ctl = s.ctl ∧ (State.pushIss s iss due e t).code = s.code ∧
    (State.pushIss s iss due e t).sx = s.sx ∧ (State.pushIss s iss due e t).trap = s.trap ∧
    (State.pushIss s iss due e t).iss = s.iss ∧ (State.pushIss s iss due e t).cmp = s.cmp ∧ (State.pushIss s iss due e t).cv = s.cv ∧
    (State.pushIss s iss due e t).cm = s.cm ∧ (State.pushIss s iss due e t).cc = s.cc ∧ (State.pushIss s iss due e t).cx = s.cx ∧
    (State.pushIss s iss due e t).rs = s.rs ∧ (State.pushIss s iss due e t).dq = s.dq ∧
    (State.pushIss s iss due e t).dpend = s.dpend ∧ (State.pushIss s iss due e t).me = s.me ∧
    (State.pushIss s iss due e t).run = s.run ∧ (State.pushIss s iss due e t).sram = s.sram ∧
    (State.pushIss s iss due e t).mem = s.mem ∧ (State.pushIss s iss due e t).fab = s.fab ∧ (State.pushIss s iss due e t).sh = s.sh ∧
    (State.pushIss s iss due e t).grp = s.grp ∧ (State.pushIss s iss due e t).fw = s.fw ∧ (State.pushIss s iss due e t).tr = s.tr := ⟨rfl, rfl, rfl, rfl, rfl, rfl, rfl, rfl, rfl, rfl, rfl, rfl, rfl, rfl, rfl, rfl, rfl, rfl, rfl, rfl, rfl, rfl, rfl, rfl, rfl, rfl⟩

@[simp] theorem State.pushPend_keeps (s : State) (due : Nat) (e : Engine) (t : Tgt) :
    (State.pushPend s due e t).clk = s.clk ∧ (State.pushPend s due e t).env = s.env ∧ (State.pushPend s due e t).actor = s.actor ∧
    (State.pushPend s due e t).regs = s.regs ∧ (State.pushPend s due e t).ctl = s.ctl ∧ (State.pushPend s due e t).code = s.code ∧
    (State.pushPend s due e t).sx = s.sx ∧ (State.pushPend s due e t).trap = s.trap ∧ (State.pushPend s due e t).iss = s.iss ∧
    (State.pushPend s due e t).cmp = s.cmp ∧ (State.pushPend s due e t).cv = s.cv ∧ (State.pushPend s due e t).cm = s.cm ∧
    (State.pushPend s due e t).cc = s.cc ∧ (State.pushPend s due e t).cx = s.cx ∧ (State.pushPend s due e t).rs = s.rs ∧
    (State.pushPend s due e t).dq = s.dq ∧ (State.pushPend s due e t).dpend = s.dpend ∧ (State.pushPend s due e t).me = s.me ∧
    (State.pushPend s due e t).run = s.run ∧ (State.pushPend s due e t).sram = s.sram ∧ (State.pushPend s due e t).mem = s.mem ∧
    (State.pushPend s due e t).fab = s.fab ∧ (State.pushPend s due e t).sh = s.sh ∧ (State.pushPend s due e t).grp = s.grp ∧
    (State.pushPend s due e t).fw = s.fw ∧ (State.pushPend s due e t).tr = s.tr := ⟨rfl, rfl, rfl, rfl, rfl, rfl, rfl, rfl, rfl, rfl, rfl, rfl, rfl, rfl, rfl, rfl, rfl, rfl, rfl, rfl, rfl, rfl, rfl, rfl, rfl, rfl⟩

@[simp] theorem State.wrS_keeps (s : State) (d : Nat) (v : W64) (lat : Nat) :
    (State.wrS s d v lat).clk = s.clk ∧ (State.wrS s d v lat).env = s.env ∧ (State.wrS s d v lat).actor = s.actor ∧
    (State.wrS s d v lat).regs = s.regs ∧ (State.wrS s d v lat).ctl = s.ctl ∧ (State.wrS s d v lat).code = s.code ∧
    (State.wrS s d v lat).sx = s.sx ∧ (State.wrS s d v lat).trap = s.trap ∧ (State.wrS s d v lat).iss = s.iss ∧
    (State.wrS s d v lat).cmp = s.cmp ∧ (State.wrS s d v lat).cv = s.cv ∧ (State.wrS s d v lat).cm = s.cm ∧
    (State.wrS s d v lat).cc = s.cc ∧ (State.wrS s d v lat).cx = s.cx ∧ (State.wrS s d v lat).rs = s.rs ∧
    (State.wrS s d v lat).dq = s.dq ∧ (State.wrS s d v lat).dpend = s.dpend ∧ (State.wrS s d v lat).me = s.me ∧
    (State.wrS s d v lat).run = s.run ∧ (State.wrS s d v lat).sram = s.sram ∧ (State.wrS s d v lat).mem = s.mem ∧
    (State.wrS s d v lat).fab = s.fab ∧ (State.wrS s d v lat).sh = s.sh ∧ (State.wrS s d v lat).grp = s.grp ∧
    (State.wrS s d v lat).fw = s.fw ∧ (State.wrS s d v lat).tr = s.tr := ⟨rfl, rfl, rfl, rfl, rfl, rfl, rfl, rfl, rfl, rfl, rfl, rfl, rfl, rfl, rfl, rfl, rfl, rfl, rfl, rfl, rfl, rfl, rfl, rfl, rfl, rfl⟩

@[simp] theorem State.wrC_keeps (s : State) (d : Nat) (v : Cap) (lat : Nat) :
    (State.wrC s d v lat).clk = s.clk ∧ (State.wrC s d v lat).env = s.env ∧ (State.wrC s d v lat).actor = s.actor ∧
    (State.wrC s d v lat).regs = s.regs ∧ (State.wrC s d v lat).ctl = s.ctl ∧ (State.wrC s d v lat).code = s.code ∧
    (State.wrC s d v lat).sx = s.sx ∧ (State.wrC s d v lat).trap = s.trap ∧ (State.wrC s d v lat).iss = s.iss ∧
    (State.wrC s d v lat).cmp = s.cmp ∧ (State.wrC s d v lat).cv = s.cv ∧ (State.wrC s d v lat).cm = s.cm ∧
    (State.wrC s d v lat).cc = s.cc ∧ (State.wrC s d v lat).cx = s.cx ∧ (State.wrC s d v lat).rs = s.rs ∧
    (State.wrC s d v lat).dq = s.dq ∧ (State.wrC s d v lat).dpend = s.dpend ∧ (State.wrC s d v lat).me = s.me ∧
    (State.wrC s d v lat).run = s.run ∧ (State.wrC s d v lat).sram = s.sram ∧ (State.wrC s d v lat).mem = s.mem ∧
    (State.wrC s d v lat).fab = s.fab ∧ (State.wrC s d v lat).sh = s.sh ∧ (State.wrC s d v lat).grp = s.grp ∧
    (State.wrC s d v lat).fw = s.fw ∧ (State.wrC s d v lat).tr = s.tr := ⟨rfl, rfl, rfl, rfl, rfl, rfl, rfl, rfl, rfl, rfl, rfl, rfl, rfl, rfl, rfl, rfl, rfl, rfl, rfl, rfl, rfl, rfl, rfl, rfl, rfl, rfl⟩

@[simp] theorem State.wrB_keeps (s : State) (d : Nat) (v : W64) (lat : Nat) :
    (State.wrB s d v lat).clk = s.clk ∧ (State.wrB s d v lat).env = s.env ∧ (State.wrB s d v lat).actor = s.actor ∧
    (State.wrB s d v lat).regs = s.regs ∧ (State.wrB s d v lat).ctl = s.ctl ∧ (State.wrB s d v lat).code = s.code ∧
    (State.wrB s d v lat).sx = s.sx ∧ (State.wrB s d v lat).trap = s.trap ∧ (State.wrB s d v lat).iss = s.iss ∧
    (State.wrB s d v lat).cmp = s.cmp ∧ (State.wrB s d v lat).cv = s.cv ∧ (State.wrB s d v lat).cm = s.cm ∧
    (State.wrB s d v lat).cc = s.cc ∧ (State.wrB s d v lat).cx = s.cx ∧ (State.wrB s d v lat).rs = s.rs ∧
    (State.wrB s d v lat).dq = s.dq ∧ (State.wrB s d v lat).dpend = s.dpend ∧ (State.wrB s d v lat).me = s.me ∧
    (State.wrB s d v lat).run = s.run ∧ (State.wrB s d v lat).sram = s.sram ∧ (State.wrB s d v lat).mem = s.mem ∧
    (State.wrB s d v lat).fab = s.fab ∧ (State.wrB s d v lat).sh = s.sh ∧ (State.wrB s d v lat).grp = s.grp ∧
    (State.wrB s d v lat).fw = s.fw ∧ (State.wrB s d v lat).tr = s.tr := ⟨rfl, rfl, rfl, rfl, rfl, rfl, rfl, rfl, rfl, rfl, rfl, rfl, rfl, rfl, rfl, rfl, rfl, rfl, rfl, rfl, rfl, rfl, rfl, rfl, rfl, rfl⟩

@[simp] theorem State.advS_keeps (s : State) :
    (State.advS s).clk = s.clk ∧ (State.advS s).env = s.env ∧ (State.advS s).actor = s.actor ∧ (State.advS s).ctl = s.ctl ∧
    (State.advS s).code = s.code ∧ (State.advS s).trap = s.trap ∧ (State.advS s).pend = s.pend ∧ (State.advS s).iss = s.iss ∧
    (State.advS s).cmp = s.cmp ∧ (State.advS s).cv = s.cv ∧ (State.advS s).cm = s.cm ∧ (State.advS s).cc = s.cc ∧
    (State.advS s).cx = s.cx ∧ (State.advS s).rs = s.rs ∧ (State.advS s).dq = s.dq ∧ (State.advS s).dpend = s.dpend ∧
    (State.advS s).me = s.me ∧ (State.advS s).sram = s.sram ∧ (State.advS s).mem = s.mem ∧ (State.advS s).fab = s.fab ∧
    (State.advS s).sh = s.sh ∧ (State.advS s).grp = s.grp ∧ (State.advS s).fw = s.fw ∧ (State.advS s).tr = s.tr := by
  unfold State.advS
  (repeat' split) <;> exact ⟨rfl, rfl, rfl, rfl, rfl, rfl, rfl, rfl, rfl, rfl, rfl, rfl, rfl, rfl, rfl, rfl, rfl, rfl, rfl, rfl, rfl, rfl, rfl, rfl⟩

@[simp] theorem State.block_keeps (s : State) (b : Blk) :
    (State.block s b).clk = s.clk ∧ (State.block s b).env = s.env ∧ (State.block s b).actor = s.actor ∧
    (State.block s b).regs = s.regs ∧ (State.block s b).ctl = s.ctl ∧ (State.block s b).code = s.code ∧
    (State.block s b).trap = s.trap ∧ (State.block s b).pend = s.pend ∧ (State.block s b).iss = s.iss ∧
    (State.block s b).cmp = s.cmp ∧ (State.block s b).cv = s.cv ∧ (State.block s b).cm = s.cm ∧ (State.block s b).cc = s.cc ∧
    (State.block s b).cx = s.cx ∧ (State.block s b).rs = s.rs ∧ (State.block s b).dq = s.dq ∧ (State.block s b).dpend = s.dpend ∧
    (State.block s b).me = s.me ∧ (State.block s b).run = s.run ∧ (State.block s b).sram = s.sram ∧ (State.block s b).mem = s.mem ∧
    (State.block s b).fab = s.fab ∧ (State.block s b).sh = s.sh ∧ (State.block s b).grp = s.grp ∧ (State.block s b).fw = s.fw ∧
    (State.block s b).tr = s.tr := ⟨rfl, rfl, rfl, rfl, rfl, rfl, rfl, rfl, rfl, rfl, rfl, rfl, rfl, rfl, rfl, rfl, rfl, rfl, rfl, rfl, rfl, rfl, rfl, rfl, rfl, rfl⟩

@[simp] theorem State.wait_keeps (s : State) (h : Hold) :
    (State.wait s h).clk = s.clk ∧ (State.wait s h).env = s.env ∧ (State.wait s h).actor = s.actor ∧ (State.wait s h).regs = s.regs ∧
    (State.wait s h).ctl = s.ctl ∧ (State.wait s h).code = s.code ∧ (State.wait s h).trap = s.trap ∧ (State.wait s h).pend = s.pend ∧
    (State.wait s h).iss = s.iss ∧ (State.wait s h).cmp = s.cmp ∧ (State.wait s h).cv = s.cv ∧ (State.wait s h).cm = s.cm ∧
    (State.wait s h).cc = s.cc ∧ (State.wait s h).cx = s.cx ∧ (State.wait s h).rs = s.rs ∧ (State.wait s h).dq = s.dq ∧
    (State.wait s h).dpend = s.dpend ∧ (State.wait s h).me = s.me ∧ (State.wait s h).run = s.run ∧ (State.wait s h).sram = s.sram ∧
    (State.wait s h).mem = s.mem ∧ (State.wait s h).fab = s.fab ∧ (State.wait s h).sh = s.sh ∧ (State.wait s h).grp = s.grp ∧
    (State.wait s h).fw = s.fw ∧ (State.wait s h).tr = s.tr := ⟨rfl, rfl, rfl, rfl, rfl, rfl, rfl, rfl, rfl, rfl, rfl, rfl, rfl, rfl, rfl, rfl, rfl, rfl, rfl, rfl, rfl, rfl, rfl, rfl, rfl, rfl⟩

@[simp] theorem State.stall_keeps (s : State) (src : Nat) :
    (State.stall s src).clk = s.clk ∧ (State.stall s src).env = s.env ∧ (State.stall s src).actor = s.actor ∧
    (State.stall s src).regs = s.regs ∧ (State.stall s src).ctl = s.ctl ∧ (State.stall s src).code = s.code ∧
    (State.stall s src).trap = s.trap ∧ (State.stall s src).pend = s.pend ∧ (State.stall s src).iss = s.iss ∧
    (State.stall s src).cmp = s.cmp ∧ (State.stall s src).cx = s.cx ∧ (State.stall s src).rs = s.rs ∧ (State.stall s src).dq = s.dq ∧
    (State.stall s src).dpend = s.dpend ∧ (State.stall s src).me = s.me ∧ (State.stall s src).sram = s.sram ∧
    (State.stall s src).mem = s.mem ∧ (State.stall s src).fab = s.fab ∧ (State.stall s src).sh = s.sh ∧
    (State.stall s src).grp = s.grp ∧ (State.stall s src).fw = s.fw ∧ (State.stall s src).tr = s.tr := by
  unfold State.stall
  (repeat' split) <;> exact ⟨rfl, rfl, rfl, rfl, rfl, rfl, rfl, rfl, rfl, rfl, rfl, rfl, rfl, rfl, rfl, rfl, rfl, rfl, rfl, rfl, rfl, rfl⟩

@[simp] theorem State.raiseF_keeps (s : State) (f : FaultRec) :
    (State.raiseF s f).clk = s.clk ∧ (State.raiseF s f).env = s.env ∧ (State.raiseF s f).actor = s.actor ∧
    (State.raiseF s f).regs = s.regs ∧ (State.raiseF s f).ctl = s.ctl ∧ (State.raiseF s f).code = s.code ∧
    (State.raiseF s f).pend = s.pend ∧ (State.raiseF s f).iss = s.iss ∧ (State.raiseF s f).cmp = s.cmp ∧
    (State.raiseF s f).cx = s.cx ∧ (State.raiseF s f).rs = s.rs ∧ (State.raiseF s f).dq = s.dq ∧ (State.raiseF s f).dpend = s.dpend ∧
    (State.raiseF s f).me = s.me ∧ (State.raiseF s f).sram = s.sram ∧ (State.raiseF s f).mem = s.mem ∧
    (State.raiseF s f).fab = s.fab ∧ (State.raiseF s f).sh = s.sh ∧ (State.raiseF s f).grp = s.grp ∧ (State.raiseF s f).fw = s.fw ∧
    (State.raiseF s f).tr = s.tr := by
  unfold State.raiseF
  (try dsimp only)
  (repeat' split) <;> simp

@[simp] theorem State.fault_keeps (s : State) (src cause : Nat) (cap : Cap) (off : W64) (info : W64) :
    (State.fault s src cause cap off info).clk = s.clk ∧ (State.fault s src cause cap off info).env = s.env ∧
    (State.fault s src cause cap off info).actor = s.actor ∧ (State.fault s src cause cap off info).regs = s.regs ∧
    (State.fault s src cause cap off info).ctl = s.ctl ∧ (State.fault s src cause cap off info).code = s.code ∧
    (State.fault s src cause cap off info).pend = s.pend ∧ (State.fault s src cause cap off info).iss = s.iss ∧
    (State.fault s src cause cap off info).cmp = s.cmp ∧ (State.fault s src cause cap off info).cx = s.cx ∧
    (State.fault s src cause cap off info).rs = s.rs ∧ (State.fault s src cause cap off info).dq = s.dq ∧
    (State.fault s src cause cap off info).dpend = s.dpend ∧ (State.fault s src cause cap off info).me = s.me ∧
    (State.fault s src cause cap off info).sram = s.sram ∧ (State.fault s src cause cap off info).mem = s.mem ∧
    (State.fault s src cause cap off info).fab = s.fab ∧ (State.fault s src cause cap off info).sh = s.sh ∧
    (State.fault s src cause cap off info).grp = s.grp ∧ (State.fault s src cause cap off info).fw = s.fw ∧
    (State.fault s src cause cap off info).tr = s.tr := by simp [State.fault]

@[simp] theorem State.unblock_keeps (s : State) :
    (State.unblock s).clk = s.clk ∧ (State.unblock s).env = s.env ∧ (State.unblock s).actor = s.actor ∧
    (State.unblock s).regs = s.regs ∧ (State.unblock s).ctl = s.ctl ∧ (State.unblock s).code = s.code ∧
    (State.unblock s).trap = s.trap ∧ (State.unblock s).pend = s.pend ∧ (State.unblock s).iss = s.iss ∧
    (State.unblock s).cmp = s.cmp ∧ (State.unblock s).cv = s.cv ∧ (State.unblock s).cm = s.cm ∧ (State.unblock s).cc = s.cc ∧
    (State.unblock s).cx = s.cx ∧ (State.unblock s).rs = s.rs ∧ (State.unblock s).dq = s.dq ∧ (State.unblock s).dpend = s.dpend ∧
    (State.unblock s).me = s.me ∧ (State.unblock s).run = s.run ∧ (State.unblock s).sram = s.sram ∧ (State.unblock s).mem = s.mem ∧
    (State.unblock s).fab = s.fab ∧ (State.unblock s).sh = s.sh ∧ (State.unblock s).grp = s.grp ∧ (State.unblock s).fw = s.fw ∧
    (State.unblock s).tr = s.tr := ⟨rfl, rfl, rfl, rfl, rfl, rfl, rfl, rfl, rfl, rfl, rfl, rfl, rfl, rfl, rfl, rfl, rfl, rfl, rfl, rfl, rfl, rfl, rfl, rfl, rfl, rfl⟩

@[simp] theorem State.spadWrite_keeps (s : State) (a : Nat) (b : List Byte) :
    (State.spadWrite s a b).clk = s.clk ∧ (State.spadWrite s a b).env = s.env ∧ (State.spadWrite s a b).actor = s.actor ∧
    (State.spadWrite s a b).regs = s.regs ∧ (State.spadWrite s a b).ctl = s.ctl ∧ (State.spadWrite s a b).code = s.code ∧
    (State.spadWrite s a b).sx = s.sx ∧ (State.spadWrite s a b).trap = s.trap ∧ (State.spadWrite s a b).pend = s.pend ∧
    (State.spadWrite s a b).iss = s.iss ∧ (State.spadWrite s a b).cmp = s.cmp ∧ (State.spadWrite s a b).cv = s.cv ∧
    (State.spadWrite s a b).cm = s.cm ∧ (State.spadWrite s a b).cc = s.cc ∧ (State.spadWrite s a b).cx = s.cx ∧
    (State.spadWrite s a b).rs = s.rs ∧ (State.spadWrite s a b).dq = s.dq ∧ (State.spadWrite s a b).dpend = s.dpend ∧
    (State.spadWrite s a b).me = s.me ∧ (State.spadWrite s a b).run = s.run ∧ (State.spadWrite s a b).mem = s.mem ∧
    (State.spadWrite s a b).fab = s.fab ∧ (State.spadWrite s a b).sh = s.sh ∧ (State.spadWrite s a b).grp = s.grp ∧
    (State.spadWrite s a b).fw = s.fw ∧ (State.spadWrite s a b).tr = s.tr := ⟨rfl, rfl, rfl, rfl, rfl, rfl, rfl, rfl, rfl, rfl, rfl, rfl, rfl, rfl, rfl, rfl, rfl, rfl, rfl, rfl, rfl, rfl, rfl, rfl, rfl, rfl⟩

@[simp] theorem State.objPut_keeps (s : State) (id : Nat) (e : ObjEntry) (o : Nat) (b : Byte) :
    (State.objPut s id e o b).clk = s.clk ∧ (State.objPut s id e o b).env = s.env ∧ (State.objPut s id e o b).actor = s.actor ∧
    (State.objPut s id e o b).regs = s.regs ∧ (State.objPut s id e o b).ctl = s.ctl ∧ (State.objPut s id e o b).code = s.code ∧
    (State.objPut s id e o b).sx = s.sx ∧ (State.objPut s id e o b).trap = s.trap ∧ (State.objPut s id e o b).pend = s.pend ∧
    (State.objPut s id e o b).iss = s.iss ∧ (State.objPut s id e o b).cmp = s.cmp ∧ (State.objPut s id e o b).cv = s.cv ∧
    (State.objPut s id e o b).cm = s.cm ∧ (State.objPut s id e o b).cc = s.cc ∧ (State.objPut s id e o b).cx = s.cx ∧
    (State.objPut s id e o b).rs = s.rs ∧ (State.objPut s id e o b).dq = s.dq ∧ (State.objPut s id e o b).dpend = s.dpend ∧
    (State.objPut s id e o b).me = s.me ∧ (State.objPut s id e o b).run = s.run ∧ (State.objPut s id e o b).sram = s.sram ∧
    (State.objPut s id e o b).fab = s.fab ∧ (State.objPut s id e o b).sh = s.sh ∧ (State.objPut s id e o b).grp = s.grp ∧
    (State.objPut s id e o b).fw = s.fw ∧ (State.objPut s id e o b).tr = s.tr := by
  unfold State.objPut
  (repeat' split) <;> exact ⟨rfl, rfl, rfl, rfl, rfl, rfl, rfl, rfl, rfl, rfl, rfl, rfl, rfl, rfl, rfl, rfl, rfl, rfl, rfl, rfl, rfl, rfl, rfl, rfl, rfl, rfl⟩

@[simp] theorem State.objPuts_keeps (s : State) (id : Nat) (e : ObjEntry) (o : Nat) (l : List Byte) :
    (State.objPuts s id e o l).clk = s.clk ∧ (State.objPuts s id e o l).env = s.env ∧ (State.objPuts s id e o l).actor = s.actor ∧
    (State.objPuts s id e o l).regs = s.regs ∧ (State.objPuts s id e o l).ctl = s.ctl ∧ (State.objPuts s id e o l).code = s.code ∧
    (State.objPuts s id e o l).sx = s.sx ∧ (State.objPuts s id e o l).trap = s.trap ∧ (State.objPuts s id e o l).pend = s.pend ∧
    (State.objPuts s id e o l).iss = s.iss ∧ (State.objPuts s id e o l).cmp = s.cmp ∧ (State.objPuts s id e o l).cv = s.cv ∧
    (State.objPuts s id e o l).cm = s.cm ∧ (State.objPuts s id e o l).cc = s.cc ∧ (State.objPuts s id e o l).cx = s.cx ∧
    (State.objPuts s id e o l).rs = s.rs ∧ (State.objPuts s id e o l).dq = s.dq ∧ (State.objPuts s id e o l).dpend = s.dpend ∧
    (State.objPuts s id e o l).me = s.me ∧ (State.objPuts s id e o l).run = s.run ∧ (State.objPuts s id e o l).sram = s.sram ∧
    (State.objPuts s id e o l).fab = s.fab ∧ (State.objPuts s id e o l).sh = s.sh ∧ (State.objPuts s id e o l).grp = s.grp ∧
    (State.objPuts s id e o l).fw = s.fw ∧ (State.objPuts s id e o l).tr = s.tr := by
  induction l generalizing s o with
  | nil => exact ⟨rfl, rfl, rfl, rfl, rfl, rfl, rfl, rfl, rfl, rfl, rfl, rfl, rfl, rfl, rfl, rfl, rfl, rfl, rfl, rfl, rfl, rfl, rfl, rfl, rfl, rfl⟩
  | cons a t ih =>
    simp only [State.objPuts]
    (repeat' split) <;> simp [ih]

@[simp] theorem State.stickyReg_keeps (s : State) (v : W64) :
    (State.stickyReg s v).clk = s.clk ∧ (State.stickyReg s v).env = s.env ∧ (State.stickyReg s v).actor = s.actor ∧
    (State.stickyReg s v).regs = s.regs ∧ (State.stickyReg s v).code = s.code ∧ (State.stickyReg s v).sx = s.sx ∧
    (State.stickyReg s v).trap = s.trap ∧ (State.stickyReg s v).pend = s.pend ∧ (State.stickyReg s v).iss = s.iss ∧
    (State.stickyReg s v).cmp = s.cmp ∧ (State.stickyReg s v).cv = s.cv ∧ (State.stickyReg s v).cm = s.cm ∧
    (State.stickyReg s v).cc = s.cc ∧ (State.stickyReg s v).cx = s.cx ∧ (State.stickyReg s v).rs = s.rs ∧
    (State.stickyReg s v).dq = s.dq ∧ (State.stickyReg s v).dpend = s.dpend ∧ (State.stickyReg s v).me = s.me ∧
    (State.stickyReg s v).run = s.run ∧ (State.stickyReg s v).sram = s.sram ∧ (State.stickyReg s v).mem = s.mem ∧
    (State.stickyReg s v).fab = s.fab ∧ (State.stickyReg s v).sh = s.sh ∧ (State.stickyReg s v).grp = s.grp ∧
    (State.stickyReg s v).fw = s.fw ∧ (State.stickyReg s v).tr = s.tr := ⟨rfl, rfl, rfl, rfl, rfl, rfl, rfl, rfl, rfl, rfl, rfl, rfl, rfl, rfl, rfl, rfl, rfl, rfl, rfl, rfl, rfl, rfl, rfl, rfl, rfl, rfl⟩

@[simp] theorem State.stickyS_keeps (s : State) (v : W64) :
    (State.stickyS s v).clk = s.clk ∧ (State.stickyS s v).env = s.env ∧ (State.stickyS s v).actor = s.actor ∧
    (State.stickyS s v).regs = s.regs ∧ (State.stickyS s v).code = s.code ∧ (State.stickyS s v).sx = s.sx ∧
    (State.stickyS s v).trap = s.trap ∧ (State.stickyS s v).pend = s.pend ∧ (State.stickyS s v).iss = s.iss ∧
    (State.stickyS s v).cmp = s.cmp ∧ (State.stickyS s v).cv = s.cv ∧ (State.stickyS s v).cm = s.cm ∧ (State.stickyS s v).cc = s.cc ∧
    (State.stickyS s v).cx = s.cx ∧ (State.stickyS s v).rs = s.rs ∧ (State.stickyS s v).dq = s.dq ∧
    (State.stickyS s v).dpend = s.dpend ∧ (State.stickyS s v).me = s.me ∧ (State.stickyS s v).run = s.run ∧
    (State.stickyS s v).sram = s.sram ∧ (State.stickyS s v).mem = s.mem ∧ (State.stickyS s v).fab = s.fab ∧
    (State.stickyS s v).sh = s.sh ∧ (State.stickyS s v).grp = s.grp ∧ (State.stickyS s v).fw = s.fw ∧ (State.stickyS s v).tr = s.tr := ⟨rfl, rfl, rfl, rfl, rfl, rfl, rfl, rfl, rfl, rfl, rfl, rfl, rfl, rfl, rfl, rfl, rfl, rfl, rfl, rfl, rfl, rfl, rfl, rfl, rfl, rfl⟩

@[simp] theorem State.stickySram_keeps (s : State) (v : W64) :
    (State.stickySram s v).clk = s.clk ∧ (State.stickySram s v).env = s.env ∧ (State.stickySram s v).actor = s.actor ∧
    (State.stickySram s v).regs = s.regs ∧ (State.stickySram s v).code = s.code ∧ (State.stickySram s v).sx = s.sx ∧
    (State.stickySram s v).trap = s.trap ∧ (State.stickySram s v).pend = s.pend ∧ (State.stickySram s v).iss = s.iss ∧
    (State.stickySram s v).cmp = s.cmp ∧ (State.stickySram s v).cv = s.cv ∧ (State.stickySram s v).cm = s.cm ∧
    (State.stickySram s v).cc = s.cc ∧ (State.stickySram s v).cx = s.cx ∧ (State.stickySram s v).rs = s.rs ∧
    (State.stickySram s v).dq = s.dq ∧ (State.stickySram s v).dpend = s.dpend ∧ (State.stickySram s v).me = s.me ∧
    (State.stickySram s v).run = s.run ∧ (State.stickySram s v).sram = s.sram ∧ (State.stickySram s v).mem = s.mem ∧
    (State.stickySram s v).fab = s.fab ∧ (State.stickySram s v).sh = s.sh ∧ (State.stickySram s v).grp = s.grp ∧
    (State.stickySram s v).fw = s.fw ∧ (State.stickySram s v).tr = s.tr := ⟨rfl, rfl, rfl, rfl, rfl, rfl, rfl, rfl, rfl, rfl, rfl, rfl, rfl, rfl, rfl, rfl, rfl, rfl, rfl, rfl, rfl, rfl, rfl, rfl, rfl, rfl⟩

@[simp] theorem State.stickyC_keeps (s : State) (v : W64) :
    (State.stickyC s v).clk = s.clk ∧ (State.stickyC s v).env = s.env ∧ (State.stickyC s v).actor = s.actor ∧
    (State.stickyC s v).regs = s.regs ∧ (State.stickyC s v).code = s.code ∧ (State.stickyC s v).sx = s.sx ∧
    (State.stickyC s v).trap = s.trap ∧ (State.stickyC s v).pend = s.pend ∧ (State.stickyC s v).iss = s.iss ∧
    (State.stickyC s v).cmp = s.cmp ∧ (State.stickyC s v).cv = s.cv ∧ (State.stickyC s v).cm = s.cm ∧ (State.stickyC s v).cc = s.cc ∧
    (State.stickyC s v).cx = s.cx ∧ (State.stickyC s v).rs = s.rs ∧ (State.stickyC s v).dq = s.dq ∧
    (State.stickyC s v).dpend = s.dpend ∧ (State.stickyC s v).me = s.me ∧ (State.stickyC s v).run = s.run ∧
    (State.stickyC s v).sram = s.sram ∧ (State.stickyC s v).mem = s.mem ∧ (State.stickyC s v).fab = s.fab ∧
    (State.stickyC s v).sh = s.sh ∧ (State.stickyC s v).grp = s.grp ∧ (State.stickyC s v).fw = s.fw ∧ (State.stickyC s v).tr = s.tr := ⟨rfl, rfl, rfl, rfl, rfl, rfl, rfl, rfl, rfl, rfl, rfl, rfl, rfl, rfl, rfl, rfl, rfl, rfl, rfl, rfl, rfl, rfl, rfl, rfl, rfl, rfl⟩

@[simp] theorem State.stickyV_keeps (s : State) (e : Ev) :
    (State.stickyV s e).clk = s.clk ∧ (State.stickyV s e).env = s.env ∧ (State.stickyV s e).actor = s.actor ∧
    (State.stickyV s e).regs = s.regs ∧ (State.stickyV s e).code = s.code ∧ (State.stickyV s e).sx = s.sx ∧
    (State.stickyV s e).trap = s.trap ∧ (State.stickyV s e).pend = s.pend ∧ (State.stickyV s e).iss = s.iss ∧
    (State.stickyV s e).cmp = s.cmp ∧ (State.stickyV s e).cv = s.cv ∧ (State.stickyV s e).cm = s.cm ∧ (State.stickyV s e).cc = s.cc ∧
    (State.stickyV s e).cx = s.cx ∧ (State.stickyV s e).rs = s.rs ∧ (State.stickyV s e).dq = s.dq ∧
    (State.stickyV s e).dpend = s.dpend ∧ (State.stickyV s e).me = s.me ∧ (State.stickyV s e).run = s.run ∧
    (State.stickyV s e).sram = s.sram ∧ (State.stickyV s e).mem = s.mem ∧ (State.stickyV s e).fab = s.fab ∧
    (State.stickyV s e).sh = s.sh ∧ (State.stickyV s e).grp = s.grp ∧ (State.stickyV s e).fw = s.fw ∧ (State.stickyV s e).tr = s.tr := ⟨rfl, rfl, rfl, rfl, rfl, rfl, rfl, rfl, rfl, rfl, rfl, rfl, rfl, rfl, rfl, rfl, rfl, rfl, rfl, rfl, rfl, rfl, rfl, rfl, rfl, rfl⟩

@[simp] theorem State.stickyM_keeps (s : State) (v : W64) :
    (State.stickyM s v).clk = s.clk ∧ (State.stickyM s v).env = s.env ∧ (State.stickyM s v).actor = s.actor ∧
    (State.stickyM s v).regs = s.regs ∧ (State.stickyM s v).code = s.code ∧ (State.stickyM s v).sx = s.sx ∧
    (State.stickyM s v).trap = s.trap ∧ (State.stickyM s v).pend = s.pend ∧ (State.stickyM s v).iss = s.iss ∧
    (State.stickyM s v).cmp = s.cmp ∧ (State.stickyM s v).cv = s.cv ∧ (State.stickyM s v).cm = s.cm ∧ (State.stickyM s v).cc = s.cc ∧
    (State.stickyM s v).cx = s.cx ∧ (State.stickyM s v).rs = s.rs ∧ (State.stickyM s v).dq = s.dq ∧
    (State.stickyM s v).dpend = s.dpend ∧ (State.stickyM s v).me = s.me ∧ (State.stickyM s v).run = s.run ∧
    (State.stickyM s v).sram = s.sram ∧ (State.stickyM s v).mem = s.mem ∧ (State.stickyM s v).fab = s.fab ∧
    (State.stickyM s v).sh = s.sh ∧ (State.stickyM s v).grp = s.grp ∧ (State.stickyM s v).fw = s.fw ∧ (State.stickyM s v).tr = s.tr := ⟨rfl, rfl, rfl, rfl, rfl, rfl, rfl, rfl, rfl, rfl, rfl, rfl, rfl, rfl, rfl, rfl, rfl, rfl, rfl, rfl, rfl, rfl, rfl, rfl, rfl, rfl⟩

@[simp] theorem State.rsPut_keeps (s : State) (a : Nat) (b : Byte) :
    (State.rsPut s a b).clk = s.clk ∧ (State.rsPut s a b).env = s.env ∧ (State.rsPut s a b).actor = s.actor ∧
    (State.rsPut s a b).regs = s.regs ∧ (State.rsPut s a b).code = s.code ∧ (State.rsPut s a b).sx = s.sx ∧
    (State.rsPut s a b).trap = s.trap ∧ (State.rsPut s a b).pend = s.pend ∧ (State.rsPut s a b).iss = s.iss ∧
    (State.rsPut s a b).cmp = s.cmp ∧ (State.rsPut s a b).cv = s.cv ∧ (State.rsPut s a b).cm = s.cm ∧ (State.rsPut s a b).cc = s.cc ∧
    (State.rsPut s a b).cx = s.cx ∧ (State.rsPut s a b).dq = s.dq ∧ (State.rsPut s a b).dpend = s.dpend ∧
    (State.rsPut s a b).me = s.me ∧ (State.rsPut s a b).run = s.run ∧ (State.rsPut s a b).sram = s.sram ∧
    (State.rsPut s a b).mem = s.mem ∧ (State.rsPut s a b).fab = s.fab ∧ (State.rsPut s a b).sh = s.sh ∧
    (State.rsPut s a b).grp = s.grp ∧ (State.rsPut s a b).fw = s.fw ∧ (State.rsPut s a b).tr = s.tr := by
  unfold State.rsPut
  (repeat' split) <;> exact ⟨rfl, rfl, rfl, rfl, rfl, rfl, rfl, rfl, rfl, rfl, rfl, rfl, rfl, rfl, rfl, rfl, rfl, rfl, rfl, rfl, rfl, rfl, rfl, rfl, rfl⟩

@[simp] theorem State.rsPuts_keeps (s : State) (l : List Host.Cell) :
    (State.rsPuts s l).clk = s.clk ∧ (State.rsPuts s l).env = s.env ∧ (State.rsPuts s l).actor = s.actor ∧
    (State.rsPuts s l).regs = s.regs ∧ (State.rsPuts s l).code = s.code ∧ (State.rsPuts s l).sx = s.sx ∧
    (State.rsPuts s l).trap = s.trap ∧ (State.rsPuts s l).pend = s.pend ∧ (State.rsPuts s l).iss = s.iss ∧
    (State.rsPuts s l).cmp = s.cmp ∧ (State.rsPuts s l).cv = s.cv ∧ (State.rsPuts s l).cm = s.cm ∧ (State.rsPuts s l).cc = s.cc ∧
    (State.rsPuts s l).cx = s.cx ∧ (State.rsPuts s l).dq = s.dq ∧ (State.rsPuts s l).dpend = s.dpend ∧ (State.rsPuts s l).me = s.me ∧
    (State.rsPuts s l).run = s.run ∧ (State.rsPuts s l).sram = s.sram ∧ (State.rsPuts s l).mem = s.mem ∧
    (State.rsPuts s l).fab = s.fab ∧ (State.rsPuts s l).sh = s.sh ∧ (State.rsPuts s l).grp = s.grp ∧ (State.rsPuts s l).fw = s.fw ∧
    (State.rsPuts s l).tr = s.tr := by
  induction l generalizing s with
  | nil => exact ⟨rfl, rfl, rfl, rfl, rfl, rfl, rfl, rfl, rfl, rfl, rfl, rfl, rfl, rfl, rfl, rfl, rfl, rfl, rfl, rfl, rfl, rfl, rfl, rfl, rfl⟩
  | cons a t ih =>
    simp only [State.rsPuts]
    (repeat' split) <;> simp [ih]

@[simp] theorem State.sramPuts_keeps (s : State) (l : List Host.Cell) :
    (State.sramPuts s l).clk = s.clk ∧ (State.sramPuts s l).env = s.env ∧ (State.sramPuts s l).actor = s.actor ∧
    (State.sramPuts s l).regs = s.regs ∧ (State.sramPuts s l).ctl = s.ctl ∧ (State.sramPuts s l).code = s.code ∧
    (State.sramPuts s l).sx = s.sx ∧ (State.sramPuts s l).trap = s.trap ∧ (State.sramPuts s l).pend = s.pend ∧
    (State.sramPuts s l).iss = s.iss ∧ (State.sramPuts s l).cmp = s.cmp ∧ (State.sramPuts s l).cv = s.cv ∧
    (State.sramPuts s l).cm = s.cm ∧ (State.sramPuts s l).cc = s.cc ∧ (State.sramPuts s l).cx = s.cx ∧
    (State.sramPuts s l).rs = s.rs ∧ (State.sramPuts s l).dq = s.dq ∧ (State.sramPuts s l).dpend = s.dpend ∧
    (State.sramPuts s l).me = s.me ∧ (State.sramPuts s l).run = s.run ∧ (State.sramPuts s l).mem = s.mem ∧
    (State.sramPuts s l).fab = s.fab ∧ (State.sramPuts s l).sh = s.sh ∧ (State.sramPuts s l).grp = s.grp ∧
    (State.sramPuts s l).fw = s.fw ∧ (State.sramPuts s l).tr = s.tr := by
  induction l generalizing s with
  | nil => exact ⟨rfl, rfl, rfl, rfl, rfl, rfl, rfl, rfl, rfl, rfl, rfl, rfl, rfl, rfl, rfl, rfl, rfl, rfl, rfl, rfl, rfl, rfl, rfl, rfl, rfl, rfl⟩
  | cons a t ih =>
    simp only [State.sramPuts]
    (repeat' split) <;> simp [ih]

@[simp] theorem State.enqueue_keeps (s : State) (l : List BItem) :
    (State.enqueue s l).clk = s.clk ∧ (State.enqueue s l).env = s.env ∧ (State.enqueue s l).actor = s.actor ∧
    (State.enqueue s l).regs = s.regs ∧ (State.enqueue s l).ctl = s.ctl ∧ (State.enqueue s l).code = s.code ∧
    (State.enqueue s l).sx = s.sx ∧ (State.enqueue s l).trap = s.trap ∧ (State.enqueue s l).pend = s.pend ∧
    (State.enqueue s l).iss = s.iss ∧ (State.enqueue s l).cmp = s.cmp ∧ (State.enqueue s l).cv = s.cv ∧
    (State.enqueue s l).cm = s.cm ∧ (State.enqueue s l).cc = s.cc ∧ (State.enqueue s l).cx = s.cx ∧ (State.enqueue s l).rs = s.rs ∧
    (State.enqueue s l).dq = s.dq ∧ (State.enqueue s l).dpend = s.dpend ∧ (State.enqueue s l).me = s.me ∧
    (State.enqueue s l).run = s.run ∧ (State.enqueue s l).mem = s.mem ∧ (State.enqueue s l).fab = s.fab ∧
    (State.enqueue s l).sh = s.sh ∧ (State.enqueue s l).grp = s.grp ∧ (State.enqueue s l).fw = s.fw ∧ (State.enqueue s l).tr = s.tr := ⟨rfl, rfl, rfl, rfl, rfl, rfl, rfl, rfl, rfl, rfl, rfl, rfl, rfl, rfl, rfl, rfl, rfl, rfl, rfl, rfl, rfl, rfl, rfl, rfl, rfl, rfl⟩

@[simp] theorem State.dropAsks_keeps (s : State) (o : BOwner) :
    (State.dropAsks s o).clk = s.clk ∧ (State.dropAsks s o).env = s.env ∧ (State.dropAsks s o).actor = s.actor ∧
    (State.dropAsks s o).regs = s.regs ∧ (State.dropAsks s o).ctl = s.ctl ∧ (State.dropAsks s o).code = s.code ∧
    (State.dropAsks s o).sx = s.sx ∧ (State.dropAsks s o).trap = s.trap ∧ (State.dropAsks s o).pend = s.pend ∧
    (State.dropAsks s o).iss = s.iss ∧ (State.dropAsks s o).cmp = s.cmp ∧ (State.dropAsks s o).cv = s.cv ∧
    (State.dropAsks s o).cm = s.cm ∧ (State.dropAsks s o).cc = s.cc ∧ (State.dropAsks s o).cx = s.cx ∧
    (State.dropAsks s o).rs = s.rs ∧ (State.dropAsks s o).dq = s.dq ∧ (State.dropAsks s o).dpend = s.dpend ∧
    (State.dropAsks s o).me = s.me ∧ (State.dropAsks s o).run = s.run ∧ (State.dropAsks s o).mem = s.mem ∧
    (State.dropAsks s o).fab = s.fab ∧ (State.dropAsks s o).sh = s.sh ∧ (State.dropAsks s o).grp = s.grp ∧
    (State.dropAsks s o).fw = s.fw ∧ (State.dropAsks s o).tr = s.tr := ⟨rfl, rfl, rfl, rfl, rfl, rfl, rfl, rfl, rfl, rfl, rfl, rfl, rfl, rfl, rfl, rfl, rfl, rfl, rfl, rfl, rfl, rfl, rfl, rfl, rfl, rfl⟩

@[simp] theorem State.pushReq_keeps (s : State) (cycle num addr : Nat) (act : TReqDo) :
    (State.pushReq s cycle num addr act).clk = s.clk ∧ (State.pushReq s cycle num addr act).env = s.env ∧
    (State.pushReq s cycle num addr act).actor = s.actor ∧ (State.pushReq s cycle num addr act).regs = s.regs ∧
    (State.pushReq s cycle num addr act).ctl = s.ctl ∧ (State.pushReq s cycle num addr act).code = s.code ∧
    (State.pushReq s cycle num addr act).sx = s.sx ∧ (State.pushReq s cycle num addr act).trap = s.trap ∧
    (State.pushReq s cycle num addr act).pend = s.pend ∧ (State.pushReq s cycle num addr act).iss = s.iss ∧
    (State.pushReq s cycle num addr act).cmp = s.cmp ∧ (State.pushReq s cycle num addr act).cv = s.cv ∧
    (State.pushReq s cycle num addr act).cm = s.cm ∧ (State.pushReq s cycle num addr act).cc = s.cc ∧
    (State.pushReq s cycle num addr act).cx = s.cx ∧ (State.pushReq s cycle num addr act).rs = s.rs ∧
    (State.pushReq s cycle num addr act).dq = s.dq ∧ (State.pushReq s cycle num addr act).dpend = s.dpend ∧
    (State.pushReq s cycle num addr act).me = s.me ∧ (State.pushReq s cycle num addr act).run = s.run ∧
    (State.pushReq s cycle num addr act).mem = s.mem ∧ (State.pushReq s cycle num addr act).fab = s.fab ∧
    (State.pushReq s cycle num addr act).sh = s.sh ∧ (State.pushReq s cycle num addr act).grp = s.grp ∧
    (State.pushReq s cycle num addr act).fw = s.fw ∧ (State.pushReq s cycle num addr act).tr = s.tr := ⟨rfl, rfl, rfl, rfl, rfl, rfl, rfl, rfl, rfl, rfl, rfl, rfl, rfl, rfl, rfl, rfl, rfl, rfl, rfl, rfl, rfl, rfl, rfl, rfl, rfl, rfl⟩

@[simp] theorem State.completeTok_keeps (s : State) (id : Nat) (k : W32) :
    (State.completeTok s id k).clk = s.clk ∧ (State.completeTok s id k).env = s.env ∧ (State.completeTok s id k).actor = s.actor ∧
    (State.completeTok s id k).regs = s.regs ∧ (State.completeTok s id k).ctl = s.ctl ∧ (State.completeTok s id k).code = s.code ∧
    (State.completeTok s id k).sx = s.sx ∧ (State.completeTok s id k).trap = s.trap ∧ (State.completeTok s id k).pend = s.pend ∧
    (State.completeTok s id k).iss = s.iss ∧ (State.completeTok s id k).cv = s.cv ∧ (State.completeTok s id k).cm = s.cm ∧
    (State.completeTok s id k).cc = s.cc ∧ (State.completeTok s id k).cx = s.cx ∧ (State.completeTok s id k).rs = s.rs ∧
    (State.completeTok s id k).dq = s.dq ∧ (State.completeTok s id k).dpend = s.dpend ∧ (State.completeTok s id k).me = s.me ∧
    (State.completeTok s id k).run = s.run ∧ (State.completeTok s id k).sram = s.sram ∧ (State.completeTok s id k).mem = s.mem ∧
    (State.completeTok s id k).fab = s.fab ∧ (State.completeTok s id k).sh = s.sh ∧ (State.completeTok s id k).grp = s.grp ∧
    (State.completeTok s id k).fw = s.fw ∧ (State.completeTok s id k).tr = s.tr := ⟨rfl, rfl, rfl, rfl, rfl, rfl, rfl, rfl, rfl, rfl, rfl, rfl, rfl, rfl, rfl, rfl, rfl, rfl, rfl, rfl, rfl, rfl, rfl, rfl, rfl, rfl⟩

@[simp] theorem State.setCounter_keeps (s : State) (i : Nat) (v : W64) :
    (State.setCounter s i v).clk = s.clk ∧ (State.setCounter s i v).env = s.env ∧ (State.setCounter s i v).actor = s.actor ∧
    (State.setCounter s i v).regs = s.regs ∧ (State.setCounter s i v).ctl = s.ctl ∧ (State.setCounter s i v).code = s.code ∧
    (State.setCounter s i v).sx = s.sx ∧ (State.setCounter s i v).trap = s.trap ∧ (State.setCounter s i v).pend = s.pend ∧
    (State.setCounter s i v).iss = s.iss ∧ (State.setCounter s i v).cmp = s.cmp ∧ (State.setCounter s i v).cv = s.cv ∧
    (State.setCounter s i v).cm = s.cm ∧ (State.setCounter s i v).cc = s.cc ∧ (State.setCounter s i v).cx = s.cx ∧
    (State.setCounter s i v).rs = s.rs ∧ (State.setCounter s i v).dq = s.dq ∧ (State.setCounter s i v).dpend = s.dpend ∧
    (State.setCounter s i v).me = s.me ∧ (State.setCounter s i v).run = s.run ∧ (State.setCounter s i v).sram = s.sram ∧
    (State.setCounter s i v).mem = s.mem ∧ (State.setCounter s i v).sh = s.sh ∧ (State.setCounter s i v).grp = s.grp ∧
    (State.setCounter s i v).fw = s.fw ∧ (State.setCounter s i v).tr = s.tr := ⟨rfl, rfl, rfl, rfl, rfl, rfl, rfl, rfl, rfl, rfl, rfl, rfl, rfl, rfl, rfl, rfl, rfl, rfl, rfl, rfl, rfl, rfl, rfl, rfl, rfl, rfl⟩

@[simp] theorem State.setDqctl_keeps (s : State) (v : W64) :
    (State.setDqctl s v).clk = s.clk ∧ (State.setDqctl s v).env = s.env ∧ (State.setDqctl s v).actor = s.actor ∧
    (State.setDqctl s v).regs = s.regs ∧ (State.setDqctl s v).code = s.code ∧ (State.setDqctl s v).sx = s.sx ∧
    (State.setDqctl s v).trap = s.trap ∧ (State.setDqctl s v).pend = s.pend ∧ (State.setDqctl s v).iss = s.iss ∧
    (State.setDqctl s v).cmp = s.cmp ∧ (State.setDqctl s v).cv = s.cv ∧ (State.setDqctl s v).cm = s.cm ∧
    (State.setDqctl s v).cc = s.cc ∧ (State.setDqctl s v).cx = s.cx ∧ (State.setDqctl s v).rs = s.rs ∧
    (State.setDqctl s v).dpend = s.dpend ∧ (State.setDqctl s v).me = s.me ∧ (State.setDqctl s v).run = s.run ∧
    (State.setDqctl s v).sram = s.sram ∧ (State.setDqctl s v).mem = s.mem ∧ (State.setDqctl s v).fab = s.fab ∧
    (State.setDqctl s v).sh = s.sh ∧ (State.setDqctl s v).grp = s.grp ∧ (State.setDqctl s v).fw = s.fw ∧
    (State.setDqctl s v).tr = s.tr := ⟨rfl, rfl, rfl, rfl, rfl, rfl, rfl, rfl, rfl, rfl, rfl, rfl, rfl, rfl, rfl, rfl, rfl, rfl, rfl, rfl, rfl, rfl, rfl, rfl, rfl⟩

@[simp] theorem State.putLine_keeps (s : State) (l : Line) :
    (State.putLine s l).clk = s.clk ∧ (State.putLine s l).env = s.env ∧ (State.putLine s l).actor = s.actor ∧
    (State.putLine s l).regs = s.regs ∧ (State.putLine s l).ctl = s.ctl ∧ (State.putLine s l).code = s.code ∧
    (State.putLine s l).sx = s.sx ∧ (State.putLine s l).trap = s.trap ∧ (State.putLine s l).pend = s.pend ∧
    (State.putLine s l).iss = s.iss ∧ (State.putLine s l).cmp = s.cmp ∧ (State.putLine s l).cv = s.cv ∧
    (State.putLine s l).cm = s.cm ∧ (State.putLine s l).cc = s.cc ∧ (State.putLine s l).cx = s.cx ∧ (State.putLine s l).rs = s.rs ∧
    (State.putLine s l).dq = s.dq ∧ (State.putLine s l).dpend = s.dpend ∧ (State.putLine s l).me = s.me ∧
    (State.putLine s l).run = s.run ∧ (State.putLine s l).mem = s.mem ∧ (State.putLine s l).fab = s.fab ∧
    (State.putLine s l).sh = s.sh ∧ (State.putLine s l).grp = s.grp ∧ (State.putLine s l).fw = s.fw ∧ (State.putLine s l).tr = s.tr := ⟨rfl, rfl, rfl, rfl, rfl, rfl, rfl, rfl, rfl, rfl, rfl, rfl, rfl, rfl, rfl, rfl, rfl, rfl, rfl, rfl, rfl, rfl, rfl, rfl, rfl, rfl⟩

@[simp] theorem State.touchWay_keeps (s : State) (l : Line) :
    (State.touchWay s l).clk = s.clk ∧ (State.touchWay s l).env = s.env ∧ (State.touchWay s l).actor = s.actor ∧
    (State.touchWay s l).regs = s.regs ∧ (State.touchWay s l).ctl = s.ctl ∧ (State.touchWay s l).code = s.code ∧
    (State.touchWay s l).sx = s.sx ∧ (State.touchWay s l).trap = s.trap ∧ (State.touchWay s l).pend = s.pend ∧
    (State.touchWay s l).iss = s.iss ∧ (State.touchWay s l).cmp = s.cmp ∧ (State.touchWay s l).cv = s.cv ∧
    (State.touchWay s l).cm = s.cm ∧ (State.touchWay s l).cc = s.cc ∧ (State.touchWay s l).cx = s.cx ∧
    (State.touchWay s l).rs = s.rs ∧ (State.touchWay s l).dq = s.dq ∧ (State.touchWay s l).dpend = s.dpend ∧
    (State.touchWay s l).me = s.me ∧ (State.touchWay s l).run = s.run ∧ (State.touchWay s l).mem = s.mem ∧
    (State.touchWay s l).fab = s.fab ∧ (State.touchWay s l).sh = s.sh ∧ (State.touchWay s l).grp = s.grp ∧
    (State.touchWay s l).fw = s.fw ∧ (State.touchWay s l).tr = s.tr := by
  unfold State.touchWay
  (repeat' split) <;> exact ⟨rfl, rfl, rfl, rfl, rfl, rfl, rfl, rfl, rfl, rfl, rfl, rfl, rfl, rfl, rfl, rfl, rfl, rfl, rfl, rfl, rfl, rfl, rfl, rfl, rfl, rfl⟩

@[simp] theorem State.dropLines_keeps (s : State) (p : Line → Bool) :
    (State.dropLines s p).clk = s.clk ∧ (State.dropLines s p).env = s.env ∧ (State.dropLines s p).actor = s.actor ∧
    (State.dropLines s p).regs = s.regs ∧ (State.dropLines s p).ctl = s.ctl ∧ (State.dropLines s p).code = s.code ∧
    (State.dropLines s p).sx = s.sx ∧ (State.dropLines s p).trap = s.trap ∧ (State.dropLines s p).pend = s.pend ∧
    (State.dropLines s p).iss = s.iss ∧ (State.dropLines s p).cmp = s.cmp ∧ (State.dropLines s p).cv = s.cv ∧
    (State.dropLines s p).cm = s.cm ∧ (State.dropLines s p).cc = s.cc ∧ (State.dropLines s p).cx = s.cx ∧
    (State.dropLines s p).rs = s.rs ∧ (State.dropLines s p).dq = s.dq ∧ (State.dropLines s p).dpend = s.dpend ∧
    (State.dropLines s p).me = s.me ∧ (State.dropLines s p).run = s.run ∧ (State.dropLines s p).mem = s.mem ∧
    (State.dropLines s p).fab = s.fab ∧ (State.dropLines s p).sh = s.sh ∧ (State.dropLines s p).grp = s.grp ∧
    (State.dropLines s p).fw = s.fw ∧ (State.dropLines s p).tr = s.tr := ⟨rfl, rfl, rfl, rfl, rfl, rfl, rfl, rfl, rfl, rfl, rfl, rfl, rfl, rfl, rfl, rfl, rfl, rfl, rfl, rfl, rfl, rfl, rfl, rfl, rfl, rfl⟩

@[simp] theorem State.tick_keeps (s : State) :
    (State.tick s).clk = s.clk ∧ (State.tick s).env = s.env ∧ (State.tick s).actor = s.actor ∧ (State.tick s).regs = s.regs ∧
    (State.tick s).ctl = s.ctl ∧ (State.tick s).code = s.code ∧ (State.tick s).sx = s.sx ∧ (State.tick s).trap = s.trap ∧
    (State.tick s).pend = s.pend ∧ (State.tick s).iss = s.iss ∧ (State.tick s).cmp = s.cmp ∧ (State.tick s).cv = s.cv ∧
    (State.tick s).cm = s.cm ∧ (State.tick s).cc = s.cc ∧ (State.tick s).cx = s.cx ∧ (State.tick s).rs = s.rs ∧
    (State.tick s).dq = s.dq ∧ (State.tick s).dpend = s.dpend ∧ (State.tick s).me = s.me ∧ (State.tick s).run = s.run ∧
    (State.tick s).mem = s.mem ∧ (State.tick s).fab = s.fab ∧ (State.tick s).sh = s.sh ∧ (State.tick s).grp = s.grp ∧
    (State.tick s).fw = s.fw ∧ (State.tick s).tr = s.tr := ⟨rfl, rfl, rfl, rfl, rfl, rfl, rfl, rfl, rfl, rfl, rfl, rfl, rfl, rfl, rfl, rfl, rfl, rfl, rfl, rfl, rfl, rfl, rfl, rfl, rfl, rfl⟩

@[simp] theorem State.touch_keeps (s : State) (l : Line) :
    (State.touch s l).clk = s.clk ∧ (State.touch s l).env = s.env ∧ (State.touch s l).actor = s.actor ∧
    (State.touch s l).regs = s.regs ∧ (State.touch s l).ctl = s.ctl ∧ (State.touch s l).code = s.code ∧ (State.touch s l).sx = s.sx ∧
    (State.touch s l).trap = s.trap ∧ (State.touch s l).pend = s.pend ∧ (State.touch s l).iss = s.iss ∧
    (State.touch s l).cmp = s.cmp ∧ (State.touch s l).cv = s.cv ∧ (State.touch s l).cm = s.cm ∧ (State.touch s l).cc = s.cc ∧
    (State.touch s l).cx = s.cx ∧ (State.touch s l).rs = s.rs ∧ (State.touch s l).dq = s.dq ∧ (State.touch s l).dpend = s.dpend ∧
    (State.touch s l).me = s.me ∧ (State.touch s l).run = s.run ∧ (State.touch s l).mem = s.mem ∧ (State.touch s l).fab = s.fab ∧
    (State.touch s l).sh = s.sh ∧ (State.touch s l).grp = s.grp ∧ (State.touch s l).fw = s.fw ∧ (State.touch s l).tr = s.tr := ⟨rfl, rfl, rfl, rfl, rfl, rfl, rfl, rfl, rfl, rfl, rfl, rfl, rfl, rfl, rfl, rfl, rfl, rfl, rfl, rfl, rfl, rfl, rfl, rfl, rfl, rfl⟩

@[simp] theorem State.countLookup_keeps (s : State) (sl : Nat) (hit : Bool) :
    (State.countLookup s sl hit).clk = s.clk ∧ (State.countLookup s sl hit).env = s.env ∧
    (State.countLookup s sl hit).actor = s.actor ∧ (State.countLookup s sl hit).regs = s.regs ∧
    (State.countLookup s sl hit).ctl = s.ctl ∧ (State.countLookup s sl hit).code = s.code ∧ (State.countLookup s sl hit).sx = s.sx ∧
    (State.countLookup s sl hit).trap = s.trap ∧ (State.countLookup s sl hit).pend = s.pend ∧
    (State.countLookup s sl hit).iss = s.iss ∧ (State.countLookup s sl hit).cmp = s.cmp ∧ (State.countLookup s sl hit).cv = s.cv ∧
    (State.countLookup s sl hit).cm = s.cm ∧ (State.countLookup s sl hit).cc = s.cc ∧ (State.countLookup s sl hit).cx = s.cx ∧
    (State.countLookup s sl hit).rs = s.rs ∧ (State.countLookup s sl hit).dq = s.dq ∧ (State.countLookup s sl hit).dpend = s.dpend ∧
    (State.countLookup s sl hit).me = s.me ∧ (State.countLookup s sl hit).run = s.run ∧ (State.countLookup s sl hit).mem = s.mem ∧
    (State.countLookup s sl hit).fab = s.fab ∧ (State.countLookup s sl hit).sh = s.sh ∧ (State.countLookup s sl hit).grp = s.grp ∧
    (State.countLookup s sl hit).fw = s.fw ∧ (State.countLookup s sl hit).tr = s.tr := by
  unfold State.countLookup
  (repeat' split) <;> exact ⟨rfl, rfl, rfl, rfl, rfl, rfl, rfl, rfl, rfl, rfl, rfl, rfl, rfl, rfl, rfl, rfl, rfl, rfl, rfl, rfl, rfl, rfl, rfl, rfl, rfl, rfl⟩

@[simp] theorem State.putSig_keeps (s : State) (g : Sig) :
    (State.putSig s g).clk = s.clk ∧ (State.putSig s g).env = s.env ∧ (State.putSig s g).actor = s.actor ∧
    (State.putSig s g).regs = s.regs ∧ (State.putSig s g).ctl = s.ctl ∧ (State.putSig s g).code = s.code ∧
    (State.putSig s g).sx = s.sx ∧ (State.putSig s g).trap = s.trap ∧ (State.putSig s g).pend = s.pend ∧
    (State.putSig s g).iss = s.iss ∧ (State.putSig s g).cmp = s.cmp ∧ (State.putSig s g).cv = s.cv ∧ (State.putSig s g).cm = s.cm ∧
    (State.putSig s g).cc = s.cc ∧ (State.putSig s g).cx = s.cx ∧ (State.putSig s g).rs = s.rs ∧ (State.putSig s g).dq = s.dq ∧
    (State.putSig s g).dpend = s.dpend ∧ (State.putSig s g).me = s.me ∧ (State.putSig s g).run = s.run ∧
    (State.putSig s g).sram = s.sram ∧ (State.putSig s g).fab = s.fab ∧ (State.putSig s g).sh = s.sh ∧
    (State.putSig s g).grp = s.grp ∧ (State.putSig s g).fw = s.fw ∧ (State.putSig s g).tr = s.tr := by
  unfold State.putSig
  (try dsimp only)
  (repeat' split) <;> simp

@[simp] theorem State.park_keeps (s : State) (who : ParkWho) (port : Nat) :
    (State.park s who port).clk = s.clk ∧ (State.park s who port).env = s.env ∧ (State.park s who port).actor = s.actor ∧
    (State.park s who port).regs = s.regs ∧ (State.park s who port).ctl = s.ctl ∧ (State.park s who port).code = s.code ∧
    (State.park s who port).sx = s.sx ∧ (State.park s who port).trap = s.trap ∧ (State.park s who port).pend = s.pend ∧
    (State.park s who port).iss = s.iss ∧ (State.park s who port).cmp = s.cmp ∧ (State.park s who port).cv = s.cv ∧
    (State.park s who port).cm = s.cm ∧ (State.park s who port).cc = s.cc ∧ (State.park s who port).cx = s.cx ∧
    (State.park s who port).rs = s.rs ∧ (State.park s who port).dq = s.dq ∧ (State.park s who port).dpend = s.dpend ∧
    (State.park s who port).me = s.me ∧ (State.park s who port).run = s.run ∧ (State.park s who port).sram = s.sram ∧
    (State.park s who port).fab = s.fab ∧ (State.park s who port).sh = s.sh ∧ (State.park s who port).grp = s.grp ∧
    (State.park s who port).fw = s.fw ∧ (State.park s who port).tr = s.tr := ⟨rfl, rfl, rfl, rfl, rfl, rfl, rfl, rfl, rfl, rfl, rfl, rfl, rfl, rfl, rfl, rfl, rfl, rfl, rfl, rfl, rfl, rfl, rfl, rfl, rfl, rfl⟩

@[simp] theorem State.nextSeq_keeps (s : State) :
    (State.nextSeq s).clk = s.clk ∧ (State.nextSeq s).env = s.env ∧ (State.nextSeq s).actor = s.actor ∧
    (State.nextSeq s).regs = s.regs ∧ (State.nextSeq s).ctl = s.ctl ∧ (State.nextSeq s).code = s.code ∧
    (State.nextSeq s).trap = s.trap ∧ (State.nextSeq s).pend = s.pend ∧ (State.nextSeq s).iss = s.iss ∧
    (State.nextSeq s).cmp = s.cmp ∧ (State.nextSeq s).cv = s.cv ∧ (State.nextSeq s).cm = s.cm ∧ (State.nextSeq s).cc = s.cc ∧
    (State.nextSeq s).cx = s.cx ∧ (State.nextSeq s).rs = s.rs ∧ (State.nextSeq s).dq = s.dq ∧ (State.nextSeq s).dpend = s.dpend ∧
    (State.nextSeq s).me = s.me ∧ (State.nextSeq s).run = s.run ∧ (State.nextSeq s).sram = s.sram ∧ (State.nextSeq s).mem = s.mem ∧
    (State.nextSeq s).fab = s.fab ∧ (State.nextSeq s).sh = s.sh ∧ (State.nextSeq s).grp = s.grp ∧ (State.nextSeq s).fw = s.fw ∧
    (State.nextSeq s).tr = s.tr := ⟨rfl, rfl, rfl, rfl, rfl, rfl, rfl, rfl, rfl, rfl, rfl, rfl, rfl, rfl, rfl, rfl, rfl, rfl, rfl, rfl, rfl, rfl, rfl, rfl, rfl, rfl⟩

@[simp] theorem State.drainLine_keeps (s : State) (l : CombLine) :
    (State.drainLine s l).clk = s.clk ∧ (State.drainLine s l).actor = s.actor ∧ (State.drainLine s l).regs = s.regs ∧
    (State.drainLine s l).ctl = s.ctl ∧ (State.drainLine s l).code = s.code ∧ (State.drainLine s l).pend = s.pend ∧
    (State.drainLine s l).iss = s.iss ∧ (State.drainLine s l).cmp = s.cmp ∧ (State.drainLine s l).cx = s.cx ∧
    (State.drainLine s l).rs = s.rs ∧ (State.drainLine s l).dq = s.dq ∧ (State.drainLine s l).dpend = s.dpend ∧
    (State.drainLine s l).me = s.me ∧ (State.drainLine s l).sram = s.sram ∧ (State.drainLine s l).fab = s.fab ∧
    (State.drainLine s l).sh = s.sh ∧ (State.drainLine s l).grp = s.grp ∧ (State.drainLine s l).fw = s.fw ∧
    (State.drainLine s l).tr = s.tr := by
  unfold State.drainLine
  (try dsimp only)
  (repeat' split) <;> simp

@[simp] theorem State.postLoad_keeps (s : State) (dst size : Nat) (signed : Bool) (cls : Nat) (k : Cap) (o : Nat) (park : Option Nat) :
    (State.postLoad s dst size signed cls k o park).clk = s.clk ∧ (State.postLoad s dst size signed cls k o park).actor = s.actor ∧
    (State.postLoad s dst size signed cls k o park).regs = s.regs ∧ (State.postLoad s dst size signed cls k o park).ctl = s.ctl ∧
    (State.postLoad s dst size signed cls k o park).code = s.code ∧ (State.postLoad s dst size signed cls k o park).trap = s.trap ∧
    (State.postLoad s dst size signed cls k o park).pend = s.pend ∧ (State.postLoad s dst size signed cls k o park).iss = s.iss ∧
    (State.postLoad s dst size signed cls k o park).cmp = s.cmp ∧ (State.postLoad s dst size signed cls k o park).cv = s.cv ∧
    (State.postLoad s dst size signed cls k o park).cm = s.cm ∧ (State.postLoad s dst size signed cls k o park).cc = s.cc ∧
    (State.postLoad s dst size signed cls k o park).cx = s.cx ∧ (State.postLoad s dst size signed cls k o park).rs = s.rs ∧
    (State.postLoad s dst size signed cls k o park).dq = s.dq ∧ (State.postLoad s dst size signed cls k o park).dpend = s.dpend ∧
    (State.postLoad s dst size signed cls k o park).me = s.me ∧ (State.postLoad s dst size signed cls k o park).run = s.run ∧
    (State.postLoad s dst size signed cls k o park).fab = s.fab ∧ (State.postLoad s dst size signed cls k o park).sh = s.sh ∧
    (State.postLoad s dst size signed cls k o park).grp = s.grp ∧ (State.postLoad s dst size signed cls k o park).fw = s.fw ∧
    (State.postLoad s dst size signed cls k o park).tr = s.tr := by
  unfold State.postLoad
  (try dsimp only)
  (repeat' split) <;> simp

@[simp] theorem State.timedLoad_keeps (s : State) (dst size : Nat) (signed : Bool) (k : Cap) (o : Int) (need : Nat) :
    (State.timedLoad s dst size signed k o need).clk = s.clk ∧ (State.timedLoad s dst size signed k o need).env = s.env ∧
    (State.timedLoad s dst size signed k o need).actor = s.actor ∧ (State.timedLoad s dst size signed k o need).regs = s.regs ∧
    (State.timedLoad s dst size signed k o need).code = s.code ∧ (State.timedLoad s dst size signed k o need).sx = s.sx ∧
    (State.timedLoad s dst size signed k o need).trap = s.trap ∧ (State.timedLoad s dst size signed k o need).iss = s.iss ∧
    (State.timedLoad s dst size signed k o need).cmp = s.cmp ∧ (State.timedLoad s dst size signed k o need).cv = s.cv ∧
    (State.timedLoad s dst size signed k o need).cm = s.cm ∧ (State.timedLoad s dst size signed k o need).cc = s.cc ∧
    (State.timedLoad s dst size signed k o need).cx = s.cx ∧ (State.timedLoad s dst size signed k o need).rs = s.rs ∧
    (State.timedLoad s dst size signed k o need).dq = s.dq ∧ (State.timedLoad s dst size signed k o need).dpend = s.dpend ∧
    (State.timedLoad s dst size signed k o need).me = s.me ∧ (State.timedLoad s dst size signed k o need).run = s.run ∧
    (State.timedLoad s dst size signed k o need).mem = s.mem ∧ (State.timedLoad s dst size signed k o need).fab = s.fab ∧
    (State.timedLoad s dst size signed k o need).sh = s.sh ∧ (State.timedLoad s dst size signed k o need).grp = s.grp ∧
    (State.timedLoad s dst size signed k o need).fw = s.fw ∧ (State.timedLoad s dst size signed k o need).tr = s.tr := by
  unfold State.timedLoad
  (repeat' split) <;> exact ⟨rfl, rfl, rfl, rfl, rfl, rfl, rfl, rfl, rfl, rfl, rfl, rfl, rfl, rfl, rfl, rfl, rfl, rfl, rfl, rfl, rfl, rfl, rfl, rfl⟩

@[simp] theorem State.retry_keeps (s : State) :
    (State.retry s).clk = s.clk ∧ (State.retry s).env = s.env ∧ (State.retry s).actor = s.actor ∧ (State.retry s).regs = s.regs ∧
    (State.retry s).ctl = s.ctl ∧ (State.retry s).code = s.code ∧ (State.retry s).trap = s.trap ∧ (State.retry s).pend = s.pend ∧
    (State.retry s).iss = s.iss ∧ (State.retry s).cmp = s.cmp ∧ (State.retry s).cv = s.cv ∧ (State.retry s).cm = s.cm ∧
    (State.retry s).cc = s.cc ∧ (State.retry s).cx = s.cx ∧ (State.retry s).rs = s.rs ∧ (State.retry s).dq = s.dq ∧
    (State.retry s).dpend = s.dpend ∧ (State.retry s).me = s.me ∧ (State.retry s).run = s.run ∧ (State.retry s).sram = s.sram ∧
    (State.retry s).mem = s.mem ∧ (State.retry s).fab = s.fab ∧ (State.retry s).sh = s.sh ∧ (State.retry s).grp = s.grp ∧
    (State.retry s).fw = s.fw ∧ (State.retry s).tr = s.tr := ⟨rfl, rfl, rfl, rfl, rfl, rfl, rfl, rfl, rfl, rfl, rfl, rfl, rfl, rfl, rfl, rfl, rfl, rfl, rfl, rfl, rfl, rfl, rfl, rfl, rfl, rfl⟩

@[simp] theorem State.postStore_keeps (s : State) (bytes : List Byte) (cls : Nat) (k : Cap) (o : Nat) (loose plain : Bool) (park : Option Nat) :
    (State.postStore s bytes cls k o loose plain park).clk = s.clk ∧
    (State.postStore s bytes cls k o loose plain park).actor = s.actor ∧
    (State.postStore s bytes cls k o loose plain park).regs = s.regs ∧
    (State.postStore s bytes cls k o loose plain park).ctl = s.ctl ∧
    (State.postStore s bytes cls k o loose plain park).code = s.code ∧
    (State.postStore s bytes cls k o loose plain park).trap = s.trap ∧
    (State.postStore s bytes cls k o loose plain park).pend = s.pend ∧
    (State.postStore s bytes cls k o loose plain park).iss = s.iss ∧ (State.postStore s bytes cls k o loose plain park).cmp = s.cmp ∧
    (State.postStore s bytes cls k o loose plain park).cv = s.cv ∧ (State.postStore s bytes cls k o loose plain park).cm = s.cm ∧
    (State.postStore s bytes cls k o loose plain park).cc = s.cc ∧ (State.postStore s bytes cls k o loose plain park).cx = s.cx ∧
    (State.postStore s bytes cls k o loose plain park).rs = s.rs ∧ (State.postStore s bytes cls k o loose plain park).dq = s.dq ∧
    (State.postStore s bytes cls k o loose plain park).dpend = s.dpend ∧
    (State.postStore s bytes cls k o loose plain park).me = s.me ∧ (State.postStore s bytes cls k o loose plain park).run = s.run ∧
    (State.postStore s bytes cls k o loose plain park).sram = s.sram ∧
    (State.postStore s bytes cls k o loose plain park).fab = s.fab ∧ (State.postStore s bytes cls k o loose plain park).sh = s.sh ∧
    (State.postStore s bytes cls k o loose plain park).grp = s.grp ∧ (State.postStore s bytes cls k o loose plain park).fw = s.fw ∧
    (State.postStore s bytes cls k o loose plain park).tr = s.tr := by
  unfold State.postStore
  (repeat' split) <;> exact ⟨rfl, rfl, rfl, rfl, rfl, rfl, rfl, rfl, rfl, rfl, rfl, rfl, rfl, rfl, rfl, rfl, rfl, rfl, rfl, rfl, rfl, rfl, rfl, rfl⟩

@[simp] theorem State.serve_keeps (s : State) (b num : Nat) :
    (State.serve s b num).clk = s.clk ∧ (State.serve s b num).env = s.env ∧ (State.serve s b num).actor = s.actor ∧
    (State.serve s b num).regs = s.regs ∧ (State.serve s b num).ctl = s.ctl ∧ (State.serve s b num).code = s.code ∧
    (State.serve s b num).sx = s.sx ∧ (State.serve s b num).trap = s.trap ∧ (State.serve s b num).pend = s.pend ∧
    (State.serve s b num).iss = s.iss ∧ (State.serve s b num).cmp = s.cmp ∧ (State.serve s b num).cv = s.cv ∧
    (State.serve s b num).cm = s.cm ∧ (State.serve s b num).cc = s.cc ∧ (State.serve s b num).cx = s.cx ∧
    (State.serve s b num).rs = s.rs ∧ (State.serve s b num).dq = s.dq ∧ (State.serve s b num).dpend = s.dpend ∧
    (State.serve s b num).me = s.me ∧ (State.serve s b num).run = s.run ∧ (State.serve s b num).mem = s.mem ∧
    (State.serve s b num).fab = s.fab ∧ (State.serve s b num).sh = s.sh ∧ (State.serve s b num).grp = s.grp ∧
    (State.serve s b num).fw = s.fw ∧ (State.serve s b num).tr = s.tr := ⟨rfl, rfl, rfl, rfl, rfl, rfl, rfl, rfl, rfl, rfl, rfl, rfl, rfl, rfl, rfl, rfl, rfl, rfl, rfl, rfl, rfl, rfl, rfl, rfl, rfl, rfl⟩

@[simp] theorem State.combine_keeps (s : State) (cls : Nat) (k : Cap) (o : Nat) (b : List Byte) :
    (State.combine s cls k o b).clk = s.clk ∧ (State.combine s cls k o b).actor = s.actor ∧
    (State.combine s cls k o b).regs = s.regs ∧ (State.combine s cls k o b).ctl = s.ctl ∧ (State.combine s cls k o b).code = s.code ∧
    (State.combine s cls k o b).pend = s.pend ∧ (State.combine s cls k o b).iss = s.iss ∧ (State.combine s cls k o b).cmp = s.cmp ∧
    (State.combine s cls k o b).cx = s.cx ∧ (State.combine s cls k o b).rs = s.rs ∧ (State.combine s cls k o b).dq = s.dq ∧
    (State.combine s cls k o b).dpend = s.dpend ∧ (State.combine s cls k o b).me = s.me ∧ (State.combine s cls k o b).sram = s.sram ∧
    (State.combine s cls k o b).fab = s.fab ∧ (State.combine s cls k o b).sh = s.sh ∧ (State.combine s cls k o b).grp = s.grp ∧
    (State.combine s cls k o b).fw = s.fw ∧ (State.combine s cls k o b).tr = s.tr := by
  unfold State.combine
  (try dsimp only)
  (repeat' split) <;> simp

@[simp] theorem State.refused_keeps (s : State) (code : Nat) (k : Cap) (o : Nat) :
    (State.refused s code k o).clk = s.clk ∧ (State.refused s code k o).env = s.env ∧ (State.refused s code k o).actor = s.actor ∧
    (State.refused s code k o).regs = s.regs ∧ (State.refused s code k o).ctl = s.ctl ∧ (State.refused s code k o).code = s.code ∧
    (State.refused s code k o).pend = s.pend ∧ (State.refused s code k o).iss = s.iss ∧ (State.refused s code k o).cmp = s.cmp ∧
    (State.refused s code k o).cx = s.cx ∧ (State.refused s code k o).rs = s.rs ∧ (State.refused s code k o).dq = s.dq ∧
    (State.refused s code k o).dpend = s.dpend ∧ (State.refused s code k o).me = s.me ∧ (State.refused s code k o).sram = s.sram ∧
    (State.refused s code k o).mem = s.mem ∧ (State.refused s code k o).fab = s.fab ∧ (State.refused s code k o).sh = s.sh ∧
    (State.refused s code k o).grp = s.grp ∧ (State.refused s code k o).fw = s.fw ∧ (State.refused s code k o).tr = s.tr := by simp [State.refused]

@[simp] theorem State.dropLoad_keeps (s : State) (n : Nat) :
    (State.dropLoad s n).clk = s.clk ∧ (State.dropLoad s n).env = s.env ∧ (State.dropLoad s n).actor = s.actor ∧
    (State.dropLoad s n).regs = s.regs ∧ (State.dropLoad s n).ctl = s.ctl ∧ (State.dropLoad s n).code = s.code ∧
    (State.dropLoad s n).trap = s.trap ∧ (State.dropLoad s n).pend = s.pend ∧ (State.dropLoad s n).iss = s.iss ∧
    (State.dropLoad s n).cmp = s.cmp ∧ (State.dropLoad s n).cv = s.cv ∧ (State.dropLoad s n).cm = s.cm ∧
    (State.dropLoad s n).cc = s.cc ∧ (State.dropLoad s n).cx = s.cx ∧ (State.dropLoad s n).rs = s.rs ∧
    (State.dropLoad s n).dq = s.dq ∧ (State.dropLoad s n).dpend = s.dpend ∧ (State.dropLoad s n).me = s.me ∧
    (State.dropLoad s n).run = s.run ∧ (State.dropLoad s n).sram = s.sram ∧ (State.dropLoad s n).mem = s.mem ∧
    (State.dropLoad s n).fab = s.fab ∧ (State.dropLoad s n).sh = s.sh ∧ (State.dropLoad s n).grp = s.grp ∧
    (State.dropLoad s n).fw = s.fw ∧ (State.dropLoad s n).tr = s.tr := ⟨rfl, rfl, rfl, rfl, rfl, rfl, rfl, rfl, rfl, rfl, rfl, rfl, rfl, rfl, rfl, rfl, rfl, rfl, rfl, rfl, rfl, rfl, rfl, rfl, rfl, rfl⟩

@[simp] theorem State.dropStore_keeps (s : State) (n : Nat) :
    (State.dropStore s n).clk = s.clk ∧ (State.dropStore s n).env = s.env ∧ (State.dropStore s n).actor = s.actor ∧
    (State.dropStore s n).regs = s.regs ∧ (State.dropStore s n).ctl = s.ctl ∧ (State.dropStore s n).code = s.code ∧
    (State.dropStore s n).trap = s.trap ∧ (State.dropStore s n).pend = s.pend ∧ (State.dropStore s n).iss = s.iss ∧
    (State.dropStore s n).cmp = s.cmp ∧ (State.dropStore s n).cv = s.cv ∧ (State.dropStore s n).cm = s.cm ∧
    (State.dropStore s n).cc = s.cc ∧ (State.dropStore s n).cx = s.cx ∧ (State.dropStore s n).rs = s.rs ∧
    (State.dropStore s n).dq = s.dq ∧ (State.dropStore s n).dpend = s.dpend ∧ (State.dropStore s n).me = s.me ∧
    (State.dropStore s n).run = s.run ∧ (State.dropStore s n).sram = s.sram ∧ (State.dropStore s n).mem = s.mem ∧
    (State.dropStore s n).fab = s.fab ∧ (State.dropStore s n).sh = s.sh ∧ (State.dropStore s n).grp = s.grp ∧
    (State.dropStore s n).fw = s.fw ∧ (State.dropStore s n).tr = s.tr := ⟨rfl, rfl, rfl, rfl, rfl, rfl, rfl, rfl, rfl, rfl, rfl, rfl, rfl, rfl, rfl, rfl, rfl, rfl, rfl, rfl, rfl, rfl, rfl, rfl, rfl, rfl⟩

@[simp] theorem State.serveLoad_keeps (s : State) (l : LoadRec) (a : Nat) :
    (State.serveLoad s l a).clk = s.clk ∧ (State.serveLoad s l a).env = s.env ∧ (State.serveLoad s l a).actor = s.actor ∧
    (State.serveLoad s l a).regs = s.regs ∧ (State.serveLoad s l a).ctl = s.ctl ∧ (State.serveLoad s l a).code = s.code ∧
    (State.serveLoad s l a).pend = s.pend ∧ (State.serveLoad s l a).iss = s.iss ∧ (State.serveLoad s l a).cmp = s.cmp ∧
    (State.serveLoad s l a).cx = s.cx ∧ (State.serveLoad s l a).rs = s.rs ∧ (State.serveLoad s l a).dq = s.dq ∧
    (State.serveLoad s l a).dpend = s.dpend ∧ (State.serveLoad s l a).me = s.me ∧ (State.serveLoad s l a).sram = s.sram ∧
    (State.serveLoad s l a).mem = s.mem ∧ (State.serveLoad s l a).fab = s.fab ∧ (State.serveLoad s l a).sh = s.sh ∧
    (State.serveLoad s l a).grp = s.grp ∧ (State.serveLoad s l a).fw = s.fw ∧ (State.serveLoad s l a).tr = s.tr := by
  unfold State.serveLoad
  (try dsimp only)
  (repeat' split) <;> simp

@[simp] theorem State.serveStore_keeps (s : State) (r : StoreRec) (a : Nat) :
    (State.serveStore s r a).clk = s.clk ∧ (State.serveStore s r a).env = s.env ∧ (State.serveStore s r a).actor = s.actor ∧
    (State.serveStore s r a).regs = s.regs ∧ (State.serveStore s r a).ctl = s.ctl ∧ (State.serveStore s r a).code = s.code ∧
    (State.serveStore s r a).pend = s.pend ∧ (State.serveStore s r a).iss = s.iss ∧ (State.serveStore s r a).cmp = s.cmp ∧
    (State.serveStore s r a).cx = s.cx ∧ (State.serveStore s r a).rs = s.rs ∧ (State.serveStore s r a).dq = s.dq ∧
    (State.serveStore s r a).dpend = s.dpend ∧ (State.serveStore s r a).me = s.me ∧ (State.serveStore s r a).sram = s.sram ∧
    (State.serveStore s r a).mem = s.mem ∧ (State.serveStore s r a).fab = s.fab ∧ (State.serveStore s r a).sh = s.sh ∧
    (State.serveStore s r a).grp = s.grp ∧ (State.serveStore s r a).fw = s.fw ∧ (State.serveStore s r a).tr = s.tr := by
  unfold State.serveStore
  (try dsimp only)
  (repeat' split) <;> simp

@[simp] theorem State.serveBlk_keeps (s : State) :
    (State.serveBlk s).clk = s.clk ∧ (State.serveBlk s).env = s.env ∧ (State.serveBlk s).actor = s.actor ∧
    (State.serveBlk s).regs = s.regs ∧ (State.serveBlk s).ctl = s.ctl ∧ (State.serveBlk s).code = s.code ∧
    (State.serveBlk s).trap = s.trap ∧ (State.serveBlk s).pend = s.pend ∧ (State.serveBlk s).iss = s.iss ∧
    (State.serveBlk s).cmp = s.cmp ∧ (State.serveBlk s).cv = s.cv ∧ (State.serveBlk s).cm = s.cm ∧ (State.serveBlk s).cc = s.cc ∧
    (State.serveBlk s).cx = s.cx ∧ (State.serveBlk s).rs = s.rs ∧ (State.serveBlk s).dq = s.dq ∧ (State.serveBlk s).dpend = s.dpend ∧
    (State.serveBlk s).me = s.me ∧ (State.serveBlk s).run = s.run ∧ (State.serveBlk s).sram = s.sram ∧
    (State.serveBlk s).mem = s.mem ∧ (State.serveBlk s).fab = s.fab ∧ (State.serveBlk s).sh = s.sh ∧ (State.serveBlk s).grp = s.grp ∧
    (State.serveBlk s).fw = s.fw ∧ (State.serveBlk s).tr = s.tr := ⟨rfl, rfl, rfl, rfl, rfl, rfl, rfl, rfl, rfl, rfl, rfl, rfl, rfl, rfl, rfl, rfl, rfl, rfl, rfl, rfl, rfl, rfl, rfl, rfl, rfl, rfl⟩

@[simp] theorem State.sigTurn_keeps (s : State) :
    (State.sigTurn s).clk = s.clk ∧ (State.sigTurn s).env = s.env ∧ (State.sigTurn s).actor = s.actor ∧
    (State.sigTurn s).regs = s.regs ∧ (State.sigTurn s).ctl = s.ctl ∧ (State.sigTurn s).code = s.code ∧
    (State.sigTurn s).trap = s.trap ∧ (State.sigTurn s).pend = s.pend ∧ (State.sigTurn s).iss = s.iss ∧ (State.sigTurn s).cv = s.cv ∧
    (State.sigTurn s).cm = s.cm ∧ (State.sigTurn s).cc = s.cc ∧ (State.sigTurn s).cx = s.cx ∧ (State.sigTurn s).rs = s.rs ∧
    (State.sigTurn s).dq = s.dq ∧ (State.sigTurn s).dpend = s.dpend ∧ (State.sigTurn s).me = s.me ∧ (State.sigTurn s).run = s.run ∧
    (State.sigTurn s).sram = s.sram ∧ (State.sigTurn s).mem = s.mem ∧ (State.sigTurn s).fab = s.fab ∧ (State.sigTurn s).sh = s.sh ∧
    (State.sigTurn s).grp = s.grp ∧ (State.sigTurn s).fw = s.fw ∧ (State.sigTurn s).tr = s.tr := by
  unfold State.sigTurn
  (repeat' split) <;> exact ⟨rfl, rfl, rfl, rfl, rfl, rfl, rfl, rfl, rfl, rfl, rfl, rfl, rfl, rfl, rfl, rfl, rfl, rfl, rfl, rfl, rfl, rfl, rfl, rfl, rfl⟩

@[simp] theorem State.setParked_keeps (s : State) (p : Parked) (q : Option Parked) :
    (State.setParked s p q).clk = s.clk ∧ (State.setParked s p q).env = s.env ∧ (State.setParked s p q).actor = s.actor ∧
    (State.setParked s p q).regs = s.regs ∧ (State.setParked s p q).ctl = s.ctl ∧ (State.setParked s p q).code = s.code ∧
    (State.setParked s p q).sx = s.sx ∧ (State.setParked s p q).trap = s.trap ∧ (State.setParked s p q).pend = s.pend ∧
    (State.setParked s p q).iss = s.iss ∧ (State.setParked s p q).cmp = s.cmp ∧ (State.setParked s p q).cv = s.cv ∧
    (State.setParked s p q).cm = s.cm ∧ (State.setParked s p q).cc = s.cc ∧ (State.setParked s p q).cx = s.cx ∧
    (State.setParked s p q).rs = s.rs ∧ (State.setParked s p q).dq = s.dq ∧ (State.setParked s p q).dpend = s.dpend ∧
    (State.setParked s p q).me = s.me ∧ (State.setParked s p q).run = s.run ∧ (State.setParked s p q).sram = s.sram ∧
    (State.setParked s p q).fab = s.fab ∧ (State.setParked s p q).sh = s.sh ∧ (State.setParked s p q).grp = s.grp ∧
    (State.setParked s p q).fw = s.fw ∧ (State.setParked s p q).tr = s.tr := ⟨rfl, rfl, rfl, rfl, rfl, rfl, rfl, rfl, rfl, rfl, rfl, rfl, rfl, rfl, rfl, rfl, rfl, rfl, rfl, rfl, rfl, rfl, rfl, rfl, rfl, rfl⟩

@[simp] theorem State.unpark_keeps (s : State) (w : ParkWho) :
    (State.unpark s w).clk = s.clk ∧ (State.unpark s w).env = s.env ∧ (State.unpark s w).actor = s.actor ∧
    (State.unpark s w).regs = s.regs ∧ (State.unpark s w).ctl = s.ctl ∧ (State.unpark s w).code = s.code ∧
    (State.unpark s w).sx = s.sx ∧ (State.unpark s w).trap = s.trap ∧ (State.unpark s w).pend = s.pend ∧
    (State.unpark s w).iss = s.iss ∧ (State.unpark s w).cmp = s.cmp ∧ (State.unpark s w).cv = s.cv ∧ (State.unpark s w).cm = s.cm ∧
    (State.unpark s w).cc = s.cc ∧ (State.unpark s w).cx = s.cx ∧ (State.unpark s w).rs = s.rs ∧ (State.unpark s w).dq = s.dq ∧
    (State.unpark s w).dpend = s.dpend ∧ (State.unpark s w).me = s.me ∧ (State.unpark s w).run = s.run ∧
    (State.unpark s w).sram = s.sram ∧ (State.unpark s w).fab = s.fab ∧ (State.unpark s w).sh = s.sh ∧
    (State.unpark s w).grp = s.grp ∧ (State.unpark s w).fw = s.fw ∧ (State.unpark s w).tr = s.tr := ⟨rfl, rfl, rfl, rfl, rfl, rfl, rfl, rfl, rfl, rfl, rfl, rfl, rfl, rfl, rfl, rfl, rfl, rfl, rfl, rfl, rfl, rfl, rfl, rfl, rfl, rfl⟩

@[simp] theorem State.retryOther_keeps (s : State) (p : Parked) (c : Chk) :
    (State.retryOther s p c).clk = s.clk ∧ (State.retryOther s p c).env = s.env ∧ (State.retryOther s p c).actor = s.actor ∧
    (State.retryOther s p c).regs = s.regs ∧ (State.retryOther s p c).ctl = s.ctl ∧ (State.retryOther s p c).code = s.code ∧
    (State.retryOther s p c).sx = s.sx ∧ (State.retryOther s p c).trap = s.trap ∧ (State.retryOther s p c).pend = s.pend ∧
    (State.retryOther s p c).iss = s.iss ∧ (State.retryOther s p c).cmp = s.cmp ∧ (State.retryOther s p c).cv = s.cv ∧
    (State.retryOther s p c).cm = s.cm ∧ (State.retryOther s p c).cc = s.cc ∧ (State.retryOther s p c).cx = s.cx ∧
    (State.retryOther s p c).rs = s.rs ∧ (State.retryOther s p c).dq = s.dq ∧ (State.retryOther s p c).dpend = s.dpend ∧
    (State.retryOther s p c).me = s.me ∧ (State.retryOther s p c).run = s.run ∧ (State.retryOther s p c).sram = s.sram ∧
    (State.retryOther s p c).fab = s.fab ∧ (State.retryOther s p c).sh = s.sh ∧ (State.retryOther s p c).grp = s.grp ∧
    (State.retryOther s p c).fw = s.fw ∧ (State.retryOther s p c).tr = s.tr := by
  unfold State.retryOther
  (repeat' split) <;> exact ⟨rfl, rfl, rfl, rfl, rfl, rfl, rfl, rfl, rfl, rfl, rfl, rfl, rfl, rfl, rfl, rfl, rfl, rfl, rfl, rfl, rfl, rfl, rfl, rfl, rfl, rfl⟩

@[simp] theorem State.setView_keeps (s : State) (w : Nat) (v : View) :
    (State.setView s w v).clk = s.clk ∧ (State.setView s w v).env = s.env ∧ (State.setView s w v).actor = s.actor ∧
    (State.setView s w v).regs = s.regs ∧ (State.setView s w v).ctl = s.ctl ∧ (State.setView s w v).code = s.code ∧
    (State.setView s w v).sx = s.sx ∧ (State.setView s w v).trap = s.trap ∧ (State.setView s w v).pend = s.pend ∧
    (State.setView s w v).iss = s.iss ∧ (State.setView s w v).cmp = s.cmp ∧ (State.setView s w v).cv = s.cv ∧
    (State.setView s w v).cm = s.cm ∧ (State.setView s w v).cc = s.cc ∧ (State.setView s w v).cx = s.cx ∧
    (State.setView s w v).dq = s.dq ∧ (State.setView s w v).dpend = s.dpend ∧ (State.setView s w v).me = s.me ∧
    (State.setView s w v).run = s.run ∧ (State.setView s w v).sram = s.sram ∧ (State.setView s w v).mem = s.mem ∧
    (State.setView s w v).fab = s.fab ∧ (State.setView s w v).sh = s.sh ∧ (State.setView s w v).grp = s.grp ∧
    (State.setView s w v).fw = s.fw ∧ (State.setView s w v).tr = s.tr := ⟨rfl, rfl, rfl, rfl, rfl, rfl, rfl, rfl, rfl, rfl, rfl, rfl, rfl, rfl, rfl, rfl, rfl, rfl, rfl, rfl, rfl, rfl, rfl, rfl, rfl, rfl⟩

@[simp] theorem State.rotate_keeps (s : State) :
    (State.rotate s).clk = s.clk ∧ (State.rotate s).env = s.env ∧ (State.rotate s).actor = s.actor ∧ (State.rotate s).regs = s.regs ∧
    (State.rotate s).ctl = s.ctl ∧ (State.rotate s).code = s.code ∧ (State.rotate s).sx = s.sx ∧ (State.rotate s).trap = s.trap ∧
    (State.rotate s).pend = s.pend ∧ (State.rotate s).iss = s.iss ∧ (State.rotate s).cmp = s.cmp ∧ (State.rotate s).cv = s.cv ∧
    (State.rotate s).cm = s.cm ∧ (State.rotate s).cc = s.cc ∧ (State.rotate s).cx = s.cx ∧ (State.rotate s).dq = s.dq ∧
    (State.rotate s).dpend = s.dpend ∧ (State.rotate s).me = s.me ∧ (State.rotate s).run = s.run ∧ (State.rotate s).sram = s.sram ∧
    (State.rotate s).mem = s.mem ∧ (State.rotate s).fab = s.fab ∧ (State.rotate s).sh = s.sh ∧ (State.rotate s).grp = s.grp ∧
    (State.rotate s).fw = s.fw ∧ (State.rotate s).tr = s.tr := by simp [State.rotate]

@[simp] theorem State.regmode1_keeps (s : State) (v n : Nat) :
    (State.regmode1 s v n).clk = s.clk ∧ (State.regmode1 s v n).env = s.env ∧ (State.regmode1 s v n).actor = s.actor ∧
    (State.regmode1 s v n).regs = s.regs ∧ (State.regmode1 s v n).ctl = s.ctl ∧ (State.regmode1 s v n).code = s.code ∧
    (State.regmode1 s v n).sx = s.sx ∧ (State.regmode1 s v n).trap = s.trap ∧ (State.regmode1 s v n).iss = s.iss ∧
    (State.regmode1 s v n).cmp = s.cmp ∧ (State.regmode1 s v n).cv = s.cv ∧ (State.regmode1 s v n).cm = s.cm ∧
    (State.regmode1 s v n).cc = s.cc ∧ (State.regmode1 s v n).cx = s.cx ∧ (State.regmode1 s v n).rs = s.rs ∧
    (State.regmode1 s v n).dq = s.dq ∧ (State.regmode1 s v n).dpend = s.dpend ∧ (State.regmode1 s v n).me = s.me ∧
    (State.regmode1 s v n).run = s.run ∧ (State.regmode1 s v n).sram = s.sram ∧ (State.regmode1 s v n).mem = s.mem ∧
    (State.regmode1 s v n).fab = s.fab ∧ (State.regmode1 s v n).sh = s.sh ∧ (State.regmode1 s v n).grp = s.grp ∧
    (State.regmode1 s v n).fw = s.fw ∧ (State.regmode1 s v n).tr = s.tr := by
  unfold State.regmode1
  (try dsimp only)
  (repeat' split) <;> simp

@[simp] theorem State.setAgen_keeps (s : State) (n : Nat) (g : AGen) :
    (State.setAgen s n g).clk = s.clk ∧ (State.setAgen s n g).env = s.env ∧ (State.setAgen s n g).actor = s.actor ∧
    (State.setAgen s n g).regs = s.regs ∧ (State.setAgen s n g).ctl = s.ctl ∧ (State.setAgen s n g).code = s.code ∧
    (State.setAgen s n g).sx = s.sx ∧ (State.setAgen s n g).trap = s.trap ∧ (State.setAgen s n g).pend = s.pend ∧
    (State.setAgen s n g).iss = s.iss ∧ (State.setAgen s n g).cmp = s.cmp ∧ (State.setAgen s n g).cv = s.cv ∧
    (State.setAgen s n g).cm = s.cm ∧ (State.setAgen s n g).cc = s.cc ∧ (State.setAgen s n g).cx = s.cx ∧
    (State.setAgen s n g).dq = s.dq ∧ (State.setAgen s n g).dpend = s.dpend ∧ (State.setAgen s n g).me = s.me ∧
    (State.setAgen s n g).run = s.run ∧ (State.setAgen s n g).sram = s.sram ∧ (State.setAgen s n g).mem = s.mem ∧
    (State.setAgen s n g).fab = s.fab ∧ (State.setAgen s n g).sh = s.sh ∧ (State.setAgen s n g).grp = s.grp ∧
    (State.setAgen s n g).fw = s.fw ∧ (State.setAgen s n g).tr = s.tr := ⟨rfl, rfl, rfl, rfl, rfl, rfl, rfl, rfl, rfl, rfl, rfl, rfl, rfl, rfl, rfl, rfl, rfl, rfl, rfl, rfl, rfl, rfl, rfl, rfl, rfl, rfl⟩

@[simp] theorem State.agWrap_keeps (s : State) (n : Nat) (w : Bool) :
    (State.agWrap s n w).clk = s.clk ∧ (State.agWrap s n w).env = s.env ∧ (State.agWrap s n w).actor = s.actor ∧
    (State.agWrap s n w).regs = s.regs ∧ (State.agWrap s n w).code = s.code ∧ (State.agWrap s n w).sx = s.sx ∧
    (State.agWrap s n w).trap = s.trap ∧ (State.agWrap s n w).pend = s.pend ∧ (State.agWrap s n w).iss = s.iss ∧
    (State.agWrap s n w).cmp = s.cmp ∧ (State.agWrap s n w).cv = s.cv ∧ (State.agWrap s n w).cm = s.cm ∧
    (State.agWrap s n w).cc = s.cc ∧ (State.agWrap s n w).cx = s.cx ∧ (State.agWrap s n w).rs = s.rs ∧
    (State.agWrap s n w).dq = s.dq ∧ (State.agWrap s n w).dpend = s.dpend ∧ (State.agWrap s n w).me = s.me ∧
    (State.agWrap s n w).run = s.run ∧ (State.agWrap s n w).sram = s.sram ∧ (State.agWrap s n w).mem = s.mem ∧
    (State.agWrap s n w).fab = s.fab ∧ (State.agWrap s n w).sh = s.sh ∧ (State.agWrap s n w).grp = s.grp ∧
    (State.agWrap s n w).fw = s.fw ∧ (State.agWrap s n w).tr = s.tr := by
  unfold State.agWrap
  (repeat' split) <;> exact ⟨rfl, rfl, rfl, rfl, rfl, rfl, rfl, rfl, rfl, rfl, rfl, rfl, rfl, rfl, rfl, rfl, rfl, rfl, rfl, rfl, rfl, rfl, rfl, rfl, rfl, rfl⟩

@[simp] theorem State.agWrite_keeps (s : State) (n : Nat) :
    (State.agWrite s n).clk = s.clk ∧ (State.agWrite s n).env = s.env ∧ (State.agWrite s n).actor = s.actor ∧
    (State.agWrite s n).regs = s.regs ∧ (State.agWrite s n).code = s.code ∧ (State.agWrite s n).sx = s.sx ∧
    (State.agWrite s n).trap = s.trap ∧ (State.agWrite s n).pend = s.pend ∧ (State.agWrite s n).iss = s.iss ∧
    (State.agWrite s n).cmp = s.cmp ∧ (State.agWrite s n).cv = s.cv ∧ (State.agWrite s n).cm = s.cm ∧ (State.agWrite s n).cc = s.cc ∧
    (State.agWrite s n).cx = s.cx ∧ (State.agWrite s n).dq = s.dq ∧ (State.agWrite s n).dpend = s.dpend ∧
    (State.agWrite s n).me = s.me ∧ (State.agWrite s n).run = s.run ∧ (State.agWrite s n).mem = s.mem ∧
    (State.agWrite s n).fab = s.fab ∧ (State.agWrite s n).sh = s.sh ∧ (State.agWrite s n).grp = s.grp ∧
    (State.agWrite s n).fw = s.fw ∧ (State.agWrite s n).tr = s.tr := by
  unfold State.agWrite
  (try dsimp only)
  (repeat' split) <;> simp

@[simp] theorem State.agTurn_keeps (s : State) (n : Nat) (b : Bool) :
    (State.agTurn s n b).clk = s.clk ∧ (State.agTurn s n b).env = s.env ∧ (State.agTurn s n b).actor = s.actor ∧
    (State.agTurn s n b).regs = s.regs ∧ (State.agTurn s n b).ctl = s.ctl ∧ (State.agTurn s n b).code = s.code ∧
    (State.agTurn s n b).sx = s.sx ∧ (State.agTurn s n b).trap = s.trap ∧ (State.agTurn s n b).pend = s.pend ∧
    (State.agTurn s n b).iss = s.iss ∧ (State.agTurn s n b).cmp = s.cmp ∧ (State.agTurn s n b).cv = s.cv ∧
    (State.agTurn s n b).cm = s.cm ∧ (State.agTurn s n b).cc = s.cc ∧ (State.agTurn s n b).cx = s.cx ∧
    (State.agTurn s n b).dq = s.dq ∧ (State.agTurn s n b).dpend = s.dpend ∧ (State.agTurn s n b).me = s.me ∧
    (State.agTurn s n b).run = s.run ∧ (State.agTurn s n b).sram = s.sram ∧ (State.agTurn s n b).mem = s.mem ∧
    (State.agTurn s n b).fab = s.fab ∧ (State.agTurn s n b).sh = s.sh ∧ (State.agTurn s n b).grp = s.grp ∧
    (State.agTurn s n b).fw = s.fw ∧ (State.agTurn s n b).tr = s.tr := ⟨rfl, rfl, rfl, rfl, rfl, rfl, rfl, rfl, rfl, rfl, rfl, rfl, rfl, rfl, rfl, rfl, rfl, rfl, rfl, rfl, rfl, rfl, rfl, rfl, rfl, rfl⟩

@[simp] theorem State.portPop_keeps (s : State) (n : Nat) :
    (State.portPop s n).1.clk = s.clk ∧ (State.portPop s n).1.env = s.env ∧ (State.portPop s n).1.actor = s.actor ∧
    (State.portPop s n).1.regs = s.regs ∧ (State.portPop s n).1.code = s.code ∧ (State.portPop s n).1.sx = s.sx ∧
    (State.portPop s n).1.trap = s.trap ∧ (State.portPop s n).1.pend = s.pend ∧ (State.portPop s n).1.iss = s.iss ∧
    (State.portPop s n).1.cmp = s.cmp ∧ (State.portPop s n).1.cv = s.cv ∧ (State.portPop s n).1.cm = s.cm ∧
    (State.portPop s n).1.cc = s.cc ∧ (State.portPop s n).1.cx = s.cx ∧ (State.portPop s n).1.dq = s.dq ∧
    (State.portPop s n).1.dpend = s.dpend ∧ (State.portPop s n).1.me = s.me ∧ (State.portPop s n).1.run = s.run ∧
    (State.portPop s n).1.sram = s.sram ∧ (State.portPop s n).1.mem = s.mem ∧ (State.portPop s n).1.fab = s.fab ∧
    (State.portPop s n).1.sh = s.sh ∧ (State.portPop s n).1.grp = s.grp ∧ (State.portPop s n).1.fw = s.fw ∧
    (State.portPop s n).1.tr = s.tr := by
  unfold State.portPop
  (repeat' split) <;> exact ⟨rfl, rfl, rfl, rfl, rfl, rfl, rfl, rfl, rfl, rfl, rfl, rfl, rfl, rfl, rfl, rfl, rfl, rfl, rfl, rfl, rfl, rfl, rfl, rfl, rfl⟩

@[simp] theorem State.portPush_keeps (s : State) (n : Nat) (b : List Byte) :
    (State.portPush s n b).clk = s.clk ∧ (State.portPush s n b).env = s.env ∧ (State.portPush s n b).actor = s.actor ∧
    (State.portPush s n b).regs = s.regs ∧ (State.portPush s n b).code = s.code ∧ (State.portPush s n b).sx = s.sx ∧
    (State.portPush s n b).trap = s.trap ∧ (State.portPush s n b).pend = s.pend ∧ (State.portPush s n b).iss = s.iss ∧
    (State.portPush s n b).cmp = s.cmp ∧ (State.portPush s n b).cv = s.cv ∧ (State.portPush s n b).cm = s.cm ∧
    (State.portPush s n b).cc = s.cc ∧ (State.portPush s n b).cx = s.cx ∧ (State.portPush s n b).dq = s.dq ∧
    (State.portPush s n b).dpend = s.dpend ∧ (State.portPush s n b).me = s.me ∧ (State.portPush s n b).run = s.run ∧
    (State.portPush s n b).mem = s.mem ∧ (State.portPush s n b).fab = s.fab ∧ (State.portPush s n b).sh = s.sh ∧
    (State.portPush s n b).grp = s.grp ∧ (State.portPush s n b).fw = s.fw ∧ (State.portPush s n b).tr = s.tr := by
  unfold State.portPush
  (try dsimp only)
  (repeat' split) <;> simp

@[simp] theorem State.dropBeats_keeps (s : State) (n : Nat) :
    (State.dropBeats s n).clk = s.clk ∧ (State.dropBeats s n).env = s.env ∧ (State.dropBeats s n).actor = s.actor ∧
    (State.dropBeats s n).regs = s.regs ∧ (State.dropBeats s n).ctl = s.ctl ∧ (State.dropBeats s n).code = s.code ∧
    (State.dropBeats s n).sx = s.sx ∧ (State.dropBeats s n).trap = s.trap ∧ (State.dropBeats s n).pend = s.pend ∧
    (State.dropBeats s n).iss = s.iss ∧ (State.dropBeats s n).cmp = s.cmp ∧ (State.dropBeats s n).cv = s.cv ∧
    (State.dropBeats s n).cm = s.cm ∧ (State.dropBeats s n).cc = s.cc ∧ (State.dropBeats s n).cx = s.cx ∧
    (State.dropBeats s n).rs = s.rs ∧ (State.dropBeats s n).dq = s.dq ∧ (State.dropBeats s n).dpend = s.dpend ∧
    (State.dropBeats s n).me = s.me ∧ (State.dropBeats s n).run = s.run ∧ (State.dropBeats s n).mem = s.mem ∧
    (State.dropBeats s n).fab = s.fab ∧ (State.dropBeats s n).sh = s.sh ∧ (State.dropBeats s n).grp = s.grp ∧
    (State.dropBeats s n).fw = s.fw ∧ (State.dropBeats s n).tr = s.tr := ⟨rfl, rfl, rfl, rfl, rfl, rfl, rfl, rfl, rfl, rfl, rfl, rfl, rfl, rfl, rfl, rfl, rfl, rfl, rfl, rfl, rfl, rfl, rfl, rfl, rfl, rfl⟩

@[simp] theorem State.go1_keeps (s : State) (n : Nat) :
    (State.go1 s n).clk = s.clk ∧ (State.go1 s n).env = s.env ∧ (State.go1 s n).actor = s.actor ∧ (State.go1 s n).regs = s.regs ∧
    (State.go1 s n).ctl = s.ctl ∧ (State.go1 s n).code = s.code ∧ (State.go1 s n).sx = s.sx ∧ (State.go1 s n).trap = s.trap ∧
    (State.go1 s n).pend = s.pend ∧ (State.go1 s n).iss = s.iss ∧ (State.go1 s n).cmp = s.cmp ∧ (State.go1 s n).cv = s.cv ∧
    (State.go1 s n).cm = s.cm ∧ (State.go1 s n).cc = s.cc ∧ (State.go1 s n).cx = s.cx ∧ (State.go1 s n).dq = s.dq ∧
    (State.go1 s n).dpend = s.dpend ∧ (State.go1 s n).me = s.me ∧ (State.go1 s n).run = s.run ∧ (State.go1 s n).mem = s.mem ∧
    (State.go1 s n).fab = s.fab ∧ (State.go1 s n).sh = s.sh ∧ (State.go1 s n).grp = s.grp ∧ (State.go1 s n).fw = s.fw ∧
    (State.go1 s n).tr = s.tr := by
  unfold State.go1
  (try dsimp only)
  (repeat' split) <;> simp

@[simp] theorem State.dropFill_keeps (s : State) (lam : Nat) :
    (State.dropFill s lam).clk = s.clk ∧ (State.dropFill s lam).env = s.env ∧ (State.dropFill s lam).actor = s.actor ∧
    (State.dropFill s lam).regs = s.regs ∧ (State.dropFill s lam).ctl = s.ctl ∧ (State.dropFill s lam).code = s.code ∧
    (State.dropFill s lam).sx = s.sx ∧ (State.dropFill s lam).trap = s.trap ∧ (State.dropFill s lam).pend = s.pend ∧
    (State.dropFill s lam).iss = s.iss ∧ (State.dropFill s lam).cmp = s.cmp ∧ (State.dropFill s lam).cv = s.cv ∧
    (State.dropFill s lam).cm = s.cm ∧ (State.dropFill s lam).cc = s.cc ∧ (State.dropFill s lam).cx = s.cx ∧
    (State.dropFill s lam).dq = s.dq ∧ (State.dropFill s lam).dpend = s.dpend ∧ (State.dropFill s lam).me = s.me ∧
    (State.dropFill s lam).run = s.run ∧ (State.dropFill s lam).mem = s.mem ∧ (State.dropFill s lam).fab = s.fab ∧
    (State.dropFill s lam).sh = s.sh ∧ (State.dropFill s lam).grp = s.grp ∧ (State.dropFill s lam).fw = s.fw ∧
    (State.dropFill s lam).tr = s.tr := ⟨rfl, rfl, rfl, rfl, rfl, rfl, rfl, rfl, rfl, rfl, rfl, rfl, rfl, rfl, rfl, rfl, rfl, rfl, rfl, rfl, rfl, rfl, rfl, rfl, rfl⟩

@[simp] theorem State.startFill_keeps (s : State) (lam : Nat) (rows : List (Option (Nat × Bool))) :
    (State.startFill s lam rows).clk = s.clk ∧ (State.startFill s lam rows).env = s.env ∧
    (State.startFill s lam rows).actor = s.actor ∧ (State.startFill s lam rows).regs = s.regs ∧
    (State.startFill s lam rows).code = s.code ∧ (State.startFill s lam rows).sx = s.sx ∧ (State.startFill s lam rows).trap = s.trap ∧
    (State.startFill s lam rows).pend = s.pend ∧ (State.startFill s lam rows).iss = s.iss ∧ (State.startFill s lam rows).cmp = s.cmp ∧
    (State.startFill s lam rows).cv = s.cv ∧ (State.startFill s lam rows).cm = s.cm ∧ (State.startFill s lam rows).cc = s.cc ∧
    (State.startFill s lam rows).cx = s.cx ∧ (State.startFill s lam rows).dq = s.dq ∧ (State.startFill s lam rows).dpend = s.dpend ∧
    (State.startFill s lam rows).me = s.me ∧ (State.startFill s lam rows).run = s.run ∧ (State.startFill s lam rows).mem = s.mem ∧
    (State.startFill s lam rows).fab = s.fab ∧ (State.startFill s lam rows).sh = s.sh ∧ (State.startFill s lam rows).grp = s.grp ∧
    (State.startFill s lam rows).fw = s.fw ∧ (State.startFill s lam rows).tr = s.tr := by
  unfold State.startFill
  (try dsimp only)
  (repeat' split) <;> simp

@[simp] theorem State.setLink_keeps (s : State) (k : Nat) (l : Link) :
    (State.setLink s k l).clk = s.clk ∧ (State.setLink s k l).env = s.env ∧ (State.setLink s k l).actor = s.actor ∧
    (State.setLink s k l).regs = s.regs ∧ (State.setLink s k l).ctl = s.ctl ∧ (State.setLink s k l).code = s.code ∧
    (State.setLink s k l).sx = s.sx ∧ (State.setLink s k l).trap = s.trap ∧ (State.setLink s k l).pend = s.pend ∧
    (State.setLink s k l).iss = s.iss ∧ (State.setLink s k l).cmp = s.cmp ∧ (State.setLink s k l).cv = s.cv ∧
    (State.setLink s k l).cm = s.cm ∧ (State.setLink s k l).cc = s.cc ∧ (State.setLink s k l).cx = s.cx ∧
    (State.setLink s k l).rs = s.rs ∧ (State.setLink s k l).dq = s.dq ∧ (State.setLink s k l).dpend = s.dpend ∧
    (State.setLink s k l).me = s.me ∧ (State.setLink s k l).run = s.run ∧ (State.setLink s k l).sram = s.sram ∧
    (State.setLink s k l).mem = s.mem ∧ (State.setLink s k l).sh = s.sh ∧ (State.setLink s k l).grp = s.grp ∧
    (State.setLink s k l).fw = s.fw ∧ (State.setLink s k l).tr = s.tr := ⟨rfl, rfl, rfl, rfl, rfl, rfl, rfl, rfl, rfl, rfl, rfl, rfl, rfl, rfl, rfl, rfl, rfl, rfl, rfl, rfl, rfl, rfl, rfl, rfl, rfl, rfl⟩

@[simp] theorem State.queueOut_keeps (s : State) (k : Nat) (ls : List Load) :
    (State.queueOut s k ls).clk = s.clk ∧ (State.queueOut s k ls).env = s.env ∧ (State.queueOut s k ls).actor = s.actor ∧
    (State.queueOut s k ls).regs = s.regs ∧ (State.queueOut s k ls).ctl = s.ctl ∧ (State.queueOut s k ls).code = s.code ∧
    (State.queueOut s k ls).sx = s.sx ∧ (State.queueOut s k ls).trap = s.trap ∧ (State.queueOut s k ls).pend = s.pend ∧
    (State.queueOut s k ls).iss = s.iss ∧ (State.queueOut s k ls).cmp = s.cmp ∧ (State.queueOut s k ls).cv = s.cv ∧
    (State.queueOut s k ls).cm = s.cm ∧ (State.queueOut s k ls).cc = s.cc ∧ (State.queueOut s k ls).cx = s.cx ∧
    (State.queueOut s k ls).rs = s.rs ∧ (State.queueOut s k ls).dq = s.dq ∧ (State.queueOut s k ls).dpend = s.dpend ∧
    (State.queueOut s k ls).me = s.me ∧ (State.queueOut s k ls).run = s.run ∧ (State.queueOut s k ls).sram = s.sram ∧
    (State.queueOut s k ls).mem = s.mem ∧ (State.queueOut s k ls).sh = s.sh ∧ (State.queueOut s k ls).grp = s.grp ∧
    (State.queueOut s k ls).fw = s.fw ∧ (State.queueOut s k ls).tr = s.tr := ⟨rfl, rfl, rfl, rfl, rfl, rfl, rfl, rfl, rfl, rfl, rfl, rfl, rfl, rfl, rfl, rfl, rfl, rfl, rfl, rfl, rfl, rfl, rfl, rfl, rfl, rfl⟩

@[simp] theorem State.sendTo_keeps (s : State) (pkg : Nat) (ls : List Load) :
    (State.sendTo s pkg ls).clk = s.clk ∧ (State.sendTo s pkg ls).env = s.env ∧ (State.sendTo s pkg ls).actor = s.actor ∧
    (State.sendTo s pkg ls).regs = s.regs ∧ (State.sendTo s pkg ls).ctl = s.ctl ∧ (State.sendTo s pkg ls).code = s.code ∧
    (State.sendTo s pkg ls).sx = s.sx ∧ (State.sendTo s pkg ls).trap = s.trap ∧ (State.sendTo s pkg ls).pend = s.pend ∧
    (State.sendTo s pkg ls).iss = s.iss ∧ (State.sendTo s pkg ls).cmp = s.cmp ∧ (State.sendTo s pkg ls).cv = s.cv ∧
    (State.sendTo s pkg ls).cm = s.cm ∧ (State.sendTo s pkg ls).cc = s.cc ∧ (State.sendTo s pkg ls).cx = s.cx ∧
    (State.sendTo s pkg ls).rs = s.rs ∧ (State.sendTo s pkg ls).dq = s.dq ∧ (State.sendTo s pkg ls).dpend = s.dpend ∧
    (State.sendTo s pkg ls).me = s.me ∧ (State.sendTo s pkg ls).run = s.run ∧ (State.sendTo s pkg ls).sram = s.sram ∧
    (State.sendTo s pkg ls).mem = s.mem ∧ (State.sendTo s pkg ls).sh = s.sh ∧ (State.sendTo s pkg ls).grp = s.grp ∧
    (State.sendTo s pkg ls).fw = s.fw ∧ (State.sendTo s pkg ls).tr = s.tr := by
  unfold State.sendTo
  (repeat' split) <;> exact ⟨rfl, rfl, rfl, rfl, rfl, rfl, rfl, rfl, rfl, rfl, rfl, rfl, rfl, rfl, rfl, rfl, rfl, rfl, rfl, rfl, rfl, rfl, rfl, rfl, rfl, rfl⟩

@[simp] theorem State.sendLink_keeps (s : State) (k : Nat) :
    (State.sendLink s k).clk = s.clk ∧ (State.sendLink s k).env = s.env ∧ (State.sendLink s k).actor = s.actor ∧
    (State.sendLink s k).regs = s.regs ∧ (State.sendLink s k).ctl = s.ctl ∧ (State.sendLink s k).code = s.code ∧
    (State.sendLink s k).sx = s.sx ∧ (State.sendLink s k).trap = s.trap ∧ (State.sendLink s k).pend = s.pend ∧
    (State.sendLink s k).iss = s.iss ∧ (State.sendLink s k).cmp = s.cmp ∧ (State.sendLink s k).cv = s.cv ∧
    (State.sendLink s k).cm = s.cm ∧ (State.sendLink s k).cc = s.cc ∧ (State.sendLink s k).cx = s.cx ∧
    (State.sendLink s k).rs = s.rs ∧ (State.sendLink s k).dq = s.dq ∧ (State.sendLink s k).dpend = s.dpend ∧
    (State.sendLink s k).me = s.me ∧ (State.sendLink s k).run = s.run ∧ (State.sendLink s k).sram = s.sram ∧
    (State.sendLink s k).mem = s.mem ∧ (State.sendLink s k).sh = s.sh ∧ (State.sendLink s k).grp = s.grp ∧
    (State.sendLink s k).fw = s.fw ∧ (State.sendLink s k).tr = s.tr := by
  unfold State.sendLink
  (try dsimp only)
  (repeat' split) <;> simp

@[simp] theorem State.setChain_keeps (s : State) (e : Engine) (c : Chain) :
    (State.setChain s e c).clk = s.clk ∧ (State.setChain s e c).env = s.env ∧ (State.setChain s e c).actor = s.actor ∧
    (State.setChain s e c).regs = s.regs ∧ (State.setChain s e c).ctl = s.ctl ∧ (State.setChain s e c).code = s.code ∧
    (State.setChain s e c).sx = s.sx ∧ (State.setChain s e c).trap = s.trap ∧ (State.setChain s e c).pend = s.pend ∧
    (State.setChain s e c).iss = s.iss ∧ (State.setChain s e c).cmp = s.cmp ∧ (State.setChain s e c).cx = s.cx ∧
    (State.setChain s e c).rs = s.rs ∧ (State.setChain s e c).dq = s.dq ∧ (State.setChain s e c).dpend = s.dpend ∧
    (State.setChain s e c).me = s.me ∧ (State.setChain s e c).run = s.run ∧ (State.setChain s e c).sram = s.sram ∧
    (State.setChain s e c).mem = s.mem ∧ (State.setChain s e c).fab = s.fab ∧ (State.setChain s e c).sh = s.sh ∧
    (State.setChain s e c).grp = s.grp ∧ (State.setChain s e c).fw = s.fw ∧ (State.setChain s e c).tr = s.tr := by
  unfold State.setChain
  (repeat' split) <;> exact ⟨rfl, rfl, rfl, rfl, rfl, rfl, rfl, rfl, rfl, rfl, rfl, rfl, rfl, rfl, rfl, rfl, rfl, rfl, rfl, rfl, rfl, rfl, rfl, rfl⟩

@[simp] theorem State.faultAt_keeps (s : State) (e : Engine) (code : Nat) (cap : Cap) (off : Nat) :
    (State.faultAt s e code cap off).clk = s.clk ∧ (State.faultAt s e code cap off).env = s.env ∧
    (State.faultAt s e code cap off).actor = s.actor ∧ (State.faultAt s e code cap off).regs = s.regs ∧
    (State.faultAt s e code cap off).ctl = s.ctl ∧ (State.faultAt s e code cap off).code = s.code ∧
    (State.faultAt s e code cap off).pend = s.pend ∧ (State.faultAt s e code cap off).iss = s.iss ∧
    (State.faultAt s e code cap off).cmp = s.cmp ∧ (State.faultAt s e code cap off).cx = s.cx ∧
    (State.faultAt s e code cap off).rs = s.rs ∧ (State.faultAt s e code cap off).dq = s.dq ∧
    (State.faultAt s e code cap off).dpend = s.dpend ∧ (State.faultAt s e code cap off).me = s.me ∧
    (State.faultAt s e code cap off).sram = s.sram ∧ (State.faultAt s e code cap off).mem = s.mem ∧
    (State.faultAt s e code cap off).fab = s.fab ∧ (State.faultAt s e code cap off).sh = s.sh ∧
    (State.faultAt s e code cap off).grp = s.grp ∧ (State.faultAt s e code cap off).fw = s.fw ∧
    (State.faultAt s e code cap off).tr = s.tr := by simp [State.faultAt]

@[simp] theorem State.again_keeps (s : State) (e : Engine) :
    (State.again s e).clk = s.clk ∧ (State.again s e).env = s.env ∧ (State.again s e).actor = s.actor ∧
    (State.again s e).regs = s.regs ∧ (State.again s e).ctl = s.ctl ∧ (State.again s e).code = s.code ∧ (State.again s e).sx = s.sx ∧
    (State.again s e).trap = s.trap ∧ (State.again s e).pend = s.pend ∧ (State.again s e).iss = s.iss ∧
    (State.again s e).cmp = s.cmp ∧ (State.again s e).cx = s.cx ∧ (State.again s e).rs = s.rs ∧ (State.again s e).dq = s.dq ∧
    (State.again s e).dpend = s.dpend ∧ (State.again s e).me = s.me ∧ (State.again s e).run = s.run ∧
    (State.again s e).sram = s.sram ∧ (State.again s e).mem = s.mem ∧ (State.again s e).fab = s.fab ∧ (State.again s e).sh = s.sh ∧
    (State.again s e).grp = s.grp ∧ (State.again s e).fw = s.fw ∧ (State.again s e).tr = s.tr := by simp [State.again]

@[simp] theorem State.busy1_keeps (s : State) (up : Bool) (b : Nat × Nat) :
    (State.busy1 s up b).clk = s.clk ∧ (State.busy1 s up b).env = s.env ∧ (State.busy1 s up b).actor = s.actor ∧
    (State.busy1 s up b).regs = s.regs ∧ (State.busy1 s up b).ctl = s.ctl ∧ (State.busy1 s up b).code = s.code ∧
    (State.busy1 s up b).sx = s.sx ∧ (State.busy1 s up b).trap = s.trap ∧ (State.busy1 s up b).pend = s.pend ∧
    (State.busy1 s up b).iss = s.iss ∧ (State.busy1 s up b).cmp = s.cmp ∧ (State.busy1 s up b).cv = s.cv ∧
    (State.busy1 s up b).cm = s.cm ∧ (State.busy1 s up b).cc = s.cc ∧ (State.busy1 s up b).cx = s.cx ∧
    (State.busy1 s up b).rs = s.rs ∧ (State.busy1 s up b).dq = s.dq ∧ (State.busy1 s up b).dpend = s.dpend ∧
    (State.busy1 s up b).me = s.me ∧ (State.busy1 s up b).run = s.run ∧ (State.busy1 s up b).sram = s.sram ∧
    (State.busy1 s up b).fab = s.fab ∧ (State.busy1 s up b).sh = s.sh ∧ (State.busy1 s up b).grp = s.grp ∧
    (State.busy1 s up b).fw = s.fw ∧ (State.busy1 s up b).tr = s.tr := ⟨rfl, rfl, rfl, rfl, rfl, rfl, rfl, rfl, rfl, rfl, rfl, rfl, rfl, rfl, rfl, rfl, rfl, rfl, rfl, rfl, rfl, rfl, rfl, rfl, rfl, rfl⟩

@[simp] theorem State.release_keeps (s : State) (x : Cmd) :
    (State.release s x).clk = s.clk ∧ (State.release s x).env = s.env ∧ (State.release s x).actor = s.actor ∧
    (State.release s x).regs = s.regs ∧ (State.release s x).code = s.code ∧ (State.release s x).sx = s.sx ∧
    (State.release s x).trap = s.trap ∧ (State.release s x).pend = s.pend ∧ (State.release s x).iss = s.iss ∧
    (State.release s x).cmp = s.cmp ∧ (State.release s x).cv = s.cv ∧ (State.release s x).cm = s.cm ∧ (State.release s x).cx = s.cx ∧
    (State.release s x).rs = s.rs ∧ (State.release s x).dq = s.dq ∧ (State.release s x).dpend = s.dpend ∧
    (State.release s x).me = s.me ∧ (State.release s x).run = s.run ∧ (State.release s x).mem = s.mem ∧
    (State.release s x).fab = s.fab ∧ (State.release s x).sh = s.sh ∧ (State.release s x).grp = s.grp ∧
    (State.release s x).fw = s.fw ∧ (State.release s x).tr = s.tr := by
  unfold State.release
  (try dsimp only)
  (repeat' split) <;> simp

@[simp] theorem State.lateTicket_keeps (s : State) (e : Engine) (x : Cmd) :
    (State.lateTicket s e x).clk = s.clk ∧ (State.lateTicket s e x).env = s.env ∧ (State.lateTicket s e x).actor = s.actor ∧
    (State.lateTicket s e x).regs = s.regs ∧ (State.lateTicket s e x).ctl = s.ctl ∧ (State.lateTicket s e x).code = s.code ∧
    (State.lateTicket s e x).sx = s.sx ∧ (State.lateTicket s e x).trap = s.trap ∧ (State.lateTicket s e x).pend = s.pend ∧
    (State.lateTicket s e x).iss = s.iss ∧ (State.lateTicket s e x).cx = s.cx ∧ (State.lateTicket s e x).rs = s.rs ∧
    (State.lateTicket s e x).dq = s.dq ∧ (State.lateTicket s e x).dpend = s.dpend ∧ (State.lateTicket s e x).me = s.me ∧
    (State.lateTicket s e x).run = s.run ∧ (State.lateTicket s e x).sram = s.sram ∧ (State.lateTicket s e x).mem = s.mem ∧
    (State.lateTicket s e x).fab = s.fab ∧ (State.lateTicket s e x).sh = s.sh ∧ (State.lateTicket s e x).grp = s.grp ∧
    (State.lateTicket s e x).fw = s.fw ∧ (State.lateTicket s e x).tr = s.tr := by
  unfold State.lateTicket
  (try dsimp only)
  (repeat' split) <;> simp

@[simp] theorem State.jump_keeps (s : State) (v : W64) :
    (State.jump s v).clk = s.clk ∧ (State.jump s v).env = s.env ∧ (State.jump s v).actor = s.actor ∧ (State.jump s v).ctl = s.ctl ∧
    (State.jump s v).code = s.code ∧ (State.jump s v).trap = s.trap ∧ (State.jump s v).pend = s.pend ∧ (State.jump s v).iss = s.iss ∧
    (State.jump s v).cmp = s.cmp ∧ (State.jump s v).cv = s.cv ∧ (State.jump s v).cm = s.cm ∧ (State.jump s v).cc = s.cc ∧
    (State.jump s v).cx = s.cx ∧ (State.jump s v).rs = s.rs ∧ (State.jump s v).dq = s.dq ∧ (State.jump s v).dpend = s.dpend ∧
    (State.jump s v).me = s.me ∧ (State.jump s v).run = s.run ∧ (State.jump s v).sram = s.sram ∧ (State.jump s v).mem = s.mem ∧
    (State.jump s v).fab = s.fab ∧ (State.jump s v).sh = s.sh ∧ (State.jump s v).grp = s.grp ∧ (State.jump s v).fw = s.fw ∧
    (State.jump s v).tr = s.tr := ⟨rfl, rfl, rfl, rfl, rfl, rfl, rfl, rfl, rfl, rfl, rfl, rfl, rfl, rfl, rfl, rfl, rfl, rfl, rfl, rfl, rfl, rfl, rfl, rfl, rfl⟩

@[simp] theorem State.resumeS_keeps (s : State) :
    (State.resumeS s).clk = s.clk ∧ (State.resumeS s).env = s.env ∧ (State.resumeS s).actor = s.actor ∧
    (State.resumeS s).ctl = s.ctl ∧ (State.resumeS s).code = s.code ∧ (State.resumeS s).trap = s.trap ∧
    (State.resumeS s).pend = s.pend ∧ (State.resumeS s).iss = s.iss ∧ (State.resumeS s).cmp = s.cmp ∧ (State.resumeS s).cv = s.cv ∧
    (State.resumeS s).cm = s.cm ∧ (State.resumeS s).cc = s.cc ∧ (State.resumeS s).cx = s.cx ∧ (State.resumeS s).rs = s.rs ∧
    (State.resumeS s).dq = s.dq ∧ (State.resumeS s).dpend = s.dpend ∧ (State.resumeS s).me = s.me ∧ (State.resumeS s).sram = s.sram ∧
    (State.resumeS s).mem = s.mem ∧ (State.resumeS s).fab = s.fab ∧ (State.resumeS s).sh = s.sh ∧ (State.resumeS s).grp = s.grp ∧
    (State.resumeS s).fw = s.fw ∧ (State.resumeS s).tr = s.tr := by simp [State.resumeS]

@[simp] theorem State.setGroup_keeps (s : State) (g : Nat) (x : Group) :
    (State.setGroup s g x).clk = s.clk ∧ (State.setGroup s g x).env = s.env ∧ (State.setGroup s g x).actor = s.actor ∧
    (State.setGroup s g x).regs = s.regs ∧ (State.setGroup s g x).ctl = s.ctl ∧ (State.setGroup s g x).code = s.code ∧
    (State.setGroup s g x).sx = s.sx ∧ (State.setGroup s g x).trap = s.trap ∧ (State.setGroup s g x).pend = s.pend ∧
    (State.setGroup s g x).iss = s.iss ∧ (State.setGroup s g x).cmp = s.cmp ∧ (State.setGroup s g x).cv = s.cv ∧
    (State.setGroup s g x).cm = s.cm ∧ (State.setGroup s g x).cc = s.cc ∧ (State.setGroup s g x).cx = s.cx ∧
    (State.setGroup s g x).rs = s.rs ∧ (State.setGroup s g x).dq = s.dq ∧ (State.setGroup s g x).dpend = s.dpend ∧
    (State.setGroup s g x).me = s.me ∧ (State.setGroup s g x).run = s.run ∧ (State.setGroup s g x).sram = s.sram ∧
    (State.setGroup s g x).mem = s.mem ∧ (State.setGroup s g x).fab = s.fab ∧ (State.setGroup s g x).sh = s.sh ∧
    (State.setGroup s g x).fw = s.fw ∧ (State.setGroup s g x).tr = s.tr := ⟨rfl, rfl, rfl, rfl, rfl, rfl, rfl, rfl, rfl, rfl, rfl, rfl, rfl, rfl, rfl, rfl, rfl, rfl, rfl, rfl, rfl, rfl, rfl, rfl, rfl, rfl⟩

@[simp] theorem State.withdraw1_keeps (s : State) (g : Nat) :
    (State.withdraw1 s g).clk = s.clk ∧ (State.withdraw1 s g).env = s.env ∧ (State.withdraw1 s g).actor = s.actor ∧
    (State.withdraw1 s g).regs = s.regs ∧ (State.withdraw1 s g).ctl = s.ctl ∧ (State.withdraw1 s g).code = s.code ∧
    (State.withdraw1 s g).sx = s.sx ∧ (State.withdraw1 s g).trap = s.trap ∧ (State.withdraw1 s g).pend = s.pend ∧
    (State.withdraw1 s g).iss = s.iss ∧ (State.withdraw1 s g).cmp = s.cmp ∧ (State.withdraw1 s g).cv = s.cv ∧
    (State.withdraw1 s g).cm = s.cm ∧ (State.withdraw1 s g).cc = s.cc ∧ (State.withdraw1 s g).cx = s.cx ∧
    (State.withdraw1 s g).rs = s.rs ∧ (State.withdraw1 s g).dq = s.dq ∧ (State.withdraw1 s g).dpend = s.dpend ∧
    (State.withdraw1 s g).me = s.me ∧ (State.withdraw1 s g).run = s.run ∧ (State.withdraw1 s g).sram = s.sram ∧
    (State.withdraw1 s g).mem = s.mem ∧ (State.withdraw1 s g).fab = s.fab ∧ (State.withdraw1 s g).sh = s.sh ∧
    (State.withdraw1 s g).fw = s.fw ∧ (State.withdraw1 s g).tr = s.tr := by
  unfold State.withdraw1
  (repeat' split) <;> exact ⟨rfl, rfl, rfl, rfl, rfl, rfl, rfl, rfl, rfl, rfl, rfl, rfl, rfl, rfl, rfl, rfl, rfl, rfl, rfl, rfl, rfl, rfl, rfl, rfl, rfl, rfl⟩

@[simp] theorem State.chainsBack_keeps (s : State) :
    (State.chainsBack s).clk = s.clk ∧ (State.chainsBack s).env = s.env ∧ (State.chainsBack s).actor = s.actor ∧
    (State.chainsBack s).regs = s.regs ∧ (State.chainsBack s).ctl = s.ctl ∧ (State.chainsBack s).code = s.code ∧
    (State.chainsBack s).sx = s.sx ∧ (State.chainsBack s).trap = s.trap ∧ (State.chainsBack s).pend = s.pend ∧
    (State.chainsBack s).iss = s.iss ∧ (State.chainsBack s).cmp = s.cmp ∧ (State.chainsBack s).cx = s.cx ∧
    (State.chainsBack s).rs = s.rs ∧ (State.chainsBack s).dq = s.dq ∧ (State.chainsBack s).dpend = s.dpend ∧
    (State.chainsBack s).me = s.me ∧ (State.chainsBack s).run = s.run ∧ (State.chainsBack s).sram = s.sram ∧
    (State.chainsBack s).mem = s.mem ∧ (State.chainsBack s).fab = s.fab ∧ (State.chainsBack s).sh = s.sh ∧
    (State.chainsBack s).grp = s.grp ∧ (State.chainsBack s).fw = s.fw ∧ (State.chainsBack s).tr = s.tr := ⟨rfl, rfl, rfl, rfl, rfl, rfl, rfl, rfl, rfl, rfl, rfl, rfl, rfl, rfl, rfl, rfl, rfl, rfl, rfl, rfl, rfl, rfl, rfl, rfl⟩

@[simp] theorem State.eventV_keeps (s : State) (lat : Nat) (ev : Ev) :
    (State.eventV s lat ev).clk = s.clk ∧ (State.eventV s lat ev).env = s.env ∧ (State.eventV s lat ev).actor = s.actor ∧
    (State.eventV s lat ev).regs = s.regs ∧ (State.eventV s lat ev).ctl = s.ctl ∧ (State.eventV s lat ev).code = s.code ∧
    (State.eventV s lat ev).sx = s.sx ∧ (State.eventV s lat ev).trap = s.trap ∧ (State.eventV s lat ev).iss = s.iss ∧
    (State.eventV s lat ev).cmp = s.cmp ∧ (State.eventV s lat ev).cv = s.cv ∧ (State.eventV s lat ev).cm = s.cm ∧
    (State.eventV s lat ev).cc = s.cc ∧ (State.eventV s lat ev).cx = s.cx ∧ (State.eventV s lat ev).rs = s.rs ∧
    (State.eventV s lat ev).dq = s.dq ∧ (State.eventV s lat ev).dpend = s.dpend ∧ (State.eventV s lat ev).me = s.me ∧
    (State.eventV s lat ev).run = s.run ∧ (State.eventV s lat ev).sram = s.sram ∧ (State.eventV s lat ev).mem = s.mem ∧
    (State.eventV s lat ev).fab = s.fab ∧ (State.eventV s lat ev).sh = s.sh ∧ (State.eventV s lat ev).grp = s.grp ∧
    (State.eventV s lat ev).fw = s.fw ∧ (State.eventV s lat ev).tr = s.tr := by
  unfold State.eventV
  (repeat' split) <;> exact ⟨rfl, rfl, rfl, rfl, rfl, rfl, rfl, rfl, rfl, rfl, rfl, rfl, rfl, rfl, rfl, rfl, rfl, rfl, rfl, rfl, rfl, rfl, rfl, rfl, rfl, rfl⟩

@[simp] theorem State.setHeld_keeps (s : State) (id g : Nat) (h : Bool) :
    (State.setHeld s id g h).clk = s.clk ∧ (State.setHeld s id g h).env = s.env ∧ (State.setHeld s id g h).actor = s.actor ∧
    (State.setHeld s id g h).regs = s.regs ∧ (State.setHeld s id g h).ctl = s.ctl ∧ (State.setHeld s id g h).code = s.code ∧
    (State.setHeld s id g h).sx = s.sx ∧ (State.setHeld s id g h).trap = s.trap ∧ (State.setHeld s id g h).pend = s.pend ∧
    (State.setHeld s id g h).iss = s.iss ∧ (State.setHeld s id g h).cmp = s.cmp ∧ (State.setHeld s id g h).cv = s.cv ∧
    (State.setHeld s id g h).cm = s.cm ∧ (State.setHeld s id g h).cc = s.cc ∧ (State.setHeld s id g h).cx = s.cx ∧
    (State.setHeld s id g h).rs = s.rs ∧ (State.setHeld s id g h).dq = s.dq ∧ (State.setHeld s id g h).dpend = s.dpend ∧
    (State.setHeld s id g h).me = s.me ∧ (State.setHeld s id g h).run = s.run ∧ (State.setHeld s id g h).sram = s.sram ∧
    (State.setHeld s id g h).fab = s.fab ∧ (State.setHeld s id g h).sh = s.sh ∧ (State.setHeld s id g h).grp = s.grp ∧
    (State.setHeld s id g h).fw = s.fw ∧ (State.setHeld s id g h).tr = s.tr := ⟨rfl, rfl, rfl, rfl, rfl, rfl, rfl, rfl, rfl, rfl, rfl, rfl, rfl, rfl, rfl, rfl, rfl, rfl, rfl, rfl, rfl, rfl, rfl, rfl, rfl, rfl⟩

@[simp] theorem State.freePage_keeps (s : State) (vi key base : Nat) :
    (State.freePage s vi key base).clk = s.clk ∧ (State.freePage s vi key base).env = s.env ∧
    (State.freePage s vi key base).actor = s.actor ∧ (State.freePage s vi key base).regs = s.regs ∧
    (State.freePage s vi key base).ctl = s.ctl ∧ (State.freePage s vi key base).code = s.code ∧
    (State.freePage s vi key base).sx = s.sx ∧ (State.freePage s vi key base).trap = s.trap ∧
    (State.freePage s vi key base).pend = s.pend ∧ (State.freePage s vi key base).iss = s.iss ∧
    (State.freePage s vi key base).cmp = s.cmp ∧ (State.freePage s vi key base).cv = s.cv ∧ (State.freePage s vi key base).cm = s.cm ∧
    (State.freePage s vi key base).cc = s.cc ∧ (State.freePage s vi key base).cx = s.cx ∧ (State.freePage s vi key base).rs = s.rs ∧
    (State.freePage s vi key base).dq = s.dq ∧ (State.freePage s vi key base).dpend = s.dpend ∧
    (State.freePage s vi key base).me = s.me ∧ (State.freePage s vi key base).run = s.run ∧
    (State.freePage s vi key base).sram = s.sram ∧ (State.freePage s vi key base).fab = s.fab ∧
    (State.freePage s vi key base).sh = s.sh ∧ (State.freePage s vi key base).grp = s.grp ∧ (State.freePage s vi key base).fw = s.fw ∧
    (State.freePage s vi key base).tr = s.tr := ⟨rfl, rfl, rfl, rfl, rfl, rfl, rfl, rfl, rfl, rfl, rfl, rfl, rfl, rfl, rfl, rfl, rfl, rfl, rfl, rfl, rfl, rfl, rfl, rfl, rfl, rfl⟩

@[simp] theorem State.setStaging_keeps (s : State) (q : Nat) (d : DQueue) :
    (State.setStaging s q d).clk = s.clk ∧ (State.setStaging s q d).env = s.env ∧ (State.setStaging s q d).actor = s.actor ∧
    (State.setStaging s q d).regs = s.regs ∧ (State.setStaging s q d).ctl = s.ctl ∧ (State.setStaging s q d).code = s.code ∧
    (State.setStaging s q d).sx = s.sx ∧ (State.setStaging s q d).trap = s.trap ∧ (State.setStaging s q d).pend = s.pend ∧
    (State.setStaging s q d).iss = s.iss ∧ (State.setStaging s q d).cmp = s.cmp ∧ (State.setStaging s q d).cv = s.cv ∧
    (State.setStaging s q d).cm = s.cm ∧ (State.setStaging s q d).cc = s.cc ∧ (State.setStaging s q d).cx = s.cx ∧
    (State.setStaging s q d).rs = s.rs ∧ (State.setStaging s q d).dpend = s.dpend ∧ (State.setStaging s q d).me = s.me ∧
    (State.setStaging s q d).run = s.run ∧ (State.setStaging s q d).sram = s.sram ∧ (State.setStaging s q d).mem = s.mem ∧
    (State.setStaging s q d).fab = s.fab ∧ (State.setStaging s q d).sh = s.sh ∧ (State.setStaging s q d).grp = s.grp ∧
    (State.setStaging s q d).fw = s.fw ∧ (State.setStaging s q d).tr = s.tr := ⟨rfl, rfl, rfl, rfl, rfl, rfl, rfl, rfl, rfl, rfl, rfl, rfl, rfl, rfl, rfl, rfl, rfl, rfl, rfl, rfl, rfl, rfl, rfl, rfl, rfl, rfl⟩

@[simp] theorem State.drainLand_keeps (s : State) (iss t : Nat) (addrs : List Nat) (rows : List (List Byte)) (mk lanes : Nat) :
    (State.drainLand s iss t addrs rows mk lanes).clk = s.clk ∧ (State.drainLand s iss t addrs rows mk lanes).env = s.env ∧
    (State.drainLand s iss t addrs rows mk lanes).actor = s.actor ∧ (State.drainLand s iss t addrs rows mk lanes).regs = s.regs ∧
    (State.drainLand s iss t addrs rows mk lanes).ctl = s.ctl ∧ (State.drainLand s iss t addrs rows mk lanes).code = s.code ∧
    (State.drainLand s iss t addrs rows mk lanes).sx = s.sx ∧ (State.drainLand s iss t addrs rows mk lanes).trap = s.trap ∧
    (State.drainLand s iss t addrs rows mk lanes).iss = s.iss ∧ (State.drainLand s iss t addrs rows mk lanes).cmp = s.cmp ∧
    (State.drainLand s iss t addrs rows mk lanes).cv = s.cv ∧ (State.drainLand s iss t addrs rows mk lanes).cm = s.cm ∧
    (State.drainLand s iss t addrs rows mk lanes).cc = s.cc ∧ (State.drainLand s iss t addrs rows mk lanes).cx = s.cx ∧
    (State.drainLand s iss t addrs rows mk lanes).rs = s.rs ∧ (State.drainLand s iss t addrs rows mk lanes).dq = s.dq ∧
    (State.drainLand s iss t addrs rows mk lanes).dpend = s.dpend ∧ (State.drainLand s iss t addrs rows mk lanes).me = s.me ∧
    (State.drainLand s iss t addrs rows mk lanes).run = s.run ∧ (State.drainLand s iss t addrs rows mk lanes).sram = s.sram ∧
    (State.drainLand s iss t addrs rows mk lanes).mem = s.mem ∧ (State.drainLand s iss t addrs rows mk lanes).fab = s.fab ∧
    (State.drainLand s iss t addrs rows mk lanes).sh = s.sh ∧ (State.drainLand s iss t addrs rows mk lanes).grp = s.grp ∧
    (State.drainLand s iss t addrs rows mk lanes).fw = s.fw ∧ (State.drainLand s iss t addrs rows mk lanes).tr = s.tr := ⟨rfl, rfl, rfl, rfl, rfl, rfl, rfl, rfl, rfl, rfl, rfl, rfl, rfl, rfl, rfl, rfl, rfl, rfl, rfl, rfl, rfl, rfl, rfl, rfl, rfl, rfl⟩

@[simp] theorem State.dqServe_keeps (s : State) (x : DPend) :
    (State.dqServe s x).clk = s.clk ∧ (State.dqServe s x).env = s.env ∧ (State.dqServe s x).actor = s.actor ∧
    (State.dqServe s x).regs = s.regs ∧ (State.dqServe s x).ctl = s.ctl ∧ (State.dqServe s x).code = s.code ∧
    (State.dqServe s x).sx = s.sx ∧ (State.dqServe s x).trap = s.trap ∧ (State.dqServe s x).pend = s.pend ∧
    (State.dqServe s x).iss = s.iss ∧ (State.dqServe s x).cmp = s.cmp ∧ (State.dqServe s x).cv = s.cv ∧
    (State.dqServe s x).cm = s.cm ∧ (State.dqServe s x).cc = s.cc ∧ (State.dqServe s x).cx = s.cx ∧ (State.dqServe s x).rs = s.rs ∧
    (State.dqServe s x).dq = s.dq ∧ (State.dqServe s x).me = s.me ∧ (State.dqServe s x).run = s.run ∧
    (State.dqServe s x).sram = s.sram ∧ (State.dqServe s x).mem = s.mem ∧ (State.dqServe s x).fab = s.fab ∧
    (State.dqServe s x).sh = s.sh ∧ (State.dqServe s x).grp = s.grp ∧ (State.dqServe s x).fw = s.fw ∧ (State.dqServe s x).tr = s.tr := ⟨rfl, rfl, rfl, rfl, rfl, rfl, rfl, rfl, rfl, rfl, rfl, rfl, rfl, rfl, rfl, rfl, rfl, rfl, rfl, rfl, rfl, rfl, rfl, rfl, rfl, rfl⟩

@[simp] theorem State.dropDq_keeps (s : State) (x : DPend) :
    (State.dropDq s x).clk = s.clk ∧ (State.dropDq s x).env = s.env ∧ (State.dropDq s x).actor = s.actor ∧
    (State.dropDq s x).regs = s.regs ∧ (State.dropDq s x).ctl = s.ctl ∧ (State.dropDq s x).code = s.code ∧
    (State.dropDq s x).sx = s.sx ∧ (State.dropDq s x).trap = s.trap ∧ (State.dropDq s x).pend = s.pend ∧
    (State.dropDq s x).iss = s.iss ∧ (State.dropDq s x).cmp = s.cmp ∧ (State.dropDq s x).cv = s.cv ∧ (State.dropDq s x).cm = s.cm ∧
    (State.dropDq s x).cc = s.cc ∧ (State.dropDq s x).cx = s.cx ∧ (State.dropDq s x).rs = s.rs ∧ (State.dropDq s x).dq = s.dq ∧
    (State.dropDq s x).me = s.me ∧ (State.dropDq s x).run = s.run ∧ (State.dropDq s x).sram = s.sram ∧
    (State.dropDq s x).mem = s.mem ∧ (State.dropDq s x).fab = s.fab ∧ (State.dropDq s x).sh = s.sh ∧ (State.dropDq s x).grp = s.grp ∧
    (State.dropDq s x).fw = s.fw ∧ (State.dropDq s x).tr = s.tr := ⟨rfl, rfl, rfl, rfl, rfl, rfl, rfl, rfl, rfl, rfl, rfl, rfl, rfl, rfl, rfl, rfl, rfl, rfl, rfl, rfl, rfl, rfl, rfl, rfl, rfl, rfl⟩

@[simp] theorem State.dqDone_keeps (s : State) (x : DPend) :
    (State.dqDone s x).clk = s.clk ∧ (State.dqDone s x).env = s.env ∧ (State.dqDone s x).actor = s.actor ∧
    (State.dqDone s x).regs = s.regs ∧ (State.dqDone s x).ctl = s.ctl ∧ (State.dqDone s x).code = s.code ∧
    (State.dqDone s x).sx = s.sx ∧ (State.dqDone s x).trap = s.trap ∧ (State.dqDone s x).pend = s.pend ∧
    (State.dqDone s x).iss = s.iss ∧ (State.dqDone s x).cmp = s.cmp ∧ (State.dqDone s x).cm = s.cm ∧ (State.dqDone s x).cc = s.cc ∧
    (State.dqDone s x).cx = s.cx ∧ (State.dqDone s x).rs = s.rs ∧ (State.dqDone s x).dq = s.dq ∧ (State.dqDone s x).dpend = s.dpend ∧
    (State.dqDone s x).me = s.me ∧ (State.dqDone s x).run = s.run ∧ (State.dqDone s x).sram = s.sram ∧
    (State.dqDone s x).mem = s.mem ∧ (State.dqDone s x).fab = s.fab ∧ (State.dqDone s x).sh = s.sh ∧ (State.dqDone s x).grp = s.grp ∧
    (State.dqDone s x).fw = s.fw ∧ (State.dqDone s x).tr = s.tr := ⟨rfl, rfl, rfl, rfl, rfl, rfl, rfl, rfl, rfl, rfl, rfl, rfl, rfl, rfl, rfl, rfl, rfl, rfl, rfl, rfl, rfl, rfl, rfl, rfl, rfl, rfl⟩

@[simp] theorem State.setFifo_keeps (s : State) (b : Nat) (f : Fifo) :
    (State.setFifo s b f).clk = s.clk ∧ (State.setFifo s b f).env = s.env ∧ (State.setFifo s b f).actor = s.actor ∧
    (State.setFifo s b f).regs = s.regs ∧ (State.setFifo s b f).ctl = s.ctl ∧ (State.setFifo s b f).code = s.code ∧
    (State.setFifo s b f).sx = s.sx ∧ (State.setFifo s b f).trap = s.trap ∧ (State.setFifo s b f).pend = s.pend ∧
    (State.setFifo s b f).iss = s.iss ∧ (State.setFifo s b f).cmp = s.cmp ∧ (State.setFifo s b f).cv = s.cv ∧
    (State.setFifo s b f).cm = s.cm ∧ (State.setFifo s b f).cc = s.cc ∧ (State.setFifo s b f).cx = s.cx ∧
    (State.setFifo s b f).rs = s.rs ∧ (State.setFifo s b f).dq = s.dq ∧ (State.setFifo s b f).dpend = s.dpend ∧
    (State.setFifo s b f).me = s.me ∧ (State.setFifo s b f).run = s.run ∧ (State.setFifo s b f).mem = s.mem ∧
    (State.setFifo s b f).fab = s.fab ∧ (State.setFifo s b f).sh = s.sh ∧ (State.setFifo s b f).grp = s.grp ∧
    (State.setFifo s b f).fw = s.fw ∧ (State.setFifo s b f).tr = s.tr := ⟨rfl, rfl, rfl, rfl, rfl, rfl, rfl, rfl, rfl, rfl, rfl, rfl, rfl, rfl, rfl, rfl, rfl, rfl, rfl, rfl, rfl, rfl, rfl, rfl, rfl, rfl⟩

@[simp] theorem State.setWbank_keeps (s : State) (b : Nat) (w : WBank) :
    (State.setWbank s b w).clk = s.clk ∧ (State.setWbank s b w).env = s.env ∧ (State.setWbank s b w).actor = s.actor ∧
    (State.setWbank s b w).regs = s.regs ∧ (State.setWbank s b w).ctl = s.ctl ∧ (State.setWbank s b w).code = s.code ∧
    (State.setWbank s b w).sx = s.sx ∧ (State.setWbank s b w).trap = s.trap ∧ (State.setWbank s b w).pend = s.pend ∧
    (State.setWbank s b w).iss = s.iss ∧ (State.setWbank s b w).cmp = s.cmp ∧ (State.setWbank s b w).cv = s.cv ∧
    (State.setWbank s b w).cm = s.cm ∧ (State.setWbank s b w).cc = s.cc ∧ (State.setWbank s b w).cx = s.cx ∧
    (State.setWbank s b w).rs = s.rs ∧ (State.setWbank s b w).dq = s.dq ∧ (State.setWbank s b w).dpend = s.dpend ∧
    (State.setWbank s b w).run = s.run ∧ (State.setWbank s b w).sram = s.sram ∧ (State.setWbank s b w).mem = s.mem ∧
    (State.setWbank s b w).fab = s.fab ∧ (State.setWbank s b w).sh = s.sh ∧ (State.setWbank s b w).grp = s.grp ∧
    (State.setWbank s b w).fw = s.fw ∧ (State.setWbank s b w).tr = s.tr := by
  unfold State.setWbank
  (repeat' split) <;> exact ⟨rfl, rfl, rfl, rfl, rfl, rfl, rfl, rfl, rfl, rfl, rfl, rfl, rfl, rfl, rfl, rfl, rfl, rfl, rfl, rfl, rfl, rfl, rfl, rfl, rfl, rfl⟩

@[simp] theorem State.mDoneAt_keeps (s : State) (id t : Nat) :
    (State.mDoneAt s id t).clk = s.clk ∧ (State.mDoneAt s id t).env = s.env ∧ (State.mDoneAt s id t).actor = s.actor ∧
    (State.mDoneAt s id t).regs = s.regs ∧ (State.mDoneAt s id t).ctl = s.ctl ∧ (State.mDoneAt s id t).code = s.code ∧
    (State.mDoneAt s id t).sx = s.sx ∧ (State.mDoneAt s id t).trap = s.trap ∧ (State.mDoneAt s id t).pend = s.pend ∧
    (State.mDoneAt s id t).iss = s.iss ∧ (State.mDoneAt s id t).cmp = s.cmp ∧ (State.mDoneAt s id t).cv = s.cv ∧
    (State.mDoneAt s id t).cc = s.cc ∧ (State.mDoneAt s id t).cx = s.cx ∧ (State.mDoneAt s id t).rs = s.rs ∧
    (State.mDoneAt s id t).dq = s.dq ∧ (State.mDoneAt s id t).dpend = s.dpend ∧ (State.mDoneAt s id t).me = s.me ∧
    (State.mDoneAt s id t).run = s.run ∧ (State.mDoneAt s id t).sram = s.sram ∧ (State.mDoneAt s id t).mem = s.mem ∧
    (State.mDoneAt s id t).fab = s.fab ∧ (State.mDoneAt s id t).sh = s.sh ∧ (State.mDoneAt s id t).grp = s.grp ∧
    (State.mDoneAt s id t).fw = s.fw ∧ (State.mDoneAt s id t).tr = s.tr := ⟨rfl, rfl, rfl, rfl, rfl, rfl, rfl, rfl, rfl, rfl, rfl, rfl, rfl, rfl, rfl, rfl, rfl, rfl, rfl, rfl, rfl, rfl, rfl, rfl, rfl, rfl⟩

@[simp] theorem State.enterRow_keeps (s : State) (x : MStream) (row : List Byte) :
    (State.enterRow s x row).clk = s.clk ∧ (State.enterRow s x row).env = s.env ∧ (State.enterRow s x row).actor = s.actor ∧
    (State.enterRow s x row).regs = s.regs ∧ (State.enterRow s x row).code = s.code ∧ (State.enterRow s x row).sx = s.sx ∧
    (State.enterRow s x row).trap = s.trap ∧ (State.enterRow s x row).pend = s.pend ∧ (State.enterRow s x row).iss = s.iss ∧
    (State.enterRow s x row).cmp = s.cmp ∧ (State.enterRow s x row).cv = s.cv ∧ (State.enterRow s x row).cc = s.cc ∧
    (State.enterRow s x row).cx = s.cx ∧ (State.enterRow s x row).rs = s.rs ∧ (State.enterRow s x row).dq = s.dq ∧
    (State.enterRow s x row).dpend = s.dpend ∧ (State.enterRow s x row).run = s.run ∧ (State.enterRow s x row).sram = s.sram ∧
    (State.enterRow s x row).mem = s.mem ∧ (State.enterRow s x row).fab = s.fab ∧ (State.enterRow s x row).sh = s.sh ∧
    (State.enterRow s x row).grp = s.grp ∧ (State.enterRow s x row).fw = s.fw ∧ (State.enterRow s x row).tr = s.tr := by
  unfold State.enterRow
  (try dsimp only)
  (repeat' split) <;> simp

@[simp] theorem State.accRow_keeps (s : State) (a : Nat) :
    (State.accRow s a).1.clk = s.clk ∧ (State.accRow s a).1.env = s.env ∧ (State.accRow s a).1.actor = s.actor ∧
    (State.accRow s a).1.regs = s.regs ∧ (State.accRow s a).1.code = s.code ∧ (State.accRow s a).1.sx = s.sx ∧
    (State.accRow s a).1.trap = s.trap ∧ (State.accRow s a).1.pend = s.pend ∧ (State.accRow s a).1.iss = s.iss ∧
    (State.accRow s a).1.cmp = s.cmp ∧ (State.accRow s a).1.cv = s.cv ∧ (State.accRow s a).1.cm = s.cm ∧
    (State.accRow s a).1.cc = s.cc ∧ (State.accRow s a).1.cx = s.cx ∧ (State.accRow s a).1.rs = s.rs ∧
    (State.accRow s a).1.dq = s.dq ∧ (State.accRow s a).1.dpend = s.dpend ∧ (State.accRow s a).1.me = s.me ∧
    (State.accRow s a).1.run = s.run ∧ (State.accRow s a).1.sram = s.sram ∧ (State.accRow s a).1.mem = s.mem ∧
    (State.accRow s a).1.fab = s.fab ∧ (State.accRow s a).1.sh = s.sh ∧ (State.accRow s a).1.grp = s.grp ∧
    (State.accRow s a).1.fw = s.fw ∧ (State.accRow s a).1.tr = s.tr := by
  unfold State.accRow
  (repeat' split) <;> exact ⟨rfl, rfl, rfl, rfl, rfl, rfl, rfl, rfl, rfl, rfl, rfl, rfl, rfl, rfl, rfl, rfl, rfl, rfl, rfl, rfl, rfl, rfl, rfl, rfl, rfl, rfl⟩

@[simp] theorem State.accWrite_keeps (s : State) (iss a : Nat) (b : List Byte) :
    (State.accWrite s iss a b).clk = s.clk ∧ (State.accWrite s iss a b).env = s.env ∧ (State.accWrite s iss a b).actor = s.actor ∧
    (State.accWrite s iss a b).regs = s.regs ∧ (State.accWrite s iss a b).code = s.code ∧ (State.accWrite s iss a b).sx = s.sx ∧
    (State.accWrite s iss a b).trap = s.trap ∧ (State.accWrite s iss a b).iss = s.iss ∧ (State.accWrite s iss a b).cmp = s.cmp ∧
    (State.accWrite s iss a b).cv = s.cv ∧ (State.accWrite s iss a b).cm = s.cm ∧ (State.accWrite s iss a b).cc = s.cc ∧
    (State.accWrite s iss a b).cx = s.cx ∧ (State.accWrite s iss a b).rs = s.rs ∧ (State.accWrite s iss a b).dq = s.dq ∧
    (State.accWrite s iss a b).dpend = s.dpend ∧ (State.accWrite s iss a b).me = s.me ∧ (State.accWrite s iss a b).run = s.run ∧
    (State.accWrite s iss a b).sram = s.sram ∧ (State.accWrite s iss a b).mem = s.mem ∧ (State.accWrite s iss a b).fab = s.fab ∧
    (State.accWrite s iss a b).sh = s.sh ∧ (State.accWrite s iss a b).grp = s.grp ∧ (State.accWrite s iss a b).fw = s.fw ∧
    (State.accWrite s iss a b).tr = s.tr := by
  unfold State.accWrite
  (repeat' split) <;> exact ⟨rfl, rfl, rfl, rfl, rfl, rfl, rfl, rfl, rfl, rfl, rfl, rfl, rfl, rfl, rfl, rfl, rfl, rfl, rfl, rfl, rfl, rfl, rfl, rfl, rfl⟩

@[simp] theorem State.eventM_keeps (s : State) (iss lat : Nat) (ev : Ev) :
    (State.eventM s iss lat ev).clk = s.clk ∧ (State.eventM s iss lat ev).env = s.env ∧ (State.eventM s iss lat ev).actor = s.actor ∧
    (State.eventM s iss lat ev).regs = s.regs ∧ (State.eventM s iss lat ev).ctl = s.ctl ∧ (State.eventM s iss lat ev).code = s.code ∧
    (State.eventM s iss lat ev).sx = s.sx ∧ (State.eventM s iss lat ev).trap = s.trap ∧ (State.eventM s iss lat ev).iss = s.iss ∧
    (State.eventM s iss lat ev).cmp = s.cmp ∧ (State.eventM s iss lat ev).cv = s.cv ∧ (State.eventM s iss lat ev).cm = s.cm ∧
    (State.eventM s iss lat ev).cc = s.cc ∧ (State.eventM s iss lat ev).cx = s.cx ∧ (State.eventM s iss lat ev).rs = s.rs ∧
    (State.eventM s iss lat ev).dq = s.dq ∧ (State.eventM s iss lat ev).dpend = s.dpend ∧ (State.eventM s iss lat ev).me = s.me ∧
    (State.eventM s iss lat ev).run = s.run ∧ (State.eventM s iss lat ev).sram = s.sram ∧ (State.eventM s iss lat ev).mem = s.mem ∧
    (State.eventM s iss lat ev).fab = s.fab ∧ (State.eventM s iss lat ev).sh = s.sh ∧ (State.eventM s iss lat ev).grp = s.grp ∧
    (State.eventM s iss lat ev).fw = s.fw ∧ (State.eventM s iss lat ev).tr = s.tr := by
  unfold State.eventM
  (repeat' split) <;> exact ⟨rfl, rfl, rfl, rfl, rfl, rfl, rfl, rfl, rfl, rfl, rfl, rfl, rfl, rfl, rfl, rfl, rfl, rfl, rfl, rfl, rfl, rfl, rfl, rfl, rfl, rfl⟩

@[simp] theorem State.cDoneNow_keeps (s : State) (id : Nat) (ws : List CWrite) :
    (State.cDoneNow s id ws).clk = s.clk ∧ (State.cDoneNow s id ws).env = s.env ∧ (State.cDoneNow s id ws).actor = s.actor ∧
    (State.cDoneNow s id ws).regs = s.regs ∧ (State.cDoneNow s id ws).ctl = s.ctl ∧ (State.cDoneNow s id ws).code = s.code ∧
    (State.cDoneNow s id ws).sx = s.sx ∧ (State.cDoneNow s id ws).trap = s.trap ∧ (State.cDoneNow s id ws).pend = s.pend ∧
    (State.cDoneNow s id ws).iss = s.iss ∧ (State.cDoneNow s id ws).cmp = s.cmp ∧ (State.cDoneNow s id ws).cv = s.cv ∧
    (State.cDoneNow s id ws).cm = s.cm ∧ (State.cDoneNow s id ws).cx = s.cx ∧ (State.cDoneNow s id ws).rs = s.rs ∧
    (State.cDoneNow s id ws).dq = s.dq ∧ (State.cDoneNow s id ws).dpend = s.dpend ∧ (State.cDoneNow s id ws).me = s.me ∧
    (State.cDoneNow s id ws).run = s.run ∧ (State.cDoneNow s id ws).sram = s.sram ∧ (State.cDoneNow s id ws).mem = s.mem ∧
    (State.cDoneNow s id ws).fab = s.fab ∧ (State.cDoneNow s id ws).sh = s.sh ∧ (State.cDoneNow s id ws).grp = s.grp ∧
    (State.cDoneNow s id ws).fw = s.fw ∧ (State.cDoneNow s id ws).tr = s.tr := ⟨rfl, rfl, rfl, rfl, rfl, rfl, rfl, rfl, rfl, rfl, rfl, rfl, rfl, rfl, rfl, rfl, rfl, rfl, rfl, rfl, rfl, rfl, rfl, rfl, rfl, rfl⟩

@[simp] theorem State.setSeg_keeps (s : State) (id i : Nat) (g : Seg) :
    (State.setSeg s id i g).clk = s.clk ∧ (State.setSeg s id i g).env = s.env ∧ (State.setSeg s id i g).actor = s.actor ∧
    (State.setSeg s id i g).regs = s.regs ∧ (State.setSeg s id i g).ctl = s.ctl ∧ (State.setSeg s id i g).code = s.code ∧
    (State.setSeg s id i g).sx = s.sx ∧ (State.setSeg s id i g).trap = s.trap ∧ (State.setSeg s id i g).pend = s.pend ∧
    (State.setSeg s id i g).iss = s.iss ∧ (State.setSeg s id i g).cmp = s.cmp ∧ (State.setSeg s id i g).cv = s.cv ∧
    (State.setSeg s id i g).cm = s.cm ∧ (State.setSeg s id i g).cc = s.cc ∧ (State.setSeg s id i g).cx = s.cx ∧
    (State.setSeg s id i g).rs = s.rs ∧ (State.setSeg s id i g).dq = s.dq ∧ (State.setSeg s id i g).dpend = s.dpend ∧
    (State.setSeg s id i g).me = s.me ∧ (State.setSeg s id i g).run = s.run ∧ (State.setSeg s id i g).sram = s.sram ∧
    (State.setSeg s id i g).fab = s.fab ∧ (State.setSeg s id i g).sh = s.sh ∧ (State.setSeg s id i g).grp = s.grp ∧
    (State.setSeg s id i g).fw = s.fw ∧ (State.setSeg s id i g).tr = s.tr := ⟨rfl, rfl, rfl, rfl, rfl, rfl, rfl, rfl, rfl, rfl, rfl, rfl, rfl, rfl, rfl, rfl, rfl, rfl, rfl, rfl, rfl, rfl, rfl, rfl, rfl, rfl⟩

@[simp] theorem State.collide_keeps (s : State) (cycle : Nat) :
    (State.collide s cycle).clk = s.clk ∧ (State.collide s cycle).env = s.env ∧ (State.collide s cycle).actor = s.actor ∧
    (State.collide s cycle).regs = s.regs ∧ (State.collide s cycle).ctl = s.ctl ∧ (State.collide s cycle).code = s.code ∧
    (State.collide s cycle).sx = s.sx ∧ (State.collide s cycle).trap = s.trap ∧ (State.collide s cycle).iss = s.iss ∧
    (State.collide s cycle).cmp = s.cmp ∧ (State.collide s cycle).cv = s.cv ∧ (State.collide s cycle).cm = s.cm ∧
    (State.collide s cycle).cc = s.cc ∧ (State.collide s cycle).cx = s.cx ∧ (State.collide s cycle).rs = s.rs ∧
    (State.collide s cycle).dq = s.dq ∧ (State.collide s cycle).dpend = s.dpend ∧ (State.collide s cycle).me = s.me ∧
    (State.collide s cycle).run = s.run ∧ (State.collide s cycle).sram = s.sram ∧ (State.collide s cycle).mem = s.mem ∧
    (State.collide s cycle).fab = s.fab ∧ (State.collide s cycle).sh = s.sh ∧ (State.collide s cycle).grp = s.grp ∧
    (State.collide s cycle).fw = s.fw ∧ (State.collide s cycle).tr = s.tr := ⟨rfl, rfl, rfl, rfl, rfl, rfl, rfl, rfl, rfl, rfl, rfl, rfl, rfl, rfl, rfl, rfl, rfl, rfl, rfl, rfl, rfl, rfl, rfl, rfl, rfl, rfl⟩

@[simp] theorem State.timedPart_keeps (s : State) (a d : Cap) (c : Nat) (lost : Bool) (p : Nat × Nat × Nat × Bool) :
    (State.timedPart s a d c lost p).clk = s.clk ∧ (State.timedPart s a d c lost p).env = s.env ∧
    (State.timedPart s a d c lost p).actor = s.actor ∧ (State.timedPart s a d c lost p).regs = s.regs ∧
    (State.timedPart s a d c lost p).code = s.code ∧ (State.timedPart s a d c lost p).sx = s.sx ∧
    (State.timedPart s a d c lost p).trap = s.trap ∧ (State.timedPart s a d c lost p).pend = s.pend ∧
    (State.timedPart s a d c lost p).iss = s.iss ∧ (State.timedPart s a d c lost p).cmp = s.cmp ∧
    (State.timedPart s a d c lost p).cv = s.cv ∧ (State.timedPart s a d c lost p).cm = s.cm ∧
    (State.timedPart s a d c lost p).cc = s.cc ∧ (State.timedPart s a d c lost p).cx = s.cx ∧
    (State.timedPart s a d c lost p).rs = s.rs ∧ (State.timedPart s a d c lost p).dq = s.dq ∧
    (State.timedPart s a d c lost p).dpend = s.dpend ∧ (State.timedPart s a d c lost p).me = s.me ∧
    (State.timedPart s a d c lost p).run = s.run ∧ (State.timedPart s a d c lost p).mem = s.mem ∧
    (State.timedPart s a d c lost p).fab = s.fab ∧ (State.timedPart s a d c lost p).sh = s.sh ∧
    (State.timedPart s a d c lost p).grp = s.grp ∧ (State.timedPart s a d c lost p).fw = s.fw ∧
    (State.timedPart s a d c lost p).tr = s.tr := by
  unfold State.timedPart
  (repeat' split) <;> exact ⟨rfl, rfl, rfl, rfl, rfl, rfl, rfl, rfl, rfl, rfl, rfl, rfl, rfl, rfl, rfl, rfl, rfl, rfl, rfl, rfl, rfl, rfl, rfl, rfl, rfl⟩

@[simp] theorem State.listPart_keeps (s : State) (a n : Nat) :
    (State.listPart s a n).1.clk = s.clk ∧ (State.listPart s a n).1.env = s.env ∧ (State.listPart s a n).1.actor = s.actor ∧
    (State.listPart s a n).1.regs = s.regs ∧ (State.listPart s a n).1.code = s.code ∧ (State.listPart s a n).1.sx = s.sx ∧
    (State.listPart s a n).1.trap = s.trap ∧ (State.listPart s a n).1.pend = s.pend ∧ (State.listPart s a n).1.iss = s.iss ∧
    (State.listPart s a n).1.cmp = s.cmp ∧ (State.listPart s a n).1.cv = s.cv ∧ (State.listPart s a n).1.cm = s.cm ∧
    (State.listPart s a n).1.cc = s.cc ∧ (State.listPart s a n).1.cx = s.cx ∧ (State.listPart s a n).1.rs = s.rs ∧
    (State.listPart s a n).1.dq = s.dq ∧ (State.listPart s a n).1.dpend = s.dpend ∧ (State.listPart s a n).1.me = s.me ∧
    (State.listPart s a n).1.run = s.run ∧ (State.listPart s a n).1.mem = s.mem ∧ (State.listPart s a n).1.fab = s.fab ∧
    (State.listPart s a n).1.sh = s.sh ∧ (State.listPart s a n).1.grp = s.grp ∧ (State.listPart s a n).1.fw = s.fw ∧
    (State.listPart s a n).1.tr = s.tr := by
  unfold State.listPart
  (try dsimp only)
  (repeat' split) <;> simp

@[simp] theorem State.timedList_keeps (s : State) (v : W64) (n : Nat) :
    (State.timedList s v n).1.clk = s.clk ∧ (State.timedList s v n).1.env = s.env ∧ (State.timedList s v n).1.actor = s.actor ∧
    (State.timedList s v n).1.regs = s.regs ∧ (State.timedList s v n).1.code = s.code ∧ (State.timedList s v n).1.sx = s.sx ∧
    (State.timedList s v n).1.trap = s.trap ∧ (State.timedList s v n).1.pend = s.pend ∧ (State.timedList s v n).1.iss = s.iss ∧
    (State.timedList s v n).1.cmp = s.cmp ∧ (State.timedList s v n).1.cv = s.cv ∧ (State.timedList s v n).1.cm = s.cm ∧
    (State.timedList s v n).1.cc = s.cc ∧ (State.timedList s v n).1.cx = s.cx ∧ (State.timedList s v n).1.rs = s.rs ∧
    (State.timedList s v n).1.dq = s.dq ∧ (State.timedList s v n).1.dpend = s.dpend ∧ (State.timedList s v n).1.me = s.me ∧
    (State.timedList s v n).1.run = s.run ∧ (State.timedList s v n).1.mem = s.mem ∧ (State.timedList s v n).1.fab = s.fab ∧
    (State.timedList s v n).1.sh = s.sh ∧ (State.timedList s v n).1.grp = s.grp ∧ (State.timedList s v n).1.fw = s.fw ∧
    (State.timedList s v n).1.tr = s.tr := by
  unfold State.timedList
  (try dsimp only)
  (repeat' split) <;> simp

@[simp] theorem State.regPart_keeps (s : State) (a : Cap) (c : Nat) (lost : Bool) (so do_ : Int) (m : Nat) :
    (State.regPart s a c lost so do_ m).clk = s.clk ∧ (State.regPart s a c lost so do_ m).env = s.env ∧
    (State.regPart s a c lost so do_ m).actor = s.actor ∧ (State.regPart s a c lost so do_ m).regs = s.regs ∧
    (State.regPart s a c lost so do_ m).code = s.code ∧ (State.regPart s a c lost so do_ m).sx = s.sx ∧
    (State.regPart s a c lost so do_ m).trap = s.trap ∧ (State.regPart s a c lost so do_ m).pend = s.pend ∧
    (State.regPart s a c lost so do_ m).iss = s.iss ∧ (State.regPart s a c lost so do_ m).cmp = s.cmp ∧
    (State.regPart s a c lost so do_ m).cv = s.cv ∧ (State.regPart s a c lost so do_ m).cm = s.cm ∧
    (State.regPart s a c lost so do_ m).cc = s.cc ∧ (State.regPart s a c lost so do_ m).cx = s.cx ∧
    (State.regPart s a c lost so do_ m).rs = s.rs ∧ (State.regPart s a c lost so do_ m).dq = s.dq ∧
    (State.regPart s a c lost so do_ m).dpend = s.dpend ∧ (State.regPart s a c lost so do_ m).me = s.me ∧
    (State.regPart s a c lost so do_ m).run = s.run ∧ (State.regPart s a c lost so do_ m).mem = s.mem ∧
    (State.regPart s a c lost so do_ m).fab = s.fab ∧ (State.regPart s a c lost so do_ m).sh = s.sh ∧
    (State.regPart s a c lost so do_ m).grp = s.grp ∧ (State.regPart s a c lost so do_ m).fw = s.fw ∧
    (State.regPart s a c lost so do_ m).tr = s.tr := by
  unfold State.regPart
  (try dsimp only)
  (repeat' split) <;> simp

@[simp] theorem State.regPiece_keeps (s : State) (a : Cap) (c : Nat) (lost : Bool) (n : Nat) (x y : Int) (m : Nat) :
    (State.regPiece s a c lost n x y m).clk = s.clk ∧ (State.regPiece s a c lost n x y m).env = s.env ∧
    (State.regPiece s a c lost n x y m).actor = s.actor ∧ (State.regPiece s a c lost n x y m).regs = s.regs ∧
    (State.regPiece s a c lost n x y m).code = s.code ∧ (State.regPiece s a c lost n x y m).sx = s.sx ∧
    (State.regPiece s a c lost n x y m).trap = s.trap ∧ (State.regPiece s a c lost n x y m).pend = s.pend ∧
    (State.regPiece s a c lost n x y m).iss = s.iss ∧ (State.regPiece s a c lost n x y m).cmp = s.cmp ∧
    (State.regPiece s a c lost n x y m).cv = s.cv ∧ (State.regPiece s a c lost n x y m).cm = s.cm ∧
    (State.regPiece s a c lost n x y m).cc = s.cc ∧ (State.regPiece s a c lost n x y m).cx = s.cx ∧
    (State.regPiece s a c lost n x y m).rs = s.rs ∧ (State.regPiece s a c lost n x y m).dq = s.dq ∧
    (State.regPiece s a c lost n x y m).dpend = s.dpend ∧ (State.regPiece s a c lost n x y m).me = s.me ∧
    (State.regPiece s a c lost n x y m).run = s.run ∧ (State.regPiece s a c lost n x y m).mem = s.mem ∧
    (State.regPiece s a c lost n x y m).fab = s.fab ∧ (State.regPiece s a c lost n x y m).sh = s.sh ∧
    (State.regPiece s a c lost n x y m).grp = s.grp ∧ (State.regPiece s a c lost n x y m).fw = s.fw ∧
    (State.regPiece s a c lost n x y m).tr = s.tr := by
  induction n generalizing s x y m with
  | zero => exact ⟨rfl, rfl, rfl, rfl, rfl, rfl, rfl, rfl, rfl, rfl, rfl, rfl, rfl, rfl, rfl, rfl, rfl, rfl, rfl, rfl, rfl, rfl, rfl, rfl, rfl⟩
  | succ n ih =>
    simp only [State.regPiece]
    (repeat' split) <;> simp [ih]

@[simp] theorem State.bound_keeps (s : State) (e : Engine) (info : W64) (again_ : Bool) :
    (State.bound s e info again_).clk = s.clk ∧ (State.bound s e info again_).env = s.env ∧
    (State.bound s e info again_).actor = s.actor ∧ (State.bound s e info again_).regs = s.regs ∧
    (State.bound s e info again_).code = s.code ∧ (State.bound s e info again_).pend = s.pend ∧
    (State.bound s e info again_).iss = s.iss ∧ (State.bound s e info again_).cmp = s.cmp ∧ (State.bound s e info again_).cx = s.cx ∧
    (State.bound s e info again_).rs = s.rs ∧ (State.bound s e info again_).dq = s.dq ∧
    (State.bound s e info again_).dpend = s.dpend ∧ (State.bound s e info again_).me = s.me ∧
    (State.bound s e info again_).sram = s.sram ∧ (State.bound s e info again_).mem = s.mem ∧
    (State.bound s e info again_).fab = s.fab ∧ (State.bound s e info again_).sh = s.sh ∧ (State.bound s e info again_).grp = s.grp ∧
    (State.bound s e info again_).fw = s.fw ∧ (State.bound s e info again_).tr = s.tr := by simp [State.bound]

@[simp] theorem State.setCfg_keeps (s : State) (k : Nat) (c : BankCfg) :
    (State.setCfg s k c).clk = s.clk ∧ (State.setCfg s k c).env = s.env ∧ (State.setCfg s k c).actor = s.actor ∧
    (State.setCfg s k c).regs = s.regs ∧ (State.setCfg s k c).ctl = s.ctl ∧ (State.setCfg s k c).code = s.code ∧
    (State.setCfg s k c).sx = s.sx ∧ (State.setCfg s k c).trap = s.trap ∧ (State.setCfg s k c).pend = s.pend ∧
    (State.setCfg s k c).iss = s.iss ∧ (State.setCfg s k c).cmp = s.cmp ∧ (State.setCfg s k c).cv = s.cv ∧
    (State.setCfg s k c).cm = s.cm ∧ (State.setCfg s k c).cc = s.cc ∧ (State.setCfg s k c).cx = s.cx ∧
    (State.setCfg s k c).rs = s.rs ∧ (State.setCfg s k c).dq = s.dq ∧ (State.setCfg s k c).dpend = s.dpend ∧
    (State.setCfg s k c).me = s.me ∧ (State.setCfg s k c).run = s.run ∧ (State.setCfg s k c).mem = s.mem ∧
    (State.setCfg s k c).fab = s.fab ∧ (State.setCfg s k c).sh = s.sh ∧ (State.setCfg s k c).grp = s.grp ∧
    (State.setCfg s k c).fw = s.fw ∧ (State.setCfg s k c).tr = s.tr := ⟨rfl, rfl, rfl, rfl, rfl, rfl, rfl, rfl, rfl, rfl, rfl, rfl, rfl, rfl, rfl, rfl, rfl, rfl, rfl, rfl, rfl, rfl, rfl, rfl, rfl, rfl⟩

@[simp] theorem State.openBank_keeps (s : State) (c : BankChange) :
    (State.openBank s c).clk = s.clk ∧ (State.openBank s c).env = s.env ∧ (State.openBank s c).actor = s.actor ∧
    (State.openBank s c).regs = s.regs ∧ (State.openBank s c).ctl = s.ctl ∧ (State.openBank s c).code = s.code ∧
    (State.openBank s c).sx = s.sx ∧ (State.openBank s c).trap = s.trap ∧ (State.openBank s c).pend = s.pend ∧
    (State.openBank s c).iss = s.iss ∧ (State.openBank s c).cmp = s.cmp ∧ (State.openBank s c).cv = s.cv ∧
    (State.openBank s c).cm = s.cm ∧ (State.openBank s c).cc = s.cc ∧ (State.openBank s c).cx = s.cx ∧
    (State.openBank s c).rs = s.rs ∧ (State.openBank s c).dq = s.dq ∧ (State.openBank s c).dpend = s.dpend ∧
    (State.openBank s c).me = s.me ∧ (State.openBank s c).run = s.run ∧ (State.openBank s c).mem = s.mem ∧
    (State.openBank s c).fab = s.fab ∧ (State.openBank s c).sh = s.sh ∧ (State.openBank s c).grp = s.grp ∧
    (State.openBank s c).fw = s.fw ∧ (State.openBank s c).tr = s.tr := ⟨rfl, rfl, rfl, rfl, rfl, rfl, rfl, rfl, rfl, rfl, rfl, rfl, rfl, rfl, rfl, rfl, rfl, rfl, rfl, rfl, rfl, rfl, rfl, rfl, rfl, rfl⟩

@[simp] theorem State.startInv_keeps (s : State) (scope target : Nat) :
    (State.startInv s scope target).clk = s.clk ∧ (State.startInv s scope target).env = s.env ∧
    (State.startInv s scope target).actor = s.actor ∧ (State.startInv s scope target).regs = s.regs ∧
    (State.startInv s scope target).ctl = s.ctl ∧ (State.startInv s scope target).code = s.code ∧
    (State.startInv s scope target).sx = s.sx ∧ (State.startInv s scope target).trap = s.trap ∧
    (State.startInv s scope target).pend = s.pend ∧ (State.startInv s scope target).iss = s.iss ∧
    (State.startInv s scope target).cmp = s.cmp ∧ (State.startInv s scope target).cv = s.cv ∧
    (State.startInv s scope target).cm = s.cm ∧ (State.startInv s scope target).cc = s.cc ∧
    (State.startInv s scope target).cx = s.cx ∧ (State.startInv s scope target).rs = s.rs ∧
    (State.startInv s scope target).dq = s.dq ∧ (State.startInv s scope target).dpend = s.dpend ∧
    (State.startInv s scope target).me = s.me ∧ (State.startInv s scope target).run = s.run ∧
    (State.startInv s scope target).sram = s.sram ∧ (State.startInv s scope target).fab = s.fab ∧
    (State.startInv s scope target).sh = s.sh ∧ (State.startInv s scope target).grp = s.grp ∧
    (State.startInv s scope target).fw = s.fw ∧ (State.startInv s scope target).tr = s.tr := by
  unfold State.startInv
  (repeat' split) <;> exact ⟨rfl, rfl, rfl, rfl, rfl, rfl, rfl, rfl, rfl, rfl, rfl, rfl, rfl, rfl, rfl, rfl, rfl, rfl, rfl, rfl, rfl, rfl, rfl, rfl, rfl, rfl⟩

@[simp] theorem State.writeEntry_keeps (s : State) (id : Nat) (e : Option ObjEntry) :
    (State.writeEntry s id e).clk = s.clk ∧ (State.writeEntry s id e).env = s.env ∧ (State.writeEntry s id e).actor = s.actor ∧
    (State.writeEntry s id e).regs = s.regs ∧ (State.writeEntry s id e).ctl = s.ctl ∧ (State.writeEntry s id e).code = s.code ∧
    (State.writeEntry s id e).sx = s.sx ∧ (State.writeEntry s id e).trap = s.trap ∧ (State.writeEntry s id e).pend = s.pend ∧
    (State.writeEntry s id e).iss = s.iss ∧ (State.writeEntry s id e).cmp = s.cmp ∧ (State.writeEntry s id e).cv = s.cv ∧
    (State.writeEntry s id e).cm = s.cm ∧ (State.writeEntry s id e).cc = s.cc ∧ (State.writeEntry s id e).cx = s.cx ∧
    (State.writeEntry s id e).rs = s.rs ∧ (State.writeEntry s id e).dq = s.dq ∧ (State.writeEntry s id e).dpend = s.dpend ∧
    (State.writeEntry s id e).me = s.me ∧ (State.writeEntry s id e).run = s.run ∧ (State.writeEntry s id e).sram = s.sram ∧
    (State.writeEntry s id e).fab = s.fab ∧ (State.writeEntry s id e).sh = s.sh ∧ (State.writeEntry s id e).grp = s.grp ∧
    (State.writeEntry s id e).fw = s.fw ∧ (State.writeEntry s id e).tr = s.tr := ⟨rfl, rfl, rfl, rfl, rfl, rfl, rfl, rfl, rfl, rfl, rfl, rfl, rfl, rfl, rfl, rfl, rfl, rfl, rfl, rfl, rfl, rfl, rfl, rfl, rfl, rfl⟩

@[simp] theorem State.setEntry_keeps (s : State) (id : Nat) (e : Option ObjEntry) :
    (State.setEntry s id e).clk = s.clk ∧ (State.setEntry s id e).env = s.env ∧ (State.setEntry s id e).actor = s.actor ∧
    (State.setEntry s id e).regs = s.regs ∧ (State.setEntry s id e).ctl = s.ctl ∧ (State.setEntry s id e).code = s.code ∧
    (State.setEntry s id e).sx = s.sx ∧ (State.setEntry s id e).trap = s.trap ∧ (State.setEntry s id e).pend = s.pend ∧
    (State.setEntry s id e).iss = s.iss ∧ (State.setEntry s id e).cmp = s.cmp ∧ (State.setEntry s id e).cv = s.cv ∧
    (State.setEntry s id e).cm = s.cm ∧ (State.setEntry s id e).cc = s.cc ∧ (State.setEntry s id e).cx = s.cx ∧
    (State.setEntry s id e).rs = s.rs ∧ (State.setEntry s id e).dq = s.dq ∧ (State.setEntry s id e).dpend = s.dpend ∧
    (State.setEntry s id e).me = s.me ∧ (State.setEntry s id e).run = s.run ∧ (State.setEntry s id e).sram = s.sram ∧
    (State.setEntry s id e).fab = s.fab ∧ (State.setEntry s id e).sh = s.sh ∧ (State.setEntry s id e).grp = s.grp ∧
    (State.setEntry s id e).fw = s.fw ∧ (State.setEntry s id e).tr = s.tr := ⟨rfl, rfl, rfl, rfl, rfl, rfl, rfl, rfl, rfl, rfl, rfl, rfl, rfl, rfl, rfl, rfl, rfl, rfl, rfl, rfl, rfl, rfl, rfl, rfl, rfl, rfl⟩

@[simp] theorem State.setPool_keeps (s : State) (vi : Nat) (p : Pool) :
    (State.setPool s vi p).clk = s.clk ∧ (State.setPool s vi p).env = s.env ∧ (State.setPool s vi p).actor = s.actor ∧
    (State.setPool s vi p).regs = s.regs ∧ (State.setPool s vi p).ctl = s.ctl ∧ (State.setPool s vi p).code = s.code ∧
    (State.setPool s vi p).sx = s.sx ∧ (State.setPool s vi p).trap = s.trap ∧ (State.setPool s vi p).pend = s.pend ∧
    (State.setPool s vi p).iss = s.iss ∧ (State.setPool s vi p).cmp = s.cmp ∧ (State.setPool s vi p).cv = s.cv ∧
    (State.setPool s vi p).cm = s.cm ∧ (State.setPool s vi p).cc = s.cc ∧ (State.setPool s vi p).cx = s.cx ∧
    (State.setPool s vi p).rs = s.rs ∧ (State.setPool s vi p).dq = s.dq ∧ (State.setPool s vi p).dpend = s.dpend ∧
    (State.setPool s vi p).me = s.me ∧ (State.setPool s vi p).run = s.run ∧ (State.setPool s vi p).sram = s.sram ∧
    (State.setPool s vi p).fab = s.fab ∧ (State.setPool s vi p).sh = s.sh ∧ (State.setPool s vi p).grp = s.grp ∧
    (State.setPool s vi p).fw = s.fw ∧ (State.setPool s vi p).tr = s.tr := ⟨rfl, rfl, rfl, rfl, rfl, rfl, rfl, rfl, rfl, rfl, rfl, rfl, rfl, rfl, rfl, rfl, rfl, rfl, rfl, rfl, rfl, rfl, rfl, rfl, rfl, rfl⟩

@[simp] theorem State.joinLease_keeps (s : State) (id : Nat) :
    (State.joinLease s id).clk = s.clk ∧ (State.joinLease s id).env = s.env ∧ (State.joinLease s id).actor = s.actor ∧
    (State.joinLease s id).regs = s.regs ∧ (State.joinLease s id).ctl = s.ctl ∧ (State.joinLease s id).code = s.code ∧
    (State.joinLease s id).sx = s.sx ∧ (State.joinLease s id).trap = s.trap ∧ (State.joinLease s id).pend = s.pend ∧
    (State.joinLease s id).iss = s.iss ∧ (State.joinLease s id).cmp = s.cmp ∧ (State.joinLease s id).cv = s.cv ∧
    (State.joinLease s id).cm = s.cm ∧ (State.joinLease s id).cc = s.cc ∧ (State.joinLease s id).cx = s.cx ∧
    (State.joinLease s id).rs = s.rs ∧ (State.joinLease s id).dq = s.dq ∧ (State.joinLease s id).dpend = s.dpend ∧
    (State.joinLease s id).me = s.me ∧ (State.joinLease s id).run = s.run ∧ (State.joinLease s id).sram = s.sram ∧
    (State.joinLease s id).mem = s.mem ∧ (State.joinLease s id).fab = s.fab ∧ (State.joinLease s id).sh = s.sh ∧
    (State.joinLease s id).grp = s.grp ∧ (State.joinLease s id).tr = s.tr := ⟨rfl, rfl, rfl, rfl, rfl, rfl, rfl, rfl, rfl, rfl, rfl, rfl, rfl, rfl, rfl, rfl, rfl, rfl, rfl, rfl, rfl, rfl, rfl, rfl, rfl, rfl⟩

@[simp] theorem State.releaseBolt_keeps (s : State) (r : BoltRel) :
    (State.releaseBolt s r).clk = s.clk ∧ (State.releaseBolt s r).env = s.env ∧ (State.releaseBolt s r).actor = s.actor ∧
    (State.releaseBolt s r).regs = s.regs ∧ (State.releaseBolt s r).ctl = s.ctl ∧ (State.releaseBolt s r).code = s.code ∧
    (State.releaseBolt s r).sx = s.sx ∧ (State.releaseBolt s r).trap = s.trap ∧ (State.releaseBolt s r).pend = s.pend ∧
    (State.releaseBolt s r).iss = s.iss ∧ (State.releaseBolt s r).cmp = s.cmp ∧ (State.releaseBolt s r).cv = s.cv ∧
    (State.releaseBolt s r).cm = s.cm ∧ (State.releaseBolt s r).cc = s.cc ∧ (State.releaseBolt s r).cx = s.cx ∧
    (State.releaseBolt s r).rs = s.rs ∧ (State.releaseBolt s r).dq = s.dq ∧ (State.releaseBolt s r).dpend = s.dpend ∧
    (State.releaseBolt s r).me = s.me ∧ (State.releaseBolt s r).run = s.run ∧ (State.releaseBolt s r).sram = s.sram ∧
    (State.releaseBolt s r).fab = s.fab ∧ (State.releaseBolt s r).sh = s.sh ∧ (State.releaseBolt s r).grp = s.grp ∧
    (State.releaseBolt s r).fw = s.fw ∧ (State.releaseBolt s r).tr = s.tr := ⟨rfl, rfl, rfl, rfl, rfl, rfl, rfl, rfl, rfl, rfl, rfl, rfl, rfl, rfl, rfl, rfl, rfl, rfl, rfl, rfl, rfl, rfl, rfl, rfl, rfl, rfl⟩

@[simp] theorem State.fabricPart_keeps (s : State) (k : Ask) (t c slot : Nat) (lost : Bool) (x : Nat × Nat × Nat × Bool) :
    (State.fabricPart s k t c slot lost x).clk = s.clk ∧ (State.fabricPart s k t c slot lost x).env = s.env ∧
    (State.fabricPart s k t c slot lost x).actor = s.actor ∧ (State.fabricPart s k t c slot lost x).regs = s.regs ∧
    (State.fabricPart s k t c slot lost x).code = s.code ∧ (State.fabricPart s k t c slot lost x).sx = s.sx ∧
    (State.fabricPart s k t c slot lost x).trap = s.trap ∧ (State.fabricPart s k t c slot lost x).pend = s.pend ∧
    (State.fabricPart s k t c slot lost x).iss = s.iss ∧ (State.fabricPart s k t c slot lost x).cmp = s.cmp ∧
    (State.fabricPart s k t c slot lost x).cv = s.cv ∧ (State.fabricPart s k t c slot lost x).cm = s.cm ∧
    (State.fabricPart s k t c slot lost x).cc = s.cc ∧ (State.fabricPart s k t c slot lost x).cx = s.cx ∧
    (State.fabricPart s k t c slot lost x).rs = s.rs ∧ (State.fabricPart s k t c slot lost x).dq = s.dq ∧
    (State.fabricPart s k t c slot lost x).dpend = s.dpend ∧ (State.fabricPart s k t c slot lost x).me = s.me ∧
    (State.fabricPart s k t c slot lost x).run = s.run ∧ (State.fabricPart s k t c slot lost x).mem = s.mem ∧
    (State.fabricPart s k t c slot lost x).sh = s.sh ∧ (State.fabricPart s k t c slot lost x).grp = s.grp ∧
    (State.fabricPart s k t c slot lost x).fw = s.fw ∧ (State.fabricPart s k t c slot lost x).tr = s.tr := by
  unfold State.fabricPart
  (try dsimp only)
  (repeat' split) <;> simp

@[simp] theorem State.fabEffect_keeps (s : State) (d : FabData) :
    (State.fabEffect s d).clk = s.clk ∧ (State.fabEffect s d).actor = s.actor ∧ (State.fabEffect s d).regs = s.regs ∧
    (State.fabEffect s d).ctl = s.ctl ∧ (State.fabEffect s d).code = s.code ∧ (State.fabEffect s d).sx = s.sx ∧
    (State.fabEffect s d).trap = s.trap ∧ (State.fabEffect s d).pend = s.pend ∧ (State.fabEffect s d).iss = s.iss ∧
    (State.fabEffect s d).cmp = s.cmp ∧ (State.fabEffect s d).cv = s.cv ∧ (State.fabEffect s d).cm = s.cm ∧
    (State.fabEffect s d).cc = s.cc ∧ (State.fabEffect s d).cx = s.cx ∧ (State.fabEffect s d).rs = s.rs ∧
    (State.fabEffect s d).dq = s.dq ∧ (State.fabEffect s d).dpend = s.dpend ∧ (State.fabEffect s d).me = s.me ∧
    (State.fabEffect s d).run = s.run ∧ (State.fabEffect s d).mem = s.mem ∧ (State.fabEffect s d).sh = s.sh ∧
    (State.fabEffect s d).grp = s.grp ∧ (State.fabEffect s d).fw = s.fw ∧ (State.fabEffect s d).tr = s.tr := by
  unfold State.fabEffect
  (repeat' split) <;> exact ⟨rfl, rfl, rfl, rfl, rfl, rfl, rfl, rfl, rfl, rfl, rfl, rfl, rfl, rfl, rfl, rfl, rfl, rfl, rfl, rfl, rfl, rfl, rfl, rfl⟩

@[simp] theorem State.callDone_keeps (s : State) (g n : Nat) :
    (State.callDone s g n).clk = s.clk ∧ (State.callDone s g n).env = s.env ∧ (State.callDone s g n).actor = s.actor ∧
    (State.callDone s g n).regs = s.regs ∧ (State.callDone s g n).ctl = s.ctl ∧ (State.callDone s g n).code = s.code ∧
    (State.callDone s g n).sx = s.sx ∧ (State.callDone s g n).trap = s.trap ∧ (State.callDone s g n).pend = s.pend ∧
    (State.callDone s g n).iss = s.iss ∧ (State.callDone s g n).cmp = s.cmp ∧ (State.callDone s g n).cv = s.cv ∧
    (State.callDone s g n).cm = s.cm ∧ (State.callDone s g n).cx = s.cx ∧ (State.callDone s g n).rs = s.rs ∧
    (State.callDone s g n).dq = s.dq ∧ (State.callDone s g n).dpend = s.dpend ∧ (State.callDone s g n).me = s.me ∧
    (State.callDone s g n).run = s.run ∧ (State.callDone s g n).sram = s.sram ∧ (State.callDone s g n).mem = s.mem ∧
    (State.callDone s g n).fab = s.fab ∧ (State.callDone s g n).sh = s.sh ∧ (State.callDone s g n).grp = s.grp ∧
    (State.callDone s g n).fw = s.fw ∧ (State.callDone s g n).tr = s.tr := ⟨rfl, rfl, rfl, rfl, rfl, rfl, rfl, rfl, rfl, rfl, rfl, rfl, rfl, rfl, rfl, rfl, rfl, rfl, rfl, rfl, rfl, rfl, rfl, rfl, rfl, rfl⟩

@[simp] theorem State.pieceReq_keeps (s : State) (p : Piece) (cycle : Nat) (act : TReqDo) :
    (State.pieceReq s p cycle act).clk = s.clk ∧ (State.pieceReq s p cycle act).env = s.env ∧
    (State.pieceReq s p cycle act).actor = s.actor ∧ (State.pieceReq s p cycle act).regs = s.regs ∧
    (State.pieceReq s p cycle act).ctl = s.ctl ∧ (State.pieceReq s p cycle act).code = s.code ∧
    (State.pieceReq s p cycle act).sx = s.sx ∧ (State.pieceReq s p cycle act).trap = s.trap ∧
    (State.pieceReq s p cycle act).pend = s.pend ∧ (State.pieceReq s p cycle act).iss = s.iss ∧
    (State.pieceReq s p cycle act).cmp = s.cmp ∧ (State.pieceReq s p cycle act).cv = s.cv ∧ (State.pieceReq s p cycle act).cm = s.cm ∧
    (State.pieceReq s p cycle act).cc = s.cc ∧ (State.pieceReq s p cycle act).cx = s.cx ∧ (State.pieceReq s p cycle act).rs = s.rs ∧
    (State.pieceReq s p cycle act).dq = s.dq ∧ (State.pieceReq s p cycle act).dpend = s.dpend ∧
    (State.pieceReq s p cycle act).me = s.me ∧ (State.pieceReq s p cycle act).run = s.run ∧
    (State.pieceReq s p cycle act).mem = s.mem ∧ (State.pieceReq s p cycle act).fab = s.fab ∧
    (State.pieceReq s p cycle act).sh = s.sh ∧ (State.pieceReq s p cycle act).grp = s.grp ∧ (State.pieceReq s p cycle act).fw = s.fw ∧
    (State.pieceReq s p cycle act).tr = s.tr := ⟨rfl, rfl, rfl, rfl, rfl, rfl, rfl, rfl, rfl, rfl, rfl, rfl, rfl, rfl, rfl, rfl, rfl, rfl, rfl, rfl, rfl, rfl, rfl, rfl, rfl, rfl⟩

@[simp] theorem State.trimDeparted_keeps (s : State) :
    (State.trimDeparted s).clk = s.clk ∧ (State.trimDeparted s).env = s.env ∧ (State.trimDeparted s).actor = s.actor ∧
    (State.trimDeparted s).regs = s.regs ∧ (State.trimDeparted s).ctl = s.ctl ∧ (State.trimDeparted s).code = s.code ∧
    (State.trimDeparted s).sx = s.sx ∧ (State.trimDeparted s).trap = s.trap ∧ (State.trimDeparted s).pend = s.pend ∧
    (State.trimDeparted s).iss = s.iss ∧ (State.trimDeparted s).cmp = s.cmp ∧ (State.trimDeparted s).cv = s.cv ∧
    (State.trimDeparted s).cm = s.cm ∧ (State.trimDeparted s).cc = s.cc ∧ (State.trimDeparted s).cx = s.cx ∧
    (State.trimDeparted s).rs = s.rs ∧ (State.trimDeparted s).dq = s.dq ∧ (State.trimDeparted s).dpend = s.dpend ∧
    (State.trimDeparted s).me = s.me ∧ (State.trimDeparted s).run = s.run ∧ (State.trimDeparted s).sram = s.sram ∧
    (State.trimDeparted s).mem = s.mem ∧ (State.trimDeparted s).fab = s.fab ∧ (State.trimDeparted s).grp = s.grp ∧
    (State.trimDeparted s).fw = s.fw ∧ (State.trimDeparted s).tr = s.tr := ⟨rfl, rfl, rfl, rfl, rfl, rfl, rfl, rfl, rfl, rfl, rfl, rfl, rfl, rfl, rfl, rfl, rfl, rfl, rfl, rfl, rfl, rfl, rfl, rfl, rfl, rfl⟩

@[simp] theorem State.endVisit_keeps (s : State) (v : Visit) :
    (State.endVisit s v).clk = s.clk ∧ (State.endVisit s v).env = s.env ∧ (State.endVisit s v).actor = s.actor ∧
    (State.endVisit s v).regs = s.regs ∧ (State.endVisit s v).ctl = s.ctl ∧ (State.endVisit s v).code = s.code ∧
    (State.endVisit s v).sx = s.sx ∧ (State.endVisit s v).trap = s.trap ∧ (State.endVisit s v).pend = s.pend ∧
    (State.endVisit s v).iss = s.iss ∧ (State.endVisit s v).cmp = s.cmp ∧ (State.endVisit s v).cv = s.cv ∧
    (State.endVisit s v).cm = s.cm ∧ (State.endVisit s v).cc = s.cc ∧ (State.endVisit s v).cx = s.cx ∧
    (State.endVisit s v).rs = s.rs ∧ (State.endVisit s v).dq = s.dq ∧ (State.endVisit s v).dpend = s.dpend ∧
    (State.endVisit s v).me = s.me ∧ (State.endVisit s v).run = s.run ∧ (State.endVisit s v).fab = s.fab ∧
    (State.endVisit s v).grp = s.grp ∧ (State.endVisit s v).fw = s.fw ∧ (State.endVisit s v).tr = s.tr := ⟨rfl, rfl, rfl, rfl, rfl, rfl, rfl, rfl, rfl, rfl, rfl, rfl, rfl, rfl, rfl, rfl, rfl, rfl, rfl, rfl, rfl, rfl, rfl, rfl⟩

@[simp] theorem State.setVisit_keeps (s : State) (v w : Visit) :
    (State.setVisit s v w).clk = s.clk ∧ (State.setVisit s v w).env = s.env ∧ (State.setVisit s v w).actor = s.actor ∧
    (State.setVisit s v w).regs = s.regs ∧ (State.setVisit s v w).ctl = s.ctl ∧ (State.setVisit s v w).code = s.code ∧
    (State.setVisit s v w).sx = s.sx ∧ (State.setVisit s v w).trap = s.trap ∧ (State.setVisit s v w).pend = s.pend ∧
    (State.setVisit s v w).iss = s.iss ∧ (State.setVisit s v w).cmp = s.cmp ∧ (State.setVisit s v w).cv = s.cv ∧
    (State.setVisit s v w).cm = s.cm ∧ (State.setVisit s v w).cc = s.cc ∧ (State.setVisit s v w).cx = s.cx ∧
    (State.setVisit s v w).rs = s.rs ∧ (State.setVisit s v w).dq = s.dq ∧ (State.setVisit s v w).dpend = s.dpend ∧
    (State.setVisit s v w).me = s.me ∧ (State.setVisit s v w).run = s.run ∧ (State.setVisit s v w).sram = s.sram ∧
    (State.setVisit s v w).mem = s.mem ∧ (State.setVisit s v w).fab = s.fab ∧ (State.setVisit s v w).grp = s.grp ∧
    (State.setVisit s v w).fw = s.fw ∧ (State.setVisit s v w).tr = s.tr := ⟨rfl, rfl, rfl, rfl, rfl, rfl, rfl, rfl, rfl, rfl, rfl, rfl, rfl, rfl, rfl, rfl, rfl, rfl, rfl, rfl, rfl, rfl, rfl, rfl, rfl, rfl⟩

@[simp] theorem State.parkVisit_keeps (s : State) (v : Visit) (code : Nat) (operand : W64) :
    (State.parkVisit s v code operand).clk = s.clk ∧ (State.parkVisit s v code operand).env = s.env ∧
    (State.parkVisit s v code operand).actor = s.actor ∧ (State.parkVisit s v code operand).regs = s.regs ∧
    (State.parkVisit s v code operand).ctl = s.ctl ∧ (State.parkVisit s v code operand).code = s.code ∧
    (State.parkVisit s v code operand).sx = s.sx ∧ (State.parkVisit s v code operand).trap = s.trap ∧
    (State.parkVisit s v code operand).pend = s.pend ∧ (State.parkVisit s v code operand).iss = s.iss ∧
    (State.parkVisit s v code operand).cmp = s.cmp ∧ (State.parkVisit s v code operand).cv = s.cv ∧
    (State.parkVisit s v code operand).cm = s.cm ∧ (State.parkVisit s v code operand).cc = s.cc ∧
    (State.parkVisit s v code operand).cx = s.cx ∧ (State.parkVisit s v code operand).rs = s.rs ∧
    (State.parkVisit s v code operand).dq = s.dq ∧ (State.parkVisit s v code operand).dpend = s.dpend ∧
    (State.parkVisit s v code operand).me = s.me ∧ (State.parkVisit s v code operand).run = s.run ∧
    (State.parkVisit s v code operand).grp = s.grp ∧ (State.parkVisit s v code operand).fw = s.fw ∧
    (State.parkVisit s v code operand).tr = s.tr := by
  unfold State.parkVisit
  (try dsimp only)
  (repeat' split) <;> simp

@[simp] theorem State.depart_keeps (s : State) (d : Nat) (sh : Shuttle) :
    (State.depart s d sh).clk = s.clk ∧ (State.depart s d sh).env = s.env ∧ (State.depart s d sh).actor = s.actor ∧
    (State.depart s d sh).regs = s.regs ∧ (State.depart s d sh).ctl = s.ctl ∧ (State.depart s d sh).code = s.code ∧
    (State.depart s d sh).sx = s.sx ∧ (State.depart s d sh).trap = s.trap ∧ (State.depart s d sh).pend = s.pend ∧
    (State.depart s d sh).iss = s.iss ∧ (State.depart s d sh).cmp = s.cmp ∧ (State.depart s d sh).cv = s.cv ∧
    (State.depart s d sh).cm = s.cm ∧ (State.depart s d sh).cc = s.cc ∧ (State.depart s d sh).cx = s.cx ∧
    (State.depart s d sh).rs = s.rs ∧ (State.depart s d sh).dq = s.dq ∧ (State.depart s d sh).dpend = s.dpend ∧
    (State.depart s d sh).me = s.me ∧ (State.depart s d sh).run = s.run ∧ (State.depart s d sh).sram = s.sram ∧
    (State.depart s d sh).mem = s.mem ∧ (State.depart s d sh).grp = s.grp ∧ (State.depart s d sh).fw = s.fw ∧
    (State.depart s d sh).tr = s.tr := ⟨rfl, rfl, rfl, rfl, rfl, rfl, rfl, rfl, rfl, rfl, rfl, rfl, rfl, rfl, rfl, rfl, rfl, rfl, rfl, rfl, rfl, rfl, rfl, rfl, rfl⟩

@[simp] theorem State.bankPut_keeps (s : State) (a : Nat) (b : List Byte) :
    (State.bankPut s a b).clk = s.clk ∧ (State.bankPut s a b).env = s.env ∧ (State.bankPut s a b).actor = s.actor ∧
    (State.bankPut s a b).regs = s.regs ∧ (State.bankPut s a b).ctl = s.ctl ∧ (State.bankPut s a b).code = s.code ∧
    (State.bankPut s a b).sx = s.sx ∧ (State.bankPut s a b).trap = s.trap ∧ (State.bankPut s a b).pend = s.pend ∧
    (State.bankPut s a b).iss = s.iss ∧ (State.bankPut s a b).cmp = s.cmp ∧ (State.bankPut s a b).cv = s.cv ∧
    (State.bankPut s a b).cm = s.cm ∧ (State.bankPut s a b).cc = s.cc ∧ (State.bankPut s a b).cx = s.cx ∧
    (State.bankPut s a b).rs = s.rs ∧ (State.bankPut s a b).dq = s.dq ∧ (State.bankPut s a b).dpend = s.dpend ∧
    (State.bankPut s a b).me = s.me ∧ (State.bankPut s a b).run = s.run ∧ (State.bankPut s a b).mem = s.mem ∧
    (State.bankPut s a b).fab = s.fab ∧ (State.bankPut s a b).sh = s.sh ∧ (State.bankPut s a b).grp = s.grp ∧
    (State.bankPut s a b).fw = s.fw ∧ (State.bankPut s a b).tr = s.tr := ⟨rfl, rfl, rfl, rfl, rfl, rfl, rfl, rfl, rfl, rfl, rfl, rfl, rfl, rfl, rfl, rfl, rfl, rfl, rfl, rfl, rfl, rfl, rfl, rfl, rfl, rfl⟩

@[simp] theorem State.bankGot_keeps (s : State) (o : BOwner) (i off : Nat) (b : List Byte) :
    (State.bankGot s o i off b).clk = s.clk ∧ (State.bankGot s o i off b).env = s.env ∧ (State.bankGot s o i off b).actor = s.actor ∧
    (State.bankGot s o i off b).regs = s.regs ∧ (State.bankGot s o i off b).ctl = s.ctl ∧ (State.bankGot s o i off b).code = s.code ∧
    (State.bankGot s o i off b).sx = s.sx ∧ (State.bankGot s o i off b).trap = s.trap ∧ (State.bankGot s o i off b).pend = s.pend ∧
    (State.bankGot s o i off b).iss = s.iss ∧ (State.bankGot s o i off b).cmp = s.cmp ∧ (State.bankGot s o i off b).cv = s.cv ∧
    (State.bankGot s o i off b).cm = s.cm ∧ (State.bankGot s o i off b).cx = s.cx ∧ (State.bankGot s o i off b).rs = s.rs ∧
    (State.bankGot s o i off b).dq = s.dq ∧ (State.bankGot s o i off b).dpend = s.dpend ∧ (State.bankGot s o i off b).me = s.me ∧
    (State.bankGot s o i off b).run = s.run ∧ (State.bankGot s o i off b).mem = s.mem ∧ (State.bankGot s o i off b).fab = s.fab ∧
    (State.bankGot s o i off b).sh = s.sh ∧ (State.bankGot s o i off b).grp = s.grp ∧ (State.bankGot s o i off b).fw = s.fw ∧
    (State.bankGot s o i off b).tr = s.tr := by
  unfold State.bankGot
  (repeat' split) <;> exact ⟨rfl, rfl, rfl, rfl, rfl, rfl, rfl, rfl, rfl, rfl, rfl, rfl, rfl, rfl, rfl, rfl, rfl, rfl, rfl, rfl, rfl, rfl, rfl, rfl, rfl⟩

@[simp] theorem State.doItem_keeps (s : State) (x : BItem) :
    (State.doItem s x).clk = s.clk ∧ (State.doItem s x).env = s.env ∧ (State.doItem s x).actor = s.actor ∧
    (State.doItem s x).regs = s.regs ∧ (State.doItem s x).code = s.code ∧ (State.doItem s x).sx = s.sx ∧
    (State.doItem s x).trap = s.trap ∧ (State.doItem s x).pend = s.pend ∧ (State.doItem s x).iss = s.iss ∧
    (State.doItem s x).cmp = s.cmp ∧ (State.doItem s x).cv = s.cv ∧ (State.doItem s x).cm = s.cm ∧ (State.doItem s x).cx = s.cx ∧
    (State.doItem s x).rs = s.rs ∧ (State.doItem s x).dq = s.dq ∧ (State.doItem s x).dpend = s.dpend ∧ (State.doItem s x).me = s.me ∧
    (State.doItem s x).run = s.run ∧ (State.doItem s x).mem = s.mem ∧ (State.doItem s x).fab = s.fab ∧ (State.doItem s x).sh = s.sh ∧
    (State.doItem s x).grp = s.grp ∧ (State.doItem s x).fw = s.fw ∧ (State.doItem s x).tr = s.tr := by
  unfold State.doItem
  (try dsimp only)
  (repeat' split) <;> simp

@[simp] theorem State.fullRatio_keeps (s : State) :
    (State.fullRatio s).clk = s.clk ∧ (State.fullRatio s).env = s.env ∧ (State.fullRatio s).actor = s.actor ∧
    (State.fullRatio s).regs = s.regs ∧ (State.fullRatio s).ctl = s.ctl ∧ (State.fullRatio s).code = s.code ∧
    (State.fullRatio s).sx = s.sx ∧ (State.fullRatio s).trap = s.trap ∧ (State.fullRatio s).pend = s.pend ∧
    (State.fullRatio s).iss = s.iss ∧ (State.fullRatio s).cmp = s.cmp ∧ (State.fullRatio s).cv = s.cv ∧
    (State.fullRatio s).cm = s.cm ∧ (State.fullRatio s).cc = s.cc ∧ (State.fullRatio s).cx = s.cx ∧ (State.fullRatio s).rs = s.rs ∧
    (State.fullRatio s).dq = s.dq ∧ (State.fullRatio s).dpend = s.dpend ∧ (State.fullRatio s).me = s.me ∧
    (State.fullRatio s).run = s.run ∧ (State.fullRatio s).sram = s.sram ∧ (State.fullRatio s).mem = s.mem ∧
    (State.fullRatio s).fab = s.fab ∧ (State.fullRatio s).sh = s.sh ∧ (State.fullRatio s).grp = s.grp ∧
    (State.fullRatio s).tr = s.tr := ⟨rfl, rfl, rfl, rfl, rfl, rfl, rfl, rfl, rfl, rfl, rfl, rfl, rfl, rfl, rfl, rfl, rfl, rfl, rfl, rfl, rfl, rfl, rfl, rfl, rfl, rfl⟩

@[simp] theorem State.failOver_keeps (s : State) :
    (State.failOver s).clk = s.clk ∧ (State.failOver s).env = s.env ∧ (State.failOver s).actor = s.actor ∧
    (State.failOver s).regs = s.regs ∧ (State.failOver s).ctl = s.ctl ∧ (State.failOver s).code = s.code ∧
    (State.failOver s).sx = s.sx ∧ (State.failOver s).trap = s.trap ∧ (State.failOver s).pend = s.pend ∧
    (State.failOver s).iss = s.iss ∧ (State.failOver s).cmp = s.cmp ∧ (State.failOver s).cv = s.cv ∧ (State.failOver s).cm = s.cm ∧
    (State.failOver s).cc = s.cc ∧ (State.failOver s).cx = s.cx ∧ (State.failOver s).rs = s.rs ∧ (State.failOver s).dq = s.dq ∧
    (State.failOver s).dpend = s.dpend ∧ (State.failOver s).me = s.me ∧ (State.failOver s).run = s.run ∧
    (State.failOver s).sram = s.sram ∧ (State.failOver s).mem = s.mem ∧ (State.failOver s).sh = s.sh ∧ (State.failOver s).fw = s.fw ∧
    (State.failOver s).tr = s.tr := ⟨rfl, rfl, rfl, rfl, rfl, rfl, rfl, rfl, rfl, rfl, rfl, rfl, rfl, rfl, rfl, rfl, rfl, rfl, rfl, rfl, rfl, rfl, rfl, rfl, rfl⟩

@[simp] theorem State.endRun_keeps (s : State) :
    (State.endRun s).clk = s.clk ∧ (State.endRun s).env = s.env ∧ (State.endRun s).actor = s.actor ∧ (State.endRun s).ctl = s.ctl ∧
    (State.endRun s).code = s.code ∧ (State.endRun s).trap = s.trap ∧ (State.endRun s).pend = s.pend ∧ (State.endRun s).iss = s.iss ∧
    (State.endRun s).cmp = s.cmp ∧ (State.endRun s).cx = s.cx ∧ (State.endRun s).rs = s.rs ∧ (State.endRun s).dq = s.dq ∧
    (State.endRun s).dpend = s.dpend ∧ (State.endRun s).me = s.me ∧ (State.endRun s).sram = s.sram ∧ (State.endRun s).mem = s.mem ∧
    (State.endRun s).fab = s.fab ∧ (State.endRun s).sh = s.sh ∧ (State.endRun s).grp = s.grp ∧ (State.endRun s).fw = s.fw ∧
    (State.endRun s).tr = s.tr := ⟨rfl, rfl, rfl, rfl, rfl, rfl, rfl, rfl, rfl, rfl, rfl, rfl, rfl, rfl, rfl, rfl, rfl, rfl, rfl, rfl, rfl⟩

@[simp] theorem State.meet_keeps (s : State) (g : Nat) :
    (State.meet s g).clk = s.clk ∧ (State.meet s g).env = s.env ∧ (State.meet s g).actor = s.actor ∧ (State.meet s g).regs = s.regs ∧
    (State.meet s g).ctl = s.ctl ∧ (State.meet s g).code = s.code ∧ (State.meet s g).sx = s.sx ∧ (State.meet s g).trap = s.trap ∧
    (State.meet s g).pend = s.pend ∧ (State.meet s g).iss = s.iss ∧ (State.meet s g).cmp = s.cmp ∧ (State.meet s g).cv = s.cv ∧
    (State.meet s g).cm = s.cm ∧ (State.meet s g).cc = s.cc ∧ (State.meet s g).cx = s.cx ∧ (State.meet s g).rs = s.rs ∧
    (State.meet s g).dq = s.dq ∧ (State.meet s g).dpend = s.dpend ∧ (State.meet s g).me = s.me ∧ (State.meet s g).run = s.run ∧
    (State.meet s g).sram = s.sram ∧ (State.meet s g).mem = s.mem ∧ (State.meet s g).fab = s.fab ∧ (State.meet s g).sh = s.sh ∧
    (State.meet s g).fw = s.fw ∧ (State.meet s g).tr = s.tr := by
  unfold State.meet
  (repeat' split) <;> exact ⟨rfl, rfl, rfl, rfl, rfl, rfl, rfl, rfl, rfl, rfl, rfl, rfl, rfl, rfl, rfl, rfl, rfl, rfl, rfl, rfl, rfl, rfl, rfl, rfl, rfl, rfl⟩

@[simp] theorem State.holdBack_keeps (s : State) (g : Nat) (x : Group) :
    (State.holdBack s g x).clk = s.clk ∧ (State.holdBack s g x).env = s.env ∧ (State.holdBack s g x).actor = s.actor ∧
    (State.holdBack s g x).regs = s.regs ∧ (State.holdBack s g x).ctl = s.ctl ∧ (State.holdBack s g x).code = s.code ∧
    (State.holdBack s g x).sx = s.sx ∧ (State.holdBack s g x).trap = s.trap ∧ (State.holdBack s g x).pend = s.pend ∧
    (State.holdBack s g x).iss = s.iss ∧ (State.holdBack s g x).cmp = s.cmp ∧ (State.holdBack s g x).cv = s.cv ∧
    (State.holdBack s g x).cm = s.cm ∧ (State.holdBack s g x).cc = s.cc ∧ (State.holdBack s g x).cx = s.cx ∧
    (State.holdBack s g x).rs = s.rs ∧ (State.holdBack s g x).dq = s.dq ∧ (State.holdBack s g x).dpend = s.dpend ∧
    (State.holdBack s g x).me = s.me ∧ (State.holdBack s g x).run = s.run ∧ (State.holdBack s g x).sram = s.sram ∧
    (State.holdBack s g x).mem = s.mem ∧ (State.holdBack s g x).fab = s.fab ∧ (State.holdBack s g x).sh = s.sh ∧
    (State.holdBack s g x).fw = s.fw ∧ (State.holdBack s g x).tr = s.tr := ⟨rfl, rfl, rfl, rfl, rfl, rfl, rfl, rfl, rfl, rfl, rfl, rfl, rfl, rfl, rfl, rfl, rfl, rfl, rfl, rfl, rfl, rfl, rfl, rfl, rfl, rfl⟩

@[simp] theorem State.release1_keeps (s : State) (g : Nat) :
    (State.release1 s g).clk = s.clk ∧ (State.release1 s g).env = s.env ∧ (State.release1 s g).actor = s.actor ∧
    (State.release1 s g).regs = s.regs ∧ (State.release1 s g).ctl = s.ctl ∧ (State.release1 s g).code = s.code ∧
    (State.release1 s g).sx = s.sx ∧ (State.release1 s g).trap = s.trap ∧ (State.release1 s g).pend = s.pend ∧
    (State.release1 s g).iss = s.iss ∧ (State.release1 s g).cmp = s.cmp ∧ (State.release1 s g).cv = s.cv ∧
    (State.release1 s g).cm = s.cm ∧ (State.release1 s g).cc = s.cc ∧ (State.release1 s g).cx = s.cx ∧
    (State.release1 s g).rs = s.rs ∧ (State.release1 s g).dq = s.dq ∧ (State.release1 s g).dpend = s.dpend ∧
    (State.release1 s g).me = s.me ∧ (State.release1 s g).run = s.run ∧ (State.release1 s g).sram = s.sram ∧
    (State.release1 s g).mem = s.mem ∧ (State.release1 s g).fab = s.fab ∧ (State.release1 s g).sh = s.sh ∧
    (State.release1 s g).fw = s.fw ∧ (State.release1 s g).tr = s.tr := by
  unfold State.release1
  (repeat' split) <;> exact ⟨rfl, rfl, rfl, rfl, rfl, rfl, rfl, rfl, rfl, rfl, rfl, rfl, rfl, rfl, rfl, rfl, rfl, rfl, rfl, rfl, rfl, rfl, rfl, rfl, rfl, rfl⟩

@[simp] theorem State.requestHold_keeps (s : State) (g : Nat) (miss : Bool) :
    (State.requestHold s g miss).clk = s.clk ∧ (State.requestHold s g miss).env = s.env ∧
    (State.requestHold s g miss).actor = s.actor ∧ (State.requestHold s g miss).regs = s.regs ∧
    (State.requestHold s g miss).ctl = s.ctl ∧ (State.requestHold s g miss).code = s.code ∧ (State.requestHold s g miss).sx = s.sx ∧
    (State.requestHold s g miss).trap = s.trap ∧ (State.requestHold s g miss).pend = s.pend ∧
    (State.requestHold s g miss).iss = s.iss ∧ (State.requestHold s g miss).cmp = s.cmp ∧ (State.requestHold s g miss).cv = s.cv ∧
    (State.requestHold s g miss).cm = s.cm ∧ (State.requestHold s g miss).cc = s.cc ∧ (State.requestHold s g miss).cx = s.cx ∧
    (State.requestHold s g miss).rs = s.rs ∧ (State.requestHold s g miss).dq = s.dq ∧ (State.requestHold s g miss).dpend = s.dpend ∧
    (State.requestHold s g miss).me = s.me ∧ (State.requestHold s g miss).run = s.run ∧ (State.requestHold s g miss).sram = s.sram ∧
    (State.requestHold s g miss).mem = s.mem ∧ (State.requestHold s g miss).fab = s.fab ∧ (State.requestHold s g miss).sh = s.sh ∧
    (State.requestHold s g miss).fw = s.fw ∧ (State.requestHold s g miss).tr = s.tr := by
  unfold State.requestHold
  (repeat' split) <;> exact ⟨rfl, rfl, rfl, rfl, rfl, rfl, rfl, rfl, rfl, rfl, rfl, rfl, rfl, rfl, rfl, rfl, rfl, rfl, rfl, rfl, rfl, rfl, rfl, rfl, rfl, rfl⟩

@[simp] theorem State.relift_keeps (s : State) (gx : Nat × Option Group) :
    (State.relift s gx).clk = s.clk ∧ (State.relift s gx).env = s.env ∧ (State.relift s gx).actor = s.actor ∧
    (State.relift s gx).regs = s.regs ∧ (State.relift s gx).ctl = s.ctl ∧ (State.relift s gx).code = s.code ∧
    (State.relift s gx).sx = s.sx ∧ (State.relift s gx).trap = s.trap ∧ (State.relift s gx).pend = s.pend ∧
    (State.relift s gx).iss = s.iss ∧ (State.relift s gx).cmp = s.cmp ∧ (State.relift s gx).cv = s.cv ∧
    (State.relift s gx).cm = s.cm ∧ (State.relift s gx).cc = s.cc ∧ (State.relift s gx).cx = s.cx ∧ (State.relift s gx).rs = s.rs ∧
    (State.relift s gx).dq = s.dq ∧ (State.relift s gx).dpend = s.dpend ∧ (State.relift s gx).me = s.me ∧
    (State.relift s gx).run = s.run ∧ (State.relift s gx).sram = s.sram ∧ (State.relift s gx).mem = s.mem ∧
    (State.relift s gx).fab = s.fab ∧ (State.relift s gx).sh = s.sh ∧ (State.relift s gx).fw = s.fw ∧ (State.relift s gx).tr = s.tr := by
  unfold State.relift
  (repeat' split) <;> exact ⟨rfl, rfl, rfl, rfl, rfl, rfl, rfl, rfl, rfl, rfl, rfl, rfl, rfl, rfl, rfl, rfl, rfl, rfl, rfl, rfl, rfl, rfl, rfl, rfl, rfl, rfl⟩

@[simp] theorem State.mapLaunch_keeps (s : State) (f : Launch → Launch) :
    (State.mapLaunch s f).clk = s.clk ∧ (State.mapLaunch s f).env = s.env ∧ (State.mapLaunch s f).actor = s.actor ∧
    (State.mapLaunch s f).regs = s.regs ∧ (State.mapLaunch s f).ctl = s.ctl ∧ (State.mapLaunch s f).code = s.code ∧
    (State.mapLaunch s f).sx = s.sx ∧ (State.mapLaunch s f).trap = s.trap ∧ (State.mapLaunch s f).pend = s.pend ∧
    (State.mapLaunch s f).iss = s.iss ∧ (State.mapLaunch s f).cmp = s.cmp ∧ (State.mapLaunch s f).cv = s.cv ∧
    (State.mapLaunch s f).cm = s.cm ∧ (State.mapLaunch s f).cc = s.cc ∧ (State.mapLaunch s f).cx = s.cx ∧
    (State.mapLaunch s f).rs = s.rs ∧ (State.mapLaunch s f).dq = s.dq ∧ (State.mapLaunch s f).dpend = s.dpend ∧
    (State.mapLaunch s f).me = s.me ∧ (State.mapLaunch s f).run = s.run ∧ (State.mapLaunch s f).sram = s.sram ∧
    (State.mapLaunch s f).mem = s.mem ∧ (State.mapLaunch s f).fab = s.fab ∧ (State.mapLaunch s f).sh = s.sh ∧
    (State.mapLaunch s f).grp = s.grp ∧ (State.mapLaunch s f).tr = s.tr := ⟨rfl, rfl, rfl, rfl, rfl, rfl, rfl, rfl, rfl, rfl, rfl, rfl, rfl, rfl, rfl, rfl, rfl, rfl, rfl, rfl, rfl, rfl, rfl, rfl, rfl, rfl⟩

@[simp] theorem State.endLaunch_keeps (s : State) (code : Nat) :
    (State.endLaunch s code).clk = s.clk ∧ (State.endLaunch s code).env = s.env ∧ (State.endLaunch s code).actor = s.actor ∧
    (State.endLaunch s code).regs = s.regs ∧ (State.endLaunch s code).ctl = s.ctl ∧ (State.endLaunch s code).code = s.code ∧
    (State.endLaunch s code).trap = s.trap ∧ (State.endLaunch s code).pend = s.pend ∧ (State.endLaunch s code).iss = s.iss ∧
    (State.endLaunch s code).cmp = s.cmp ∧ (State.endLaunch s code).cv = s.cv ∧ (State.endLaunch s code).cm = s.cm ∧
    (State.endLaunch s code).cc = s.cc ∧ (State.endLaunch s code).cx = s.cx ∧ (State.endLaunch s code).rs = s.rs ∧
    (State.endLaunch s code).dq = s.dq ∧ (State.endLaunch s code).dpend = s.dpend ∧ (State.endLaunch s code).me = s.me ∧
    (State.endLaunch s code).run = s.run ∧ (State.endLaunch s code).sram = s.sram ∧ (State.endLaunch s code).mem = s.mem ∧
    (State.endLaunch s code).fab = s.fab ∧ (State.endLaunch s code).sh = s.sh ∧ (State.endLaunch s code).grp = s.grp ∧
    (State.endLaunch s code).tr = s.tr := ⟨rfl, rfl, rfl, rfl, rfl, rfl, rfl, rfl, rfl, rfl, rfl, rfl, rfl, rfl, rfl, rfl, rfl, rfl, rfl, rfl, rfl, rfl, rfl, rfl, rfl⟩

@[simp] theorem State.markReady_keeps (s : State) :
    (State.markReady s).clk = s.clk ∧ (State.markReady s).env = s.env ∧ (State.markReady s).actor = s.actor ∧
    (State.markReady s).regs = s.regs ∧ (State.markReady s).ctl = s.ctl ∧ (State.markReady s).code = s.code ∧
    (State.markReady s).sx = s.sx ∧ (State.markReady s).pend = s.pend ∧ (State.markReady s).iss = s.iss ∧
    (State.markReady s).cmp = s.cmp ∧ (State.markReady s).cv = s.cv ∧ (State.markReady s).cm = s.cm ∧ (State.markReady s).cc = s.cc ∧
    (State.markReady s).cx = s.cx ∧ (State.markReady s).rs = s.rs ∧ (State.markReady s).dq = s.dq ∧
    (State.markReady s).dpend = s.dpend ∧ (State.markReady s).me = s.me ∧ (State.markReady s).run = s.run ∧
    (State.markReady s).sram = s.sram ∧ (State.markReady s).mem = s.mem ∧ (State.markReady s).fab = s.fab ∧
    (State.markReady s).sh = s.sh ∧ (State.markReady s).grp = s.grp ∧ (State.markReady s).fw = s.fw ∧ (State.markReady s).tr = s.tr := ⟨rfl, rfl, rfl, rfl, rfl, rfl, rfl, rfl, rfl, rfl, rfl, rfl, rfl, rfl, rfl, rfl, rfl, rfl, rfl, rfl, rfl, rfl, rfl, rfl, rfl, rfl⟩

@[simp] theorem State.preemptHere_keeps (s : State) :
    (State.preemptHere s).clk = s.clk ∧ (State.preemptHere s).env = s.env ∧ (State.preemptHere s).actor = s.actor ∧
    (State.preemptHere s).regs = s.regs ∧ (State.preemptHere s).ctl = s.ctl ∧ (State.preemptHere s).code = s.code ∧
    (State.preemptHere s).pend = s.pend ∧ (State.preemptHere s).iss = s.iss ∧ (State.preemptHere s).cmp = s.cmp ∧
    (State.preemptHere s).cv = s.cv ∧ (State.preemptHere s).cm = s.cm ∧ (State.preemptHere s).cc = s.cc ∧
    (State.preemptHere s).cx = s.cx ∧ (State.preemptHere s).rs = s.rs ∧ (State.preemptHere s).dq = s.dq ∧
    (State.preemptHere s).dpend = s.dpend ∧ (State.preemptHere s).me = s.me ∧ (State.preemptHere s).run = s.run ∧
    (State.preemptHere s).sram = s.sram ∧ (State.preemptHere s).mem = s.mem ∧ (State.preemptHere s).fab = s.fab ∧
    (State.preemptHere s).sh = s.sh ∧ (State.preemptHere s).grp = s.grp ∧ (State.preemptHere s).fw = s.fw ∧
    (State.preemptHere s).tr = s.tr := by
  unfold State.preemptHere
  (repeat' split) <;> exact ⟨rfl, rfl, rfl, rfl, rfl, rfl, rfl, rfl, rfl, rfl, rfl, rfl, rfl, rfl, rfl, rfl, rfl, rfl, rfl, rfl, rfl, rfl, rfl, rfl, rfl⟩

@[simp] theorem State.missTurn1_keeps (s : State) (gx : Nat × Option Group) :
    (State.missTurn1 s gx).clk = s.clk ∧ (State.missTurn1 s gx).env = s.env ∧ (State.missTurn1 s gx).actor = s.actor ∧
    (State.missTurn1 s gx).regs = s.regs ∧ (State.missTurn1 s gx).ctl = s.ctl ∧ (State.missTurn1 s gx).code = s.code ∧
    (State.missTurn1 s gx).trap = s.trap ∧ (State.missTurn1 s gx).pend = s.pend ∧ (State.missTurn1 s gx).iss = s.iss ∧
    (State.missTurn1 s gx).cmp = s.cmp ∧ (State.missTurn1 s gx).cx = s.cx ∧ (State.missTurn1 s gx).rs = s.rs ∧
    (State.missTurn1 s gx).dq = s.dq ∧ (State.missTurn1 s gx).dpend = s.dpend ∧ (State.missTurn1 s gx).me = s.me ∧
    (State.missTurn1 s gx).sram = s.sram ∧ (State.missTurn1 s gx).mem = s.mem ∧ (State.missTurn1 s gx).sh = s.sh ∧
    (State.missTurn1 s gx).tr = s.tr := by
  unfold State.missTurn1
  (try dsimp only)
  (repeat' split) <;> simp

@[simp] theorem State.setIsland_keeps (s : State) (i : Nat) (x : W64 × Option W64 × Bool) :
    (State.setIsland s i x).clk = s.clk ∧ (State.setIsland s i x).env = s.env ∧ (State.setIsland s i x).actor = s.actor ∧
    (State.setIsland s i x).regs = s.regs ∧ (State.setIsland s i x).ctl = s.ctl ∧ (State.setIsland s i x).code = s.code ∧
    (State.setIsland s i x).sx = s.sx ∧ (State.setIsland s i x).trap = s.trap ∧ (State.setIsland s i x).pend = s.pend ∧
    (State.setIsland s i x).iss = s.iss ∧ (State.setIsland s i x).cmp = s.cmp ∧ (State.setIsland s i x).cv = s.cv ∧
    (State.setIsland s i x).cm = s.cm ∧ (State.setIsland s i x).cc = s.cc ∧ (State.setIsland s i x).cx = s.cx ∧
    (State.setIsland s i x).rs = s.rs ∧ (State.setIsland s i x).dq = s.dq ∧ (State.setIsland s i x).dpend = s.dpend ∧
    (State.setIsland s i x).me = s.me ∧ (State.setIsland s i x).run = s.run ∧ (State.setIsland s i x).sram = s.sram ∧
    (State.setIsland s i x).mem = s.mem ∧ (State.setIsland s i x).fab = s.fab ∧ (State.setIsland s i x).sh = s.sh ∧
    (State.setIsland s i x).grp = s.grp ∧ (State.setIsland s i x).tr = s.tr := ⟨rfl, rfl, rfl, rfl, rfl, rfl, rfl, rfl, rfl, rfl, rfl, rfl, rfl, rfl, rfl, rfl, rfl, rfl, rfl, rfl, rfl, rfl, rfl, rfl, rfl, rfl⟩

@[simp] theorem State.landBytes_keeps (s : State) (r : TReq) (land : Nat) (dst : Tgt) (num : Nat) (b : List Byte) :
    (State.landBytes s r land dst num b).clk = s.clk ∧ (State.landBytes s r land dst num b).env = s.env ∧
    (State.landBytes s r land dst num b).actor = s.actor ∧ (State.landBytes s r land dst num b).regs = s.regs ∧
    (State.landBytes s r land dst num b).ctl = s.ctl ∧ (State.landBytes s r land dst num b).code = s.code ∧
    (State.landBytes s r land dst num b).sx = s.sx ∧ (State.landBytes s r land dst num b).trap = s.trap ∧
    (State.landBytes s r land dst num b).iss = s.iss ∧ (State.landBytes s r land dst num b).cmp = s.cmp ∧
    (State.landBytes s r land dst num b).cv = s.cv ∧ (State.landBytes s r land dst num b).cm = s.cm ∧
    (State.landBytes s r land dst num b).cc = s.cc ∧ (State.landBytes s r land dst num b).cx = s.cx ∧
    (State.landBytes s r land dst num b).rs = s.rs ∧ (State.landBytes s r land dst num b).dq = s.dq ∧
    (State.landBytes s r land dst num b).dpend = s.dpend ∧ (State.landBytes s r land dst num b).me = s.me ∧
    (State.landBytes s r land dst num b).run = s.run ∧ (State.landBytes s r land dst num b).mem = s.mem ∧
    (State.landBytes s r land dst num b).fab = s.fab ∧ (State.landBytes s r land dst num b).sh = s.sh ∧
    (State.landBytes s r land dst num b).grp = s.grp ∧ (State.landBytes s r land dst num b).fw = s.fw ∧
    (State.landBytes s r land dst num b).tr = s.tr := by
  unfold State.landBytes
  (repeat' split) <;> exact ⟨rfl, rfl, rfl, rfl, rfl, rfl, rfl, rfl, rfl, rfl, rfl, rfl, rfl, rfl, rfl, rfl, rfl, rfl, rfl, rfl, rfl, rfl, rfl, rfl, rfl⟩

@[simp] theorem State.fillRead_keeps (s : State) (fill n : Nat) (b : List Byte) :
    (State.fillRead s fill n b).clk = s.clk ∧ (State.fillRead s fill n b).env = s.env ∧ (State.fillRead s fill n b).actor = s.actor ∧
    (State.fillRead s fill n b).regs = s.regs ∧ (State.fillRead s fill n b).ctl = s.ctl ∧ (State.fillRead s fill n b).code = s.code ∧
    (State.fillRead s fill n b).sx = s.sx ∧ (State.fillRead s fill n b).trap = s.trap ∧ (State.fillRead s fill n b).pend = s.pend ∧
    (State.fillRead s fill n b).iss = s.iss ∧ (State.fillRead s fill n b).cmp = s.cmp ∧ (State.fillRead s fill n b).cv = s.cv ∧
    (State.fillRead s fill n b).cm = s.cm ∧ (State.fillRead s fill n b).cc = s.cc ∧ (State.fillRead s fill n b).cx = s.cx ∧
    (State.fillRead s fill n b).dq = s.dq ∧ (State.fillRead s fill n b).dpend = s.dpend ∧ (State.fillRead s fill n b).me = s.me ∧
    (State.fillRead s fill n b).run = s.run ∧ (State.fillRead s fill n b).sram = s.sram ∧ (State.fillRead s fill n b).mem = s.mem ∧
    (State.fillRead s fill n b).fab = s.fab ∧ (State.fillRead s fill n b).sh = s.sh ∧ (State.fillRead s fill n b).grp = s.grp ∧
    (State.fillRead s fill n b).fw = s.fw ∧ (State.fillRead s fill n b).tr = s.tr := ⟨rfl, rfl, rfl, rfl, rfl, rfl, rfl, rfl, rfl, rfl, rfl, rfl, rfl, rfl, rfl, rfl, rfl, rfl, rfl, rfl, rfl, rfl, rfl, rfl, rfl, rfl⟩

@[simp] theorem State.missed_keeps (s : State) (r : TReq) (v : W64) :
    (State.missed s r v).clk = s.clk ∧ (State.missed s r v).env = s.env ∧ (State.missed s r v).actor = s.actor ∧
    (State.missed s r v).regs = s.regs ∧ (State.missed s r v).code = s.code ∧ (State.missed s r v).sx = s.sx ∧
    (State.missed s r v).trap = s.trap ∧ (State.missed s r v).pend = s.pend ∧ (State.missed s r v).iss = s.iss ∧
    (State.missed s r v).cmp = s.cmp ∧ (State.missed s r v).cv = s.cv ∧ (State.missed s r v).cm = s.cm ∧
    (State.missed s r v).cc = s.cc ∧ (State.missed s r v).cx = s.cx ∧ (State.missed s r v).rs = s.rs ∧
    (State.missed s r v).dq = s.dq ∧ (State.missed s r v).dpend = s.dpend ∧ (State.missed s r v).me = s.me ∧
    (State.missed s r v).run = s.run ∧ (State.missed s r v).sram = s.sram ∧ (State.missed s r v).mem = s.mem ∧
    (State.missed s r v).fab = s.fab ∧ (State.missed s r v).sh = s.sh ∧ (State.missed s r v).grp = s.grp ∧
    (State.missed s r v).fw = s.fw ∧ (State.missed s r v).tr = s.tr := by
  unfold State.missed
  (repeat' split) <;> exact ⟨rfl, rfl, rfl, rfl, rfl, rfl, rfl, rfl, rfl, rfl, rfl, rfl, rfl, rfl, rfl, rfl, rfl, rfl, rfl, rfl, rfl, rfl, rfl, rfl, rfl, rfl⟩

@[simp] theorem State.stallTurn_keeps (s : State) :
    (State.stallTurn s).clk = s.clk ∧ (State.stallTurn s).env = s.env ∧ (State.stallTurn s).actor = s.actor ∧
    (State.stallTurn s).regs = s.regs ∧ (State.stallTurn s).ctl = s.ctl ∧ (State.stallTurn s).code = s.code ∧
    (State.stallTurn s).sx = s.sx ∧ (State.stallTurn s).trap = s.trap ∧ (State.stallTurn s).pend = s.pend ∧
    (State.stallTurn s).iss = s.iss ∧ (State.stallTurn s).cmp = s.cmp ∧ (State.stallTurn s).cv = s.cv ∧
    (State.stallTurn s).cm = s.cm ∧ (State.stallTurn s).cc = s.cc ∧ (State.stallTurn s).cx = s.cx ∧ (State.stallTurn s).rs = s.rs ∧
    (State.stallTurn s).dq = s.dq ∧ (State.stallTurn s).dpend = s.dpend ∧ (State.stallTurn s).me = s.me ∧
    (State.stallTurn s).run = s.run ∧ (State.stallTurn s).mem = s.mem ∧ (State.stallTurn s).fab = s.fab ∧
    (State.stallTurn s).sh = s.sh ∧ (State.stallTurn s).grp = s.grp ∧ (State.stallTurn s).fw = s.fw ∧ (State.stallTurn s).tr = s.tr := by
  unfold State.stallTurn
  (try dsimp only)
  (repeat' split) <;> simp

@[simp] theorem State.readyTurn1_keeps (s : State) (e : Engine) :
    (State.readyTurn1 s e).clk = s.clk ∧ (State.readyTurn1 s e).env = s.env ∧ (State.readyTurn1 s e).actor = s.actor ∧
    (State.readyTurn1 s e).regs = s.regs ∧ (State.readyTurn1 s e).ctl = s.ctl ∧ (State.readyTurn1 s e).code = s.code ∧
    (State.readyTurn1 s e).sx = s.sx ∧ (State.readyTurn1 s e).trap = s.trap ∧ (State.readyTurn1 s e).pend = s.pend ∧
    (State.readyTurn1 s e).iss = s.iss ∧ (State.readyTurn1 s e).cmp = s.cmp ∧ (State.readyTurn1 s e).cx = s.cx ∧
    (State.readyTurn1 s e).rs = s.rs ∧ (State.readyTurn1 s e).dq = s.dq ∧ (State.readyTurn1 s e).dpend = s.dpend ∧
    (State.readyTurn1 s e).me = s.me ∧ (State.readyTurn1 s e).run = s.run ∧ (State.readyTurn1 s e).sram = s.sram ∧
    (State.readyTurn1 s e).mem = s.mem ∧ (State.readyTurn1 s e).fab = s.fab ∧ (State.readyTurn1 s e).sh = s.sh ∧
    (State.readyTurn1 s e).grp = s.grp ∧ (State.readyTurn1 s e).fw = s.fw ∧ (State.readyTurn1 s e).tr = s.tr := by
  unfold State.readyTurn1
  (try dsimp only)
  (repeat' split) <;> simp

@[simp] theorem State.readyTurn_keeps (s : State) :
    (State.readyTurn s).clk = s.clk ∧ (State.readyTurn s).env = s.env ∧ (State.readyTurn s).actor = s.actor ∧
    (State.readyTurn s).regs = s.regs ∧ (State.readyTurn s).ctl = s.ctl ∧ (State.readyTurn s).code = s.code ∧
    (State.readyTurn s).sx = s.sx ∧ (State.readyTurn s).trap = s.trap ∧ (State.readyTurn s).pend = s.pend ∧
    (State.readyTurn s).iss = s.iss ∧ (State.readyTurn s).cmp = s.cmp ∧ (State.readyTurn s).cx = s.cx ∧
    (State.readyTurn s).rs = s.rs ∧ (State.readyTurn s).dq = s.dq ∧ (State.readyTurn s).dpend = s.dpend ∧
    (State.readyTurn s).me = s.me ∧ (State.readyTurn s).run = s.run ∧ (State.readyTurn s).sram = s.sram ∧
    (State.readyTurn s).mem = s.mem ∧ (State.readyTurn s).fab = s.fab ∧ (State.readyTurn s).sh = s.sh ∧
    (State.readyTurn s).grp = s.grp ∧ (State.readyTurn s).fw = s.fw ∧ (State.readyTurn s).tr = s.tr := by simp [State.readyTurn]

@[simp] theorem State.preemptTurn_keeps (s : State) :
    (State.preemptTurn s).clk = s.clk ∧ (State.preemptTurn s).env = s.env ∧ (State.preemptTurn s).actor = s.actor ∧
    (State.preemptTurn s).regs = s.regs ∧ (State.preemptTurn s).ctl = s.ctl ∧ (State.preemptTurn s).code = s.code ∧
    (State.preemptTurn s).pend = s.pend ∧ (State.preemptTurn s).iss = s.iss ∧ (State.preemptTurn s).cmp = s.cmp ∧
    (State.preemptTurn s).cv = s.cv ∧ (State.preemptTurn s).cm = s.cm ∧ (State.preemptTurn s).cc = s.cc ∧
    (State.preemptTurn s).cx = s.cx ∧ (State.preemptTurn s).rs = s.rs ∧ (State.preemptTurn s).dq = s.dq ∧
    (State.preemptTurn s).dpend = s.dpend ∧ (State.preemptTurn s).me = s.me ∧ (State.preemptTurn s).run = s.run ∧
    (State.preemptTurn s).sram = s.sram ∧ (State.preemptTurn s).mem = s.mem ∧ (State.preemptTurn s).fab = s.fab ∧
    (State.preemptTurn s).sh = s.sh ∧ (State.preemptTurn s).grp = s.grp ∧ (State.preemptTurn s).fw = s.fw ∧
    (State.preemptTurn s).tr = s.tr := by
  unfold State.preemptTurn
  (try dsimp only)
  (repeat' split) <;> simp

@[simp] theorem State.slide_keeps (s : State) :
    (State.slide s).clk = s.clk ∧ (State.slide s).env = s.env ∧ (State.slide s).actor = s.actor ∧ (State.slide s).regs = s.regs ∧
    (State.slide s).ctl = s.ctl ∧ (State.slide s).code = s.code ∧ (State.slide s).trap = s.trap ∧ (State.slide s).iss = s.iss ∧
    (State.slide s).cmp = s.cmp ∧ (State.slide s).cx = s.cx ∧ (State.slide s).dq = s.dq ∧ (State.slide s).dpend = s.dpend ∧
    (State.slide s).sram = s.sram ∧ (State.slide s).mem = s.mem ∧ (State.slide s).fab = s.fab ∧ (State.slide s).sh = s.sh ∧
    (State.slide s).grp = s.grp ∧ (State.slide s).fw = s.fw ∧ (State.slide s).tr = s.tr := ⟨rfl, rfl, rfl, rfl, rfl, rfl, rfl, rfl, rfl, rfl, rfl, rfl, rfl, rfl, rfl, rfl, rfl, rfl, rfl⟩

@[simp] theorem State.setVif_keeps (s : State) (v : Nat) (x : Vi) :
    (State.setVif s v x).clk = s.clk ∧ (State.setVif s v x).env = s.env ∧ (State.setVif s v x).actor = s.actor ∧
    (State.setVif s v x).regs = s.regs ∧ (State.setVif s v x).ctl = s.ctl ∧ (State.setVif s v x).code = s.code ∧
    (State.setVif s v x).sx = s.sx ∧ (State.setVif s v x).trap = s.trap ∧ (State.setVif s v x).pend = s.pend ∧
    (State.setVif s v x).iss = s.iss ∧ (State.setVif s v x).cmp = s.cmp ∧ (State.setVif s v x).cv = s.cv ∧
    (State.setVif s v x).cm = s.cm ∧ (State.setVif s v x).cc = s.cc ∧ (State.setVif s v x).cx = s.cx ∧
    (State.setVif s v x).rs = s.rs ∧ (State.setVif s v x).dq = s.dq ∧ (State.setVif s v x).dpend = s.dpend ∧
    (State.setVif s v x).me = s.me ∧ (State.setVif s v x).run = s.run ∧ (State.setVif s v x).sram = s.sram ∧
    (State.setVif s v x).mem = s.mem ∧ (State.setVif s v x).fab = s.fab ∧ (State.setVif s v x).sh = s.sh ∧
    (State.setVif s v x).grp = s.grp ∧ (State.setVif s v x).fw = s.fw := ⟨rfl, rfl, rfl, rfl, rfl, rfl, rfl, rfl, rfl, rfl, rfl, rfl, rfl, rfl, rfl, rfl, rfl, rfl, rfl, rfl, rfl, rfl, rfl, rfl, rfl, rfl⟩

@[simp] theorem State.hostWrite_keeps (s : State) (a : Nat) (b : List Byte) :
    (State.hostWrite s a b).clk = s.clk ∧ (State.hostWrite s a b).env = s.env ∧ (State.hostWrite s a b).actor = s.actor ∧
    (State.hostWrite s a b).regs = s.regs ∧ (State.hostWrite s a b).ctl = s.ctl ∧ (State.hostWrite s a b).code = s.code ∧
    (State.hostWrite s a b).sx = s.sx ∧ (State.hostWrite s a b).trap = s.trap ∧ (State.hostWrite s a b).pend = s.pend ∧
    (State.hostWrite s a b).iss = s.iss ∧ (State.hostWrite s a b).cmp = s.cmp ∧ (State.hostWrite s a b).cv = s.cv ∧
    (State.hostWrite s a b).cm = s.cm ∧ (State.hostWrite s a b).cc = s.cc ∧ (State.hostWrite s a b).cx = s.cx ∧
    (State.hostWrite s a b).rs = s.rs ∧ (State.hostWrite s a b).dq = s.dq ∧ (State.hostWrite s a b).dpend = s.dpend ∧
    (State.hostWrite s a b).me = s.me ∧ (State.hostWrite s a b).run = s.run ∧ (State.hostWrite s a b).sram = s.sram ∧
    (State.hostWrite s a b).mem = s.mem ∧ (State.hostWrite s a b).fab = s.fab ∧ (State.hostWrite s a b).sh = s.sh ∧
    (State.hostWrite s a b).grp = s.grp ∧ (State.hostWrite s a b).fw = s.fw := ⟨rfl, rfl, rfl, rfl, rfl, rfl, rfl, rfl, rfl, rfl, rfl, rfl, rfl, rfl, rfl, rfl, rfl, rfl, rfl, rfl, rfl, rfl, rfl, rfl, rfl, rfl⟩

@[simp] theorem State.writeCpl_keeps (s : State) (vi : Nat) (b : List Byte) :
    (State.writeCpl s vi b).clk = s.clk ∧ (State.writeCpl s vi b).env = s.env ∧ (State.writeCpl s vi b).actor = s.actor ∧
    (State.writeCpl s vi b).regs = s.regs ∧ (State.writeCpl s vi b).ctl = s.ctl ∧ (State.writeCpl s vi b).code = s.code ∧
    (State.writeCpl s vi b).sx = s.sx ∧ (State.writeCpl s vi b).trap = s.trap ∧ (State.writeCpl s vi b).pend = s.pend ∧
    (State.writeCpl s vi b).iss = s.iss ∧ (State.writeCpl s vi b).cmp = s.cmp ∧ (State.writeCpl s vi b).cv = s.cv ∧
    (State.writeCpl s vi b).cm = s.cm ∧ (State.writeCpl s vi b).cc = s.cc ∧ (State.writeCpl s vi b).cx = s.cx ∧
    (State.writeCpl s vi b).rs = s.rs ∧ (State.writeCpl s vi b).dq = s.dq ∧ (State.writeCpl s vi b).dpend = s.dpend ∧
    (State.writeCpl s vi b).me = s.me ∧ (State.writeCpl s vi b).run = s.run ∧ (State.writeCpl s vi b).sram = s.sram ∧
    (State.writeCpl s vi b).mem = s.mem ∧ (State.writeCpl s vi b).fab = s.fab ∧ (State.writeCpl s vi b).sh = s.sh ∧
    (State.writeCpl s vi b).grp = s.grp ∧ (State.writeCpl s vi b).fw = s.fw := ⟨rfl, rfl, rfl, rfl, rfl, rfl, rfl, rfl, rfl, rfl, rfl, rfl, rfl, rfl, rfl, rfl, rfl, rfl, rfl, rfl, rfl, rfl, rfl, rfl, rfl, rfl⟩

@[simp] theorem State.putCpl_keeps (s : State) (vi : Nat) (b : List Byte) :
    (State.putCpl s vi b).clk = s.clk ∧ (State.putCpl s vi b).env = s.env ∧ (State.putCpl s vi b).actor = s.actor ∧
    (State.putCpl s vi b).regs = s.regs ∧ (State.putCpl s vi b).ctl = s.ctl ∧ (State.putCpl s vi b).code = s.code ∧
    (State.putCpl s vi b).sx = s.sx ∧ (State.putCpl s vi b).trap = s.trap ∧ (State.putCpl s vi b).pend = s.pend ∧
    (State.putCpl s vi b).iss = s.iss ∧ (State.putCpl s vi b).cmp = s.cmp ∧ (State.putCpl s vi b).cv = s.cv ∧
    (State.putCpl s vi b).cm = s.cm ∧ (State.putCpl s vi b).cc = s.cc ∧ (State.putCpl s vi b).cx = s.cx ∧
    (State.putCpl s vi b).rs = s.rs ∧ (State.putCpl s vi b).dq = s.dq ∧ (State.putCpl s vi b).dpend = s.dpend ∧
    (State.putCpl s vi b).me = s.me ∧ (State.putCpl s vi b).run = s.run ∧ (State.putCpl s vi b).sram = s.sram ∧
    (State.putCpl s vi b).mem = s.mem ∧ (State.putCpl s vi b).fab = s.fab ∧ (State.putCpl s vi b).sh = s.sh ∧
    (State.putCpl s vi b).grp = s.grp ∧ (State.putCpl s vi b).fw = s.fw := by
  unfold State.putCpl
  (try dsimp only)
  (repeat' split) <;> simp

@[simp] theorem State.releaseRecs_keeps (s : State) (f v : Nat) :
    (State.releaseRecs f v s).clk = s.clk ∧ (State.releaseRecs f v s).env = s.env ∧ (State.releaseRecs f v s).actor = s.actor ∧
    (State.releaseRecs f v s).regs = s.regs ∧ (State.releaseRecs f v s).ctl = s.ctl ∧ (State.releaseRecs f v s).code = s.code ∧
    (State.releaseRecs f v s).sx = s.sx ∧ (State.releaseRecs f v s).trap = s.trap ∧ (State.releaseRecs f v s).pend = s.pend ∧
    (State.releaseRecs f v s).iss = s.iss ∧ (State.releaseRecs f v s).cmp = s.cmp ∧ (State.releaseRecs f v s).cv = s.cv ∧
    (State.releaseRecs f v s).cm = s.cm ∧ (State.releaseRecs f v s).cc = s.cc ∧ (State.releaseRecs f v s).cx = s.cx ∧
    (State.releaseRecs f v s).rs = s.rs ∧ (State.releaseRecs f v s).dq = s.dq ∧ (State.releaseRecs f v s).dpend = s.dpend ∧
    (State.releaseRecs f v s).me = s.me ∧ (State.releaseRecs f v s).run = s.run ∧ (State.releaseRecs f v s).sram = s.sram ∧
    (State.releaseRecs f v s).mem = s.mem ∧ (State.releaseRecs f v s).fab = s.fab ∧ (State.releaseRecs f v s).sh = s.sh ∧
    (State.releaseRecs f v s).grp = s.grp ∧ (State.releaseRecs f v s).fw = s.fw := by
  induction f generalizing s with
  | zero => exact ⟨rfl, rfl, rfl, rfl, rfl, rfl, rfl, rfl, rfl, rfl, rfl, rfl, rfl, rfl, rfl, rfl, rfl, rfl, rfl, rfl, rfl, rfl, rfl, rfl, rfl, rfl⟩
  | succ n ih =>
    simp only [State.releaseRecs]
    (repeat' split) <;> simp [ih]

@[simp] theorem State.ringEntry_keeps (s : State) (vi r : Nat) :
    (State.ringEntry s vi r).1.clk = s.clk ∧ (State.ringEntry s vi r).1.env = s.env ∧ (State.ringEntry s vi r).1.actor = s.actor ∧
    (State.ringEntry s vi r).1.regs = s.regs ∧ (State.ringEntry s vi r).1.ctl = s.ctl ∧ (State.ringEntry s vi r).1.code = s.code ∧
    (State.ringEntry s vi r).1.sx = s.sx ∧ (State.ringEntry s vi r).1.trap = s.trap ∧ (State.ringEntry s vi r).1.pend = s.pend ∧
    (State.ringEntry s vi r).1.iss = s.iss ∧ (State.ringEntry s vi r).1.cmp = s.cmp ∧ (State.ringEntry s vi r).1.cv = s.cv ∧
    (State.ringEntry s vi r).1.cm = s.cm ∧ (State.ringEntry s vi r).1.cc = s.cc ∧ (State.ringEntry s vi r).1.cx = s.cx ∧
    (State.ringEntry s vi r).1.rs = s.rs ∧ (State.ringEntry s vi r).1.dq = s.dq ∧ (State.ringEntry s vi r).1.dpend = s.dpend ∧
    (State.ringEntry s vi r).1.me = s.me ∧ (State.ringEntry s vi r).1.run = s.run ∧ (State.ringEntry s vi r).1.sram = s.sram ∧
    (State.ringEntry s vi r).1.mem = s.mem ∧ (State.ringEntry s vi r).1.fab = s.fab ∧ (State.ringEntry s vi r).1.sh = s.sh ∧
    (State.ringEntry s vi r).1.grp = s.grp ∧ (State.ringEntry s vi r).1.fw = s.fw := by
  unfold State.ringEntry
  (try dsimp only)
  (repeat' split) <;> simp

@[simp] theorem State.wrapRing_keeps (s : State) (vi r : Nat) :
    (State.wrapRing vi s r).clk = s.clk ∧ (State.wrapRing vi s r).env = s.env ∧ (State.wrapRing vi s r).actor = s.actor ∧
    (State.wrapRing vi s r).regs = s.regs ∧ (State.wrapRing vi s r).ctl = s.ctl ∧ (State.wrapRing vi s r).code = s.code ∧
    (State.wrapRing vi s r).sx = s.sx ∧ (State.wrapRing vi s r).trap = s.trap ∧ (State.wrapRing vi s r).pend = s.pend ∧
    (State.wrapRing vi s r).iss = s.iss ∧ (State.wrapRing vi s r).cmp = s.cmp ∧ (State.wrapRing vi s r).cv = s.cv ∧
    (State.wrapRing vi s r).cm = s.cm ∧ (State.wrapRing vi s r).cc = s.cc ∧ (State.wrapRing vi s r).cx = s.cx ∧
    (State.wrapRing vi s r).rs = s.rs ∧ (State.wrapRing vi s r).dq = s.dq ∧ (State.wrapRing vi s r).dpend = s.dpend ∧
    (State.wrapRing vi s r).me = s.me ∧ (State.wrapRing vi s r).run = s.run ∧ (State.wrapRing vi s r).sram = s.sram ∧
    (State.wrapRing vi s r).mem = s.mem ∧ (State.wrapRing vi s r).fab = s.fab ∧ (State.wrapRing vi s r).sh = s.sh ∧
    (State.wrapRing vi s r).grp = s.grp ∧ (State.wrapRing vi s r).fw = s.fw := by
  unfold State.wrapRing
  (try dsimp only)
  (repeat' split) <;> simp

@[simp] theorem State.wrapRings_keeps (s : State) (vi : Nat) :
    (State.wrapRings s vi).clk = s.clk ∧ (State.wrapRings s vi).env = s.env ∧ (State.wrapRings s vi).actor = s.actor ∧
    (State.wrapRings s vi).regs = s.regs ∧ (State.wrapRings s vi).ctl = s.ctl ∧ (State.wrapRings s vi).code = s.code ∧
    (State.wrapRings s vi).sx = s.sx ∧ (State.wrapRings s vi).trap = s.trap ∧ (State.wrapRings s vi).pend = s.pend ∧
    (State.wrapRings s vi).iss = s.iss ∧ (State.wrapRings s vi).cmp = s.cmp ∧ (State.wrapRings s vi).cv = s.cv ∧
    (State.wrapRings s vi).cm = s.cm ∧ (State.wrapRings s vi).cc = s.cc ∧ (State.wrapRings s vi).cx = s.cx ∧
    (State.wrapRings s vi).rs = s.rs ∧ (State.wrapRings s vi).dq = s.dq ∧ (State.wrapRings s vi).dpend = s.dpend ∧
    (State.wrapRings s vi).me = s.me ∧ (State.wrapRings s vi).run = s.run ∧ (State.wrapRings s vi).sram = s.sram ∧
    (State.wrapRings s vi).mem = s.mem ∧ (State.wrapRings s vi).fab = s.fab ∧ (State.wrapRings s vi).sh = s.sh ∧
    (State.wrapRings s vi).grp = s.grp ∧ (State.wrapRings s vi).fw = s.fw := by
  unfold State.wrapRings
  (try dsimp only)
  (repeat' split) <;> simp

@[simp] theorem State.pumpN_keeps (s : State) (f v : Nat) :
    (State.pumpN f v s).clk = s.clk ∧ (State.pumpN f v s).actor = s.actor ∧ (State.pumpN f v s).regs = s.regs ∧
    (State.pumpN f v s).ctl = s.ctl ∧ (State.pumpN f v s).code = s.code ∧ (State.pumpN f v s).sx = s.sx ∧
    (State.pumpN f v s).trap = s.trap ∧ (State.pumpN f v s).pend = s.pend ∧ (State.pumpN f v s).iss = s.iss ∧
    (State.pumpN f v s).cmp = s.cmp ∧ (State.pumpN f v s).cv = s.cv ∧ (State.pumpN f v s).cm = s.cm ∧ (State.pumpN f v s).cc = s.cc ∧
    (State.pumpN f v s).cx = s.cx ∧ (State.pumpN f v s).rs = s.rs ∧ (State.pumpN f v s).dq = s.dq ∧
    (State.pumpN f v s).dpend = s.dpend ∧ (State.pumpN f v s).me = s.me ∧ (State.pumpN f v s).run = s.run ∧
    (State.pumpN f v s).sram = s.sram ∧ (State.pumpN f v s).mem = s.mem ∧ (State.pumpN f v s).fab = s.fab ∧
    (State.pumpN f v s).sh = s.sh ∧ (State.pumpN f v s).grp = s.grp ∧ (State.pumpN f v s).fw = s.fw := by
  induction f generalizing s with
  | zero => exact ⟨rfl, rfl, rfl, rfl, rfl, rfl, rfl, rfl, rfl, rfl, rfl, rfl, rfl, rfl, rfl, rfl, rfl, rfl, rfl, rfl, rfl, rfl, rfl, rfl, rfl⟩
  | succ n ih =>
    simp only [State.pumpN]
    (repeat' split) <;> simp [ih]

@[simp] theorem State.pump_keeps (s : State) (vi : Nat) :
    (State.pump s vi).clk = s.clk ∧ (State.pump s vi).actor = s.actor ∧ (State.pump s vi).regs = s.regs ∧
    (State.pump s vi).ctl = s.ctl ∧ (State.pump s vi).code = s.code ∧ (State.pump s vi).sx = s.sx ∧ (State.pump s vi).trap = s.trap ∧
    (State.pump s vi).pend = s.pend ∧ (State.pump s vi).iss = s.iss ∧ (State.pump s vi).cmp = s.cmp ∧ (State.pump s vi).cv = s.cv ∧
    (State.pump s vi).cm = s.cm ∧ (State.pump s vi).cc = s.cc ∧ (State.pump s vi).cx = s.cx ∧ (State.pump s vi).rs = s.rs ∧
    (State.pump s vi).dq = s.dq ∧ (State.pump s vi).dpend = s.dpend ∧ (State.pump s vi).me = s.me ∧ (State.pump s vi).run = s.run ∧
    (State.pump s vi).sram = s.sram ∧ (State.pump s vi).mem = s.mem ∧ (State.pump s vi).fab = s.fab ∧ (State.pump s vi).sh = s.sh ∧
    (State.pump s vi).grp = s.grp ∧ (State.pump s vi).fw = s.fw := by simp [State.pump]

@[simp] theorem State.retired_keeps (s : State) (l : Launch) :
    (State.retired s l).clk = s.clk ∧ (State.retired s l).env = s.env ∧ (State.retired s l).actor = s.actor ∧
    (State.retired s l).regs = s.regs ∧ (State.retired s l).ctl = s.ctl ∧ (State.retired s l).code = s.code ∧
    (State.retired s l).sx = s.sx ∧ (State.retired s l).trap = s.trap ∧ (State.retired s l).pend = s.pend ∧
    (State.retired s l).iss = s.iss ∧ (State.retired s l).cmp = s.cmp ∧ (State.retired s l).cv = s.cv ∧
    (State.retired s l).cm = s.cm ∧ (State.retired s l).cc = s.cc ∧ (State.retired s l).cx = s.cx ∧ (State.retired s l).rs = s.rs ∧
    (State.retired s l).dq = s.dq ∧ (State.retired s l).dpend = s.dpend ∧ (State.retired s l).me = s.me ∧
    (State.retired s l).run = s.run ∧ (State.retired s l).sram = s.sram ∧ (State.retired s l).mem = s.mem ∧
    (State.retired s l).fab = s.fab ∧ (State.retired s l).sh = s.sh ∧ (State.retired s l).grp = s.grp := by simp [State.retired]

@[simp] theorem State.setLaunch_keeps (s : State) (l : Launch) :
    (State.setLaunch s l).clk = s.clk ∧ (State.setLaunch s l).env = s.env ∧ (State.setLaunch s l).actor = s.actor ∧
    (State.setLaunch s l).regs = s.regs ∧ (State.setLaunch s l).ctl = s.ctl ∧ (State.setLaunch s l).code = s.code ∧
    (State.setLaunch s l).sx = s.sx ∧ (State.setLaunch s l).trap = s.trap ∧ (State.setLaunch s l).pend = s.pend ∧
    (State.setLaunch s l).iss = s.iss ∧ (State.setLaunch s l).cmp = s.cmp ∧ (State.setLaunch s l).cv = s.cv ∧
    (State.setLaunch s l).cm = s.cm ∧ (State.setLaunch s l).cc = s.cc ∧ (State.setLaunch s l).cx = s.cx ∧
    (State.setLaunch s l).rs = s.rs ∧ (State.setLaunch s l).dq = s.dq ∧ (State.setLaunch s l).dpend = s.dpend ∧
    (State.setLaunch s l).me = s.me ∧ (State.setLaunch s l).run = s.run ∧ (State.setLaunch s l).sram = s.sram ∧
    (State.setLaunch s l).mem = s.mem ∧ (State.setLaunch s l).fab = s.fab ∧ (State.setLaunch s l).sh = s.sh ∧
    (State.setLaunch s l).grp = s.grp ∧ (State.setLaunch s l).tr = s.tr := ⟨rfl, rfl, rfl, rfl, rfl, rfl, rfl, rfl, rfl, rfl, rfl, rfl, rfl, rfl, rfl, rfl, rfl, rfl, rfl, rfl, rfl, rfl, rfl, rfl, rfl, rfl⟩

@[simp] theorem State.hostAbort_keeps (s : State) (l : Launch) :
    (State.hostAbort s l).clk = s.clk ∧ (State.hostAbort s l).env = s.env ∧ (State.hostAbort s l).actor = s.actor ∧
    (State.hostAbort s l).regs = s.regs ∧ (State.hostAbort s l).ctl = s.ctl ∧ (State.hostAbort s l).code = s.code ∧
    (State.hostAbort s l).sx = s.sx ∧ (State.hostAbort s l).trap = s.trap ∧ (State.hostAbort s l).pend = s.pend ∧
    (State.hostAbort s l).iss = s.iss ∧ (State.hostAbort s l).cmp = s.cmp ∧ (State.hostAbort s l).cv = s.cv ∧
    (State.hostAbort s l).cm = s.cm ∧ (State.hostAbort s l).cc = s.cc ∧ (State.hostAbort s l).cx = s.cx ∧
    (State.hostAbort s l).rs = s.rs ∧ (State.hostAbort s l).dq = s.dq ∧ (State.hostAbort s l).dpend = s.dpend ∧
    (State.hostAbort s l).me = s.me ∧ (State.hostAbort s l).run = s.run ∧ (State.hostAbort s l).sram = s.sram ∧
    (State.hostAbort s l).mem = s.mem ∧ (State.hostAbort s l).fab = s.fab ∧ (State.hostAbort s l).sh = s.sh ∧
    (State.hostAbort s l).grp = s.grp := by
  unfold State.hostAbort
  (try dsimp only)
  (repeat' split) <;> simp

@[simp] theorem State.enterWorld_keeps (s : State) (w key : Nat) :
    (State.enterWorld s w key).clk = s.clk ∧ (State.enterWorld s w key).actor = s.actor ∧ (State.enterWorld s w key).regs = s.regs ∧
    (State.enterWorld s w key).ctl = s.ctl ∧ (State.enterWorld s w key).code = s.code ∧ (State.enterWorld s w key).sx = s.sx ∧
    (State.enterWorld s w key).trap = s.trap ∧ (State.enterWorld s w key).pend = s.pend ∧ (State.enterWorld s w key).iss = s.iss ∧
    (State.enterWorld s w key).cmp = s.cmp ∧ (State.enterWorld s w key).cv = s.cv ∧ (State.enterWorld s w key).cm = s.cm ∧
    (State.enterWorld s w key).cc = s.cc ∧ (State.enterWorld s w key).cx = s.cx ∧ (State.enterWorld s w key).rs = s.rs ∧
    (State.enterWorld s w key).dq = s.dq ∧ (State.enterWorld s w key).dpend = s.dpend ∧ (State.enterWorld s w key).me = s.me ∧
    (State.enterWorld s w key).run = s.run ∧ (State.enterWorld s w key).sram = s.sram ∧ (State.enterWorld s w key).fab = s.fab ∧
    (State.enterWorld s w key).sh = s.sh ∧ (State.enterWorld s w key).grp = s.grp ∧ (State.enterWorld s w key).fw = s.fw := by
  unfold State.enterWorld
  (repeat' split) <;> exact ⟨rfl, rfl, rfl, rfl, rfl, rfl, rfl, rfl, rfl, rfl, rfl, rfl, rfl, rfl, rfl, rfl, rfl, rfl, rfl, rfl, rfl, rfl, rfl, rfl⟩

@[simp] theorem State.leaseOne_keeps (s : State) (world key : Nat) (l : Nat × Nat × Bool) :
    (State.leaseOne s world key l).clk = s.clk ∧ (State.leaseOne s world key l).env = s.env ∧
    (State.leaseOne s world key l).actor = s.actor ∧ (State.leaseOne s world key l).regs = s.regs ∧
    (State.leaseOne s world key l).ctl = s.ctl ∧ (State.leaseOne s world key l).code = s.code ∧
    (State.leaseOne s world key l).sx = s.sx ∧ (State.leaseOne s world key l).trap = s.trap ∧
    (State.leaseOne s world key l).pend = s.pend ∧ (State.leaseOne s world key l).iss = s.iss ∧
    (State.leaseOne s world key l).cmp = s.cmp ∧ (State.leaseOne s world key l).cv = s.cv ∧ (State.leaseOne s world key l).cm = s.cm ∧
    (State.leaseOne s world key l).cc = s.cc ∧ (State.leaseOne s world key l).cx = s.cx ∧ (State.leaseOne s world key l).rs = s.rs ∧
    (State.leaseOne s world key l).dq = s.dq ∧ (State.leaseOne s world key l).dpend = s.dpend ∧
    (State.leaseOne s world key l).me = s.me ∧ (State.leaseOne s world key l).run = s.run ∧
    (State.leaseOne s world key l).sram = s.sram ∧ (State.leaseOne s world key l).fab = s.fab ∧
    (State.leaseOne s world key l).sh = s.sh ∧ (State.leaseOne s world key l).grp = s.grp ∧ (State.leaseOne s world key l).fw = s.fw ∧
    (State.leaseOne s world key l).tr = s.tr := by
  unfold State.leaseOne
  (try dsimp only)
  (repeat' split) <;> simp

@[simp] theorem State.setBindSt_keeps (s : State) (core st : Nat) :
    (State.setBindSt s core st).clk = s.clk ∧ (State.setBindSt s core st).env = s.env ∧ (State.setBindSt s core st).actor = s.actor ∧
    (State.setBindSt s core st).regs = s.regs ∧ (State.setBindSt s core st).ctl = s.ctl ∧ (State.setBindSt s core st).code = s.code ∧
    (State.setBindSt s core st).sx = s.sx ∧ (State.setBindSt s core st).trap = s.trap ∧ (State.setBindSt s core st).pend = s.pend ∧
    (State.setBindSt s core st).iss = s.iss ∧ (State.setBindSt s core st).cmp = s.cmp ∧ (State.setBindSt s core st).cv = s.cv ∧
    (State.setBindSt s core st).cm = s.cm ∧ (State.setBindSt s core st).cc = s.cc ∧ (State.setBindSt s core st).cx = s.cx ∧
    (State.setBindSt s core st).rs = s.rs ∧ (State.setBindSt s core st).dq = s.dq ∧ (State.setBindSt s core st).dpend = s.dpend ∧
    (State.setBindSt s core st).me = s.me ∧ (State.setBindSt s core st).run = s.run ∧ (State.setBindSt s core st).sram = s.sram ∧
    (State.setBindSt s core st).mem = s.mem ∧ (State.setBindSt s core st).fab = s.fab ∧ (State.setBindSt s core st).sh = s.sh ∧
    (State.setBindSt s core st).grp = s.grp ∧ (State.setBindSt s core st).tr = s.tr := ⟨rfl, rfl, rfl, rfl, rfl, rfl, rfl, rfl, rfl, rfl, rfl, rfl, rfl, rfl, rfl, rfl, rfl, rfl, rfl, rfl, rfl, rfl, rfl, rfl, rfl, rfl⟩

@[simp] theorem State.nameHold_keeps (s : State) (launch g : Nat) :
    (State.nameHold s launch g).clk = s.clk ∧ (State.nameHold s launch g).env = s.env ∧ (State.nameHold s launch g).actor = s.actor ∧
    (State.nameHold s launch g).regs = s.regs ∧ (State.nameHold s launch g).ctl = s.ctl ∧ (State.nameHold s launch g).code = s.code ∧
    (State.nameHold s launch g).sx = s.sx ∧ (State.nameHold s launch g).trap = s.trap ∧ (State.nameHold s launch g).pend = s.pend ∧
    (State.nameHold s launch g).iss = s.iss ∧ (State.nameHold s launch g).cmp = s.cmp ∧ (State.nameHold s launch g).cv = s.cv ∧
    (State.nameHold s launch g).cm = s.cm ∧ (State.nameHold s launch g).cc = s.cc ∧ (State.nameHold s launch g).cx = s.cx ∧
    (State.nameHold s launch g).rs = s.rs ∧ (State.nameHold s launch g).dq = s.dq ∧ (State.nameHold s launch g).dpend = s.dpend ∧
    (State.nameHold s launch g).me = s.me ∧ (State.nameHold s launch g).run = s.run ∧ (State.nameHold s launch g).sram = s.sram ∧
    (State.nameHold s launch g).mem = s.mem ∧ (State.nameHold s launch g).fab = s.fab ∧ (State.nameHold s launch g).sh = s.sh ∧
    (State.nameHold s launch g).fw = s.fw ∧ (State.nameHold s launch g).tr = s.tr := ⟨rfl, rfl, rfl, rfl, rfl, rfl, rfl, rfl, rfl, rfl, rfl, rfl, rfl, rfl, rfl, rfl, rfl, rfl, rfl, rfl, rfl, rfl, rfl, rfl, rfl, rfl⟩

@[simp] theorem State.holdAgain_keeps (s : State) (g : Nat) :
    (State.holdAgain s g).clk = s.clk ∧ (State.holdAgain s g).env = s.env ∧ (State.holdAgain s g).actor = s.actor ∧
    (State.holdAgain s g).ctl = s.ctl ∧ (State.holdAgain s g).code = s.code ∧ (State.holdAgain s g).trap = s.trap ∧
    (State.holdAgain s g).pend = s.pend ∧ (State.holdAgain s g).iss = s.iss ∧ (State.holdAgain s g).cmp = s.cmp ∧
    (State.holdAgain s g).cx = s.cx ∧ (State.holdAgain s g).rs = s.rs ∧ (State.holdAgain s g).dq = s.dq ∧
    (State.holdAgain s g).dpend = s.dpend ∧ (State.holdAgain s g).me = s.me ∧ (State.holdAgain s g).sram = s.sram ∧
    (State.holdAgain s g).mem = s.mem ∧ (State.holdAgain s g).fab = s.fab ∧ (State.holdAgain s g).sh = s.sh ∧
    (State.holdAgain s g).grp = s.grp ∧ (State.holdAgain s g).fw = s.fw ∧ (State.holdAgain s g).tr = s.tr := ⟨rfl, rfl, rfl, rfl, rfl, rfl, rfl, rfl, rfl, rfl, rfl, rfl, rfl, rfl, rfl, rfl, rfl, rfl, rfl, rfl, rfl⟩

@[simp] theorem State.scrubCore_keeps (s : State) :
    (State.scrubCore s).clk = s.clk ∧ (State.scrubCore s).env = s.env ∧ (State.scrubCore s).actor = s.actor ∧
    (State.scrubCore s).regs = s.regs ∧ (State.scrubCore s).code = s.code ∧ (State.scrubCore s).sram = s.sram ∧
    (State.scrubCore s).mem = s.mem ∧ (State.scrubCore s).fab = s.fab ∧ (State.scrubCore s).sh = s.sh ∧
    (State.scrubCore s).fw = s.fw ∧ (State.scrubCore s).tr = s.tr := ⟨rfl, rfl, rfl, rfl, rfl, rfl, rfl, rfl, rfl, rfl, rfl⟩

@[simp] theorem State.unlease_keeps (s : State) (l : Launch) (obj : Nat) :
    (State.unlease s l obj).clk = s.clk ∧ (State.unlease s l obj).env = s.env ∧ (State.unlease s l obj).actor = s.actor ∧
    (State.unlease s l obj).regs = s.regs ∧ (State.unlease s l obj).ctl = s.ctl ∧ (State.unlease s l obj).code = s.code ∧
    (State.unlease s l obj).sx = s.sx ∧ (State.unlease s l obj).trap = s.trap ∧ (State.unlease s l obj).pend = s.pend ∧
    (State.unlease s l obj).iss = s.iss ∧ (State.unlease s l obj).cmp = s.cmp ∧ (State.unlease s l obj).cv = s.cv ∧
    (State.unlease s l obj).cm = s.cm ∧ (State.unlease s l obj).cc = s.cc ∧ (State.unlease s l obj).cx = s.cx ∧
    (State.unlease s l obj).rs = s.rs ∧ (State.unlease s l obj).dq = s.dq ∧ (State.unlease s l obj).dpend = s.dpend ∧
    (State.unlease s l obj).me = s.me ∧ (State.unlease s l obj).run = s.run ∧ (State.unlease s l obj).sram = s.sram ∧
    (State.unlease s l obj).fab = s.fab ∧ (State.unlease s l obj).sh = s.sh ∧ (State.unlease s l obj).grp = s.grp ∧
    (State.unlease s l obj).fw = s.fw ∧ (State.unlease s l obj).tr = s.tr := by
  unfold State.unlease
  (repeat' split) <;> exact ⟨rfl, rfl, rfl, rfl, rfl, rfl, rfl, rfl, rfl, rfl, rfl, rfl, rfl, rfl, rfl, rfl, rfl, rfl, rfl, rfl, rfl, rfl, rfl, rfl, rfl, rfl⟩

@[simp] theorem State.refuseOp_keeps (s : State) (vi : Nat) :
    (State.refuseOp s vi).clk = s.clk ∧ (State.refuseOp s vi).env = s.env ∧ (State.refuseOp s vi).actor = s.actor ∧
    (State.refuseOp s vi).regs = s.regs ∧ (State.refuseOp s vi).ctl = s.ctl ∧ (State.refuseOp s vi).code = s.code ∧
    (State.refuseOp s vi).sx = s.sx ∧ (State.refuseOp s vi).trap = s.trap ∧ (State.refuseOp s vi).pend = s.pend ∧
    (State.refuseOp s vi).iss = s.iss ∧ (State.refuseOp s vi).cmp = s.cmp ∧ (State.refuseOp s vi).cv = s.cv ∧
    (State.refuseOp s vi).cm = s.cm ∧ (State.refuseOp s vi).cc = s.cc ∧ (State.refuseOp s vi).cx = s.cx ∧
    (State.refuseOp s vi).rs = s.rs ∧ (State.refuseOp s vi).dq = s.dq ∧ (State.refuseOp s vi).dpend = s.dpend ∧
    (State.refuseOp s vi).me = s.me ∧ (State.refuseOp s vi).run = s.run ∧ (State.refuseOp s vi).sram = s.sram ∧
    (State.refuseOp s vi).mem = s.mem ∧ (State.refuseOp s vi).fab = s.fab ∧ (State.refuseOp s vi).sh = s.sh ∧
    (State.refuseOp s vi).grp = s.grp ∧ (State.refuseOp s vi).fw = s.fw := ⟨rfl, rfl, rfl, rfl, rfl, rfl, rfl, rfl, rfl, rfl, rfl, rfl, rfl, rfl, rfl, rfl, rfl, rfl, rfl, rfl, rfl, rfl, rfl, rfl, rfl, rfl⟩

@[simp] theorem State.viState_keeps (s : State) (vi st : Nat) :
    (State.viState s vi st).clk = s.clk ∧ (State.viState s vi st).env = s.env ∧ (State.viState s vi st).actor = s.actor ∧
    (State.viState s vi st).regs = s.regs ∧ (State.viState s vi st).ctl = s.ctl ∧ (State.viState s vi st).code = s.code ∧
    (State.viState s vi st).sx = s.sx ∧ (State.viState s vi st).trap = s.trap ∧ (State.viState s vi st).pend = s.pend ∧
    (State.viState s vi st).iss = s.iss ∧ (State.viState s vi st).cmp = s.cmp ∧ (State.viState s vi st).cv = s.cv ∧
    (State.viState s vi st).cm = s.cm ∧ (State.viState s vi st).cc = s.cc ∧ (State.viState s vi st).cx = s.cx ∧
    (State.viState s vi st).rs = s.rs ∧ (State.viState s vi st).dq = s.dq ∧ (State.viState s vi st).dpend = s.dpend ∧
    (State.viState s vi st).me = s.me ∧ (State.viState s vi st).run = s.run ∧ (State.viState s vi st).sram = s.sram ∧
    (State.viState s vi st).mem = s.mem ∧ (State.viState s vi st).fab = s.fab ∧ (State.viState s vi st).sh = s.sh ∧
    (State.viState s vi st).grp = s.grp ∧ (State.viState s vi st).fw = s.fw := ⟨rfl, rfl, rfl, rfl, rfl, rfl, rfl, rfl, rfl, rfl, rfl, rfl, rfl, rfl, rfl, rfl, rfl, rfl, rfl, rfl, rfl, rfl, rfl, rfl, rfl, rfl⟩

@[simp] theorem State.setSealed_keeps (s : State) (vi e : Nat) (k : SealedKey) :
    (State.setSealed s vi e k).clk = s.clk ∧ (State.setSealed s vi e k).env = s.env ∧ (State.setSealed s vi e k).actor = s.actor ∧
    (State.setSealed s vi e k).regs = s.regs ∧ (State.setSealed s vi e k).ctl = s.ctl ∧ (State.setSealed s vi e k).code = s.code ∧
    (State.setSealed s vi e k).sx = s.sx ∧ (State.setSealed s vi e k).trap = s.trap ∧ (State.setSealed s vi e k).pend = s.pend ∧
    (State.setSealed s vi e k).iss = s.iss ∧ (State.setSealed s vi e k).cmp = s.cmp ∧ (State.setSealed s vi e k).cv = s.cv ∧
    (State.setSealed s vi e k).cm = s.cm ∧ (State.setSealed s vi e k).cc = s.cc ∧ (State.setSealed s vi e k).cx = s.cx ∧
    (State.setSealed s vi e k).rs = s.rs ∧ (State.setSealed s vi e k).dq = s.dq ∧ (State.setSealed s vi e k).dpend = s.dpend ∧
    (State.setSealed s vi e k).me = s.me ∧ (State.setSealed s vi e k).run = s.run ∧ (State.setSealed s vi e k).sram = s.sram ∧
    (State.setSealed s vi e k).mem = s.mem ∧ (State.setSealed s vi e k).fab = s.fab ∧ (State.setSealed s vi e k).sh = s.sh ∧
    (State.setSealed s vi e k).grp = s.grp ∧ (State.setSealed s vi e k).fw = s.fw := ⟨rfl, rfl, rfl, rfl, rfl, rfl, rfl, rfl, rfl, rfl, rfl, rfl, rfl, rfl, rfl, rfl, rfl, rfl, rfl, rfl, rfl, rfl, rfl, rfl, rfl, rfl⟩

@[simp] theorem State.takeSnap_keeps (s : State) :
    (State.takeSnap s).clk = s.clk ∧ (State.takeSnap s).env = s.env ∧ (State.takeSnap s).actor = s.actor ∧
    (State.takeSnap s).regs = s.regs ∧ (State.takeSnap s).ctl = s.ctl ∧ (State.takeSnap s).code = s.code ∧
    (State.takeSnap s).sx = s.sx ∧ (State.takeSnap s).trap = s.trap ∧ (State.takeSnap s).pend = s.pend ∧
    (State.takeSnap s).iss = s.iss ∧ (State.takeSnap s).cmp = s.cmp ∧ (State.takeSnap s).cv = s.cv ∧ (State.takeSnap s).cm = s.cm ∧
    (State.takeSnap s).cc = s.cc ∧ (State.takeSnap s).cx = s.cx ∧ (State.takeSnap s).rs = s.rs ∧ (State.takeSnap s).dq = s.dq ∧
    (State.takeSnap s).dpend = s.dpend ∧ (State.takeSnap s).me = s.me ∧ (State.takeSnap s).run = s.run ∧
    (State.takeSnap s).sram = s.sram ∧ (State.takeSnap s).mem = s.mem ∧ (State.takeSnap s).fab = s.fab ∧
    (State.takeSnap s).sh = s.sh ∧ (State.takeSnap s).grp = s.grp ∧ (State.takeSnap s).tr = s.tr := by
  unfold State.takeSnap
  (repeat' split) <;> exact ⟨rfl, rfl, rfl, rfl, rfl, rfl, rfl, rfl, rfl, rfl, rfl, rfl, rfl, rfl, rfl, rfl, rfl, rfl, rfl, rfl, rfl, rfl, rfl, rfl, rfl, rfl⟩

@[simp] theorem State.loadImage_keeps (s : State) (x : Image) :
    (State.loadImage s x).clk = s.clk ∧ (State.loadImage s x).env = s.env ∧ (State.loadImage s x).actor = s.actor ∧
    (State.loadImage s x).regs = s.regs ∧ (State.loadImage s x).ctl = s.ctl ∧ (State.loadImage s x).code = s.code ∧
    (State.loadImage s x).sx = s.sx ∧ (State.loadImage s x).trap = s.trap ∧ (State.loadImage s x).pend = s.pend ∧
    (State.loadImage s x).iss = s.iss ∧ (State.loadImage s x).cmp = s.cmp ∧ (State.loadImage s x).cv = s.cv ∧
    (State.loadImage s x).cm = s.cm ∧ (State.loadImage s x).cc = s.cc ∧ (State.loadImage s x).cx = s.cx ∧
    (State.loadImage s x).rs = s.rs ∧ (State.loadImage s x).dq = s.dq ∧ (State.loadImage s x).dpend = s.dpend ∧
    (State.loadImage s x).me = s.me ∧ (State.loadImage s x).run = s.run ∧ (State.loadImage s x).fab = s.fab ∧
    (State.loadImage s x).sh = s.sh ∧ (State.loadImage s x).grp = s.grp ∧ (State.loadImage s x).fw = s.fw ∧
    (State.loadImage s x).tr = s.tr := ⟨rfl, rfl, rfl, rfl, rfl, rfl, rfl, rfl, rfl, rfl, rfl, rfl, rfl, rfl, rfl, rfl, rfl, rfl, rfl, rfl, rfl, rfl, rfl, rfl, rfl⟩

@[simp] theorem State.readyS_keeps (s : State) :
    (State.readyS s).clk = s.clk ∧ (State.readyS s).env = s.env ∧ (State.readyS s).actor = s.actor ∧ (State.readyS s).regs = s.regs ∧
    (State.readyS s).ctl = s.ctl ∧ (State.readyS s).trap = s.trap ∧ (State.readyS s).pend = s.pend ∧ (State.readyS s).iss = s.iss ∧
    (State.readyS s).cmp = s.cmp ∧ (State.readyS s).cv = s.cv ∧ (State.readyS s).cm = s.cm ∧ (State.readyS s).cc = s.cc ∧
    (State.readyS s).cx = s.cx ∧ (State.readyS s).rs = s.rs ∧ (State.readyS s).dq = s.dq ∧ (State.readyS s).dpend = s.dpend ∧
    (State.readyS s).me = s.me ∧ (State.readyS s).sram = s.sram ∧ (State.readyS s).fab = s.fab ∧ (State.readyS s).sh = s.sh ∧
    (State.readyS s).grp = s.grp ∧ (State.readyS s).fw = s.fw ∧ (State.readyS s).tr = s.tr := by
  unfold State.readyS
  (try dsimp only)
  (repeat' split) <;> simp

@[simp] theorem State.ownBlock_keeps (s : State) (id o : Nat) :
    (State.ownBlock s id o).clk = s.clk ∧ (State.ownBlock s id o).env = s.env ∧ (State.ownBlock s id o).actor = s.actor ∧
    (State.ownBlock s id o).regs = s.regs ∧ (State.ownBlock s id o).ctl = s.ctl ∧ (State.ownBlock s id o).code = s.code ∧
    (State.ownBlock s id o).sx = s.sx ∧ (State.ownBlock s id o).trap = s.trap ∧ (State.ownBlock s id o).pend = s.pend ∧
    (State.ownBlock s id o).iss = s.iss ∧ (State.ownBlock s id o).cmp = s.cmp ∧ (State.ownBlock s id o).cv = s.cv ∧
    (State.ownBlock s id o).cm = s.cm ∧ (State.ownBlock s id o).cc = s.cc ∧ (State.ownBlock s id o).cx = s.cx ∧
    (State.ownBlock s id o).rs = s.rs ∧ (State.ownBlock s id o).dq = s.dq ∧ (State.ownBlock s id o).dpend = s.dpend ∧
    (State.ownBlock s id o).me = s.me ∧ (State.ownBlock s id o).run = s.run ∧ (State.ownBlock s id o).sram = s.sram ∧
    (State.ownBlock s id o).fab = s.fab ∧ (State.ownBlock s id o).sh = s.sh ∧ (State.ownBlock s id o).grp = s.grp ∧
    (State.ownBlock s id o).fw = s.fw ∧ (State.ownBlock s id o).tr = s.tr := by
  unfold State.ownBlock
  (repeat' split) <;> exact ⟨rfl, rfl, rfl, rfl, rfl, rfl, rfl, rfl, rfl, rfl, rfl, rfl, rfl, rfl, rfl, rfl, rfl, rfl, rfl, rfl, rfl, rfl, rfl, rfl, rfl, rfl⟩

@[simp] theorem State.placeChain_keeps (s : State) (e : Engine) (w : Nat) :
    (State.placeChain s e w).clk = s.clk ∧ (State.placeChain s e w).env = s.env ∧ (State.placeChain s e w).actor = s.actor ∧
    (State.placeChain s e w).regs = s.regs ∧ (State.placeChain s e w).ctl = s.ctl ∧ (State.placeChain s e w).code = s.code ∧
    (State.placeChain s e w).trap = s.trap ∧ (State.placeChain s e w).pend = s.pend ∧ (State.placeChain s e w).iss = s.iss ∧
    (State.placeChain s e w).cmp = s.cmp ∧ (State.placeChain s e w).cx = s.cx ∧ (State.placeChain s e w).rs = s.rs ∧
    (State.placeChain s e w).dq = s.dq ∧ (State.placeChain s e w).dpend = s.dpend ∧ (State.placeChain s e w).me = s.me ∧
    (State.placeChain s e w).sram = s.sram ∧ (State.placeChain s e w).mem = s.mem ∧ (State.placeChain s e w).fab = s.fab ∧
    (State.placeChain s e w).sh = s.sh ∧ (State.placeChain s e w).grp = s.grp ∧ (State.placeChain s e w).fw = s.fw ∧
    (State.placeChain s e w).tr = s.tr := by
  unfold State.placeChain
  (try dsimp only)
  (repeat' split) <;> simp

@[simp] theorem State.placeSh_keeps (s : State) (w : Nat) :
    (State.placeSh s w).clk = s.clk ∧ (State.placeSh s w).env = s.env ∧ (State.placeSh s w).actor = s.actor ∧
    (State.placeSh s w).regs = s.regs ∧ (State.placeSh s w).ctl = s.ctl ∧ (State.placeSh s w).code = s.code ∧
    (State.placeSh s w).sx = s.sx ∧ (State.placeSh s w).trap = s.trap ∧ (State.placeSh s w).pend = s.pend ∧
    (State.placeSh s w).iss = s.iss ∧ (State.placeSh s w).cmp = s.cmp ∧ (State.placeSh s w).cv = s.cv ∧
    (State.placeSh s w).cm = s.cm ∧ (State.placeSh s w).cc = s.cc ∧ (State.placeSh s w).cx = s.cx ∧ (State.placeSh s w).rs = s.rs ∧
    (State.placeSh s w).dq = s.dq ∧ (State.placeSh s w).dpend = s.dpend ∧ (State.placeSh s w).me = s.me ∧
    (State.placeSh s w).run = s.run ∧ (State.placeSh s w).sram = s.sram ∧ (State.placeSh s w).mem = s.mem ∧
    (State.placeSh s w).fab = s.fab ∧ (State.placeSh s w).grp = s.grp ∧ (State.placeSh s w).fw = s.fw ∧
    (State.placeSh s w).tr = s.tr := ⟨rfl, rfl, rfl, rfl, rfl, rfl, rfl, rfl, rfl, rfl, rfl, rfl, rfl, rfl, rfl, rfl, rfl, rfl, rfl, rfl, rfl, rfl, rfl, rfl, rfl, rfl⟩

@[simp] theorem State.taints_keeps (s : State) (id o n : Nat) :
    (State.taints s id o n).clk = s.clk ∧ (State.taints s id o n).env = s.env ∧ (State.taints s id o n).actor = s.actor ∧
    (State.taints s id o n).regs = s.regs ∧ (State.taints s id o n).ctl = s.ctl ∧ (State.taints s id o n).code = s.code ∧
    (State.taints s id o n).sx = s.sx ∧ (State.taints s id o n).trap = s.trap ∧ (State.taints s id o n).pend = s.pend ∧
    (State.taints s id o n).iss = s.iss ∧ (State.taints s id o n).cmp = s.cmp ∧ (State.taints s id o n).cv = s.cv ∧
    (State.taints s id o n).cm = s.cm ∧ (State.taints s id o n).cc = s.cc ∧ (State.taints s id o n).cx = s.cx ∧
    (State.taints s id o n).rs = s.rs ∧ (State.taints s id o n).dq = s.dq ∧ (State.taints s id o n).dpend = s.dpend ∧
    (State.taints s id o n).me = s.me ∧ (State.taints s id o n).run = s.run ∧ (State.taints s id o n).sram = s.sram ∧
    (State.taints s id o n).mem = s.mem ∧ (State.taints s id o n).fab = s.fab ∧ (State.taints s id o n).sh = s.sh ∧
    (State.taints s id o n).grp = s.grp ∧ (State.taints s id o n).tr = s.tr := ⟨rfl, rfl, rfl, rfl, rfl, rfl, rfl, rfl, rfl, rfl, rfl, rfl, rfl, rfl, rfl, rfl, rfl, rfl, rfl, rfl, rfl, rfl, rfl, rfl, rfl, rfl⟩

@[simp] theorem State.objPlace_keeps (s : State) (id o : Nat) (b : List Byte) :
    (State.objPlace s id o b).clk = s.clk ∧ (State.objPlace s id o b).env = s.env ∧ (State.objPlace s id o b).actor = s.actor ∧
    (State.objPlace s id o b).regs = s.regs ∧ (State.objPlace s id o b).ctl = s.ctl ∧ (State.objPlace s id o b).code = s.code ∧
    (State.objPlace s id o b).sx = s.sx ∧ (State.objPlace s id o b).trap = s.trap ∧ (State.objPlace s id o b).pend = s.pend ∧
    (State.objPlace s id o b).iss = s.iss ∧ (State.objPlace s id o b).cmp = s.cmp ∧ (State.objPlace s id o b).cv = s.cv ∧
    (State.objPlace s id o b).cm = s.cm ∧ (State.objPlace s id o b).cc = s.cc ∧ (State.objPlace s id o b).cx = s.cx ∧
    (State.objPlace s id o b).rs = s.rs ∧ (State.objPlace s id o b).dq = s.dq ∧ (State.objPlace s id o b).dpend = s.dpend ∧
    (State.objPlace s id o b).me = s.me ∧ (State.objPlace s id o b).run = s.run ∧ (State.objPlace s id o b).sram = s.sram ∧
    (State.objPlace s id o b).fab = s.fab ∧ (State.objPlace s id o b).sh = s.sh ∧ (State.objPlace s id o b).grp = s.grp ∧
    (State.objPlace s id o b).fw = s.fw ∧ (State.objPlace s id o b).tr = s.tr := by
  refine ⟨?_, ?_, ?_, ?_, ?_, ?_, ?_, ?_, ?_, ?_, ?_, ?_, ?_, ?_, ?_, ?_, ?_, ?_, ?_, ?_, ?_, ?_, ?_, ?_, ?_, ?_⟩ <;>
    (unfold State.objPlace; (try dsimp only); (repeat' split) <;> simp)

@[simp] theorem State.setPower_keeps (s : State) (n st till : Nat) :
    (State.setPower s n st till).clk = s.clk ∧ (State.setPower s n st till).env = s.env ∧
    (State.setPower s n st till).actor = s.actor ∧ (State.setPower s n st till).regs = s.regs ∧
    (State.setPower s n st till).ctl = s.ctl ∧ (State.setPower s n st till).code = s.code ∧ (State.setPower s n st till).sx = s.sx ∧
    (State.setPower s n st till).trap = s.trap ∧ (State.setPower s n st till).iss = s.iss ∧ (State.setPower s n st till).cmp = s.cmp ∧
    (State.setPower s n st till).cv = s.cv ∧ (State.setPower s n st till).cm = s.cm ∧ (State.setPower s n st till).cx = s.cx ∧
    (State.setPower s n st till).dq = s.dq ∧ (State.setPower s n st till).run = s.run ∧ (State.setPower s n st till).mem = s.mem ∧
    (State.setPower s n st till).fab = s.fab ∧ (State.setPower s n st till).sh = s.sh ∧ (State.setPower s n st till).grp = s.grp ∧
    (State.setPower s n st till).fw = s.fw ∧ (State.setPower s n st till).tr = s.tr := by
  refine ⟨?_, ?_, ?_, ?_, ?_, ?_, ?_, ?_, ?_, ?_, ?_, ?_, ?_, ?_, ?_, ?_, ?_, ?_, ?_, ?_, ?_⟩ <;>
    (unfold State.setPower; (repeat' split) <;> rfl)

@[simp] theorem State.timedStore_keeps (s : State) (bytes : List Byte) (k : Cap) (o : Int) (need : Nat) :
    (State.timedStore s bytes k o need).clk = s.clk ∧ (State.timedStore s bytes k o need).env = s.env ∧
    (State.timedStore s bytes k o need).actor = s.actor ∧ (State.timedStore s bytes k o need).regs = s.regs ∧
    (State.timedStore s bytes k o need).ctl = s.ctl ∧ (State.timedStore s bytes k o need).code = s.code ∧
    (State.timedStore s bytes k o need).sx = s.sx ∧ (State.timedStore s bytes k o need).trap = s.trap ∧
    (State.timedStore s bytes k o need).iss = s.iss ∧ (State.timedStore s bytes k o need).cmp = s.cmp ∧
    (State.timedStore s bytes k o need).cv = s.cv ∧ (State.timedStore s bytes k o need).cm = s.cm ∧
    (State.timedStore s bytes k o need).cc = s.cc ∧ (State.timedStore s bytes k o need).cx = s.cx ∧
    (State.timedStore s bytes k o need).rs = s.rs ∧ (State.timedStore s bytes k o need).dq = s.dq ∧
    (State.timedStore s bytes k o need).dpend = s.dpend ∧ (State.timedStore s bytes k o need).me = s.me ∧
    (State.timedStore s bytes k o need).run = s.run ∧ (State.timedStore s bytes k o need).mem = s.mem ∧
    (State.timedStore s bytes k o need).fab = s.fab ∧ (State.timedStore s bytes k o need).sh = s.sh ∧
    (State.timedStore s bytes k o need).grp = s.grp ∧ (State.timedStore s bytes k o need).fw = s.fw ∧
    (State.timedStore s bytes k o need).tr = s.tr := by
  refine ⟨?_, ?_, ?_, ?_, ?_, ?_, ?_, ?_, ?_, ?_, ?_, ?_, ?_, ?_, ?_, ?_, ?_, ?_, ?_, ?_, ?_, ?_, ?_, ?_, ?_⟩ <;>
    (unfold State.timedStore; (repeat' split) <;> rfl)

@[simp] theorem State.evict_keeps (s : State) :
    (State.evict s).clk = s.clk ∧ (State.evict s).actor = s.actor ∧ (State.evict s).regs = s.regs ∧ (State.evict s).ctl = s.ctl ∧
    (State.evict s).code = s.code ∧ (State.evict s).pend = s.pend ∧ (State.evict s).iss = s.iss ∧ (State.evict s).cmp = s.cmp ∧
    (State.evict s).cx = s.cx ∧ (State.evict s).rs = s.rs ∧ (State.evict s).dq = s.dq ∧ (State.evict s).dpend = s.dpend ∧
    (State.evict s).me = s.me ∧ (State.evict s).sram = s.sram ∧ (State.evict s).fab = s.fab ∧ (State.evict s).sh = s.sh ∧
    (State.evict s).grp = s.grp ∧ (State.evict s).fw = s.fw ∧ (State.evict s).tr = s.tr := by
  refine ⟨?_, ?_, ?_, ?_, ?_, ?_, ?_, ?_, ?_, ?_, ?_, ?_, ?_, ?_, ?_, ?_, ?_, ?_, ?_⟩ <;>
    (unfold State.evict; (try dsimp only); (repeat' split) <;> simp)

@[simp] theorem State.lookAgain_keeps (s : State) :
    (State.lookAgain s).clk = s.clk ∧ (State.lookAgain s).env = s.env ∧ (State.lookAgain s).actor = s.actor ∧
    (State.lookAgain s).regs = s.regs ∧ (State.lookAgain s).ctl = s.ctl ∧ (State.lookAgain s).code = s.code ∧
    (State.lookAgain s).trap = s.trap ∧ (State.lookAgain s).pend = s.pend ∧ (State.lookAgain s).iss = s.iss ∧
    (State.lookAgain s).cmp = s.cmp ∧ (State.lookAgain s).cv = s.cv ∧ (State.lookAgain s).cm = s.cm ∧ (State.lookAgain s).cc = s.cc ∧
    (State.lookAgain s).cx = s.cx ∧ (State.lookAgain s).rs = s.rs ∧ (State.lookAgain s).dq = s.dq ∧
    (State.lookAgain s).dpend = s.dpend ∧ (State.lookAgain s).me = s.me ∧ (State.lookAgain s).run = s.run ∧
    (State.lookAgain s).sram = s.sram ∧ (State.lookAgain s).mem = s.mem ∧ (State.lookAgain s).fab = s.fab ∧
    (State.lookAgain s).sh = s.sh ∧ (State.lookAgain s).grp = s.grp ∧ (State.lookAgain s).fw = s.fw ∧ (State.lookAgain s).tr = s.tr := by
  refine ⟨?_, ?_, ?_, ?_, ?_, ?_, ?_, ?_, ?_, ?_, ?_, ?_, ?_, ?_, ?_, ?_, ?_, ?_, ?_, ?_, ?_, ?_, ?_, ?_, ?_, ?_⟩ <;>
    (unfold State.lookAgain; (repeat' split) <;> rfl)

@[simp] theorem State.mapAgs_keeps (s : State) (f : Nat → AGen → AGen) :
    (State.mapAgs s f).clk = s.clk ∧ (State.mapAgs s f).env = s.env ∧ (State.mapAgs s f).actor = s.actor ∧
    (State.mapAgs s f).regs = s.regs ∧ (State.mapAgs s f).ctl = s.ctl ∧ (State.mapAgs s f).code = s.code ∧
    (State.mapAgs s f).sx = s.sx ∧ (State.mapAgs s f).trap = s.trap ∧ (State.mapAgs s f).pend = s.pend ∧
    (State.mapAgs s f).iss = s.iss ∧ (State.mapAgs s f).cmp = s.cmp ∧ (State.mapAgs s f).cv = s.cv ∧ (State.mapAgs s f).cm = s.cm ∧
    (State.mapAgs s f).cc = s.cc ∧ (State.mapAgs s f).cx = s.cx ∧ (State.mapAgs s f).dq = s.dq ∧ (State.mapAgs s f).dpend = s.dpend ∧
    (State.mapAgs s f).me = s.me ∧ (State.mapAgs s f).run = s.run ∧ (State.mapAgs s f).sram = s.sram ∧
    (State.mapAgs s f).mem = s.mem ∧ (State.mapAgs s f).fab = s.fab ∧ (State.mapAgs s f).sh = s.sh ∧ (State.mapAgs s f).grp = s.grp ∧
    (State.mapAgs s f).fw = s.fw ∧ (State.mapAgs s f).tr = s.tr := ⟨rfl, rfl, rfl, rfl, rfl, rfl, rfl, rfl, rfl, rfl, rfl, rfl, rfl, rfl, rfl, rfl, rfl, rfl, rfl, rfl, rfl, rfl, rfl, rfl, rfl, rfl⟩

@[simp] theorem State.fillRow_keeps (s : State) (f : GFill) :
    (State.fillRow s f).clk = s.clk ∧ (State.fillRow s f).env = s.env ∧ (State.fillRow s f).actor = s.actor ∧
    (State.fillRow s f).regs = s.regs ∧ (State.fillRow s f).code = s.code ∧ (State.fillRow s f).sx = s.sx ∧
    (State.fillRow s f).trap = s.trap ∧ (State.fillRow s f).pend = s.pend ∧ (State.fillRow s f).iss = s.iss ∧
    (State.fillRow s f).cmp = s.cmp ∧ (State.fillRow s f).cv = s.cv ∧ (State.fillRow s f).cm = s.cm ∧ (State.fillRow s f).cc = s.cc ∧
    (State.fillRow s f).cx = s.cx ∧ (State.fillRow s f).dq = s.dq ∧ (State.fillRow s f).dpend = s.dpend ∧
    (State.fillRow s f).me = s.me ∧ (State.fillRow s f).run = s.run ∧ (State.fillRow s f).sram = s.sram ∧
    (State.fillRow s f).mem = s.mem ∧ (State.fillRow s f).fab = s.fab ∧ (State.fillRow s f).sh = s.sh ∧
    (State.fillRow s f).grp = s.grp ∧ (State.fillRow s f).fw = s.fw ∧ (State.fillRow s f).tr = s.tr := by
  refine ⟨?_, ?_, ?_, ?_, ?_, ?_, ?_, ?_, ?_, ?_, ?_, ?_, ?_, ?_, ?_, ?_, ?_, ?_, ?_, ?_, ?_, ?_, ?_, ?_, ?_⟩ <;>
    (unfold State.fillRow; (try dsimp only); (repeat' split) <;> simp)

@[simp] theorem State.wrapFills_keeps (s : State) :
    (State.wrapFills s).clk = s.clk ∧ (State.wrapFills s).env = s.env ∧ (State.wrapFills s).actor = s.actor ∧
    (State.wrapFills s).regs = s.regs ∧ (State.wrapFills s).code = s.code ∧ (State.wrapFills s).sx = s.sx ∧
    (State.wrapFills s).trap = s.trap ∧ (State.wrapFills s).pend = s.pend ∧ (State.wrapFills s).iss = s.iss ∧
    (State.wrapFills s).cmp = s.cmp ∧ (State.wrapFills s).cv = s.cv ∧ (State.wrapFills s).cm = s.cm ∧ (State.wrapFills s).cc = s.cc ∧
    (State.wrapFills s).cx = s.cx ∧ (State.wrapFills s).dq = s.dq ∧ (State.wrapFills s).dpend = s.dpend ∧
    (State.wrapFills s).me = s.me ∧ (State.wrapFills s).run = s.run ∧ (State.wrapFills s).sram = s.sram ∧
    (State.wrapFills s).mem = s.mem ∧ (State.wrapFills s).fab = s.fab ∧ (State.wrapFills s).sh = s.sh ∧
    (State.wrapFills s).grp = s.grp ∧ (State.wrapFills s).fw = s.fw ∧ (State.wrapFills s).tr = s.tr := by
  refine ⟨?_, ?_, ?_, ?_, ?_, ?_, ?_, ?_, ?_, ?_, ?_, ?_, ?_, ?_, ?_, ?_, ?_, ?_, ?_, ?_, ?_, ?_, ?_, ?_, ?_⟩ <;>
    (unfold State.wrapFills; (repeat' split) <;> rfl)

@[simp] theorem State.alignAgain_keeps (s : State) :
    (State.alignAgain s).env = s.env ∧ (State.alignAgain s).actor = s.actor ∧ (State.alignAgain s).regs = s.regs ∧
    (State.alignAgain s).ctl = s.ctl ∧ (State.alignAgain s).code = s.code ∧ (State.alignAgain s).sx = s.sx ∧
    (State.alignAgain s).trap = s.trap ∧ (State.alignAgain s).pend = s.pend ∧ (State.alignAgain s).iss = s.iss ∧
    (State.alignAgain s).cmp = s.cmp ∧ (State.alignAgain s).cv = s.cv ∧ (State.alignAgain s).cm = s.cm ∧
    (State.alignAgain s).cc = s.cc ∧ (State.alignAgain s).cx = s.cx ∧ (State.alignAgain s).rs = s.rs ∧
    (State.alignAgain s).dq = s.dq ∧ (State.alignAgain s).dpend = s.dpend ∧ (State.alignAgain s).me = s.me ∧
    (State.alignAgain s).run = s.run ∧ (State.alignAgain s).sram = s.sram ∧ (State.alignAgain s).mem = s.mem ∧
    (State.alignAgain s).fab = s.fab ∧ (State.alignAgain s).sh = s.sh ∧ (State.alignAgain s).grp = s.grp ∧
    (State.alignAgain s).fw = s.fw ∧ (State.alignAgain s).tr = s.tr := by
  refine ⟨?_, ?_, ?_, ?_, ?_, ?_, ?_, ?_, ?_, ?_, ?_, ?_, ?_, ?_, ?_, ?_, ?_, ?_, ?_, ?_, ?_, ?_, ?_, ?_, ?_, ?_⟩ <;>
    (unfold State.alignAgain; (repeat' split) <;> rfl)

@[simp] theorem State.launchTimed_keeps (s : State) (k pkg core : Nat) (p : Piece) (seq : Option (BitVec 12)) :
    (State.launchTimed s k pkg core p seq).clk = s.clk ∧ (State.launchTimed s k pkg core p seq).env = s.env ∧
    (State.launchTimed s k pkg core p seq).actor = s.actor ∧ (State.launchTimed s k pkg core p seq).regs = s.regs ∧
    (State.launchTimed s k pkg core p seq).ctl = s.ctl ∧ (State.launchTimed s k pkg core p seq).code = s.code ∧
    (State.launchTimed s k pkg core p seq).sx = s.sx ∧ (State.launchTimed s k pkg core p seq).trap = s.trap ∧
    (State.launchTimed s k pkg core p seq).pend = s.pend ∧ (State.launchTimed s k pkg core p seq).iss = s.iss ∧
    (State.launchTimed s k pkg core p seq).cmp = s.cmp ∧ (State.launchTimed s k pkg core p seq).cv = s.cv ∧
    (State.launchTimed s k pkg core p seq).cm = s.cm ∧ (State.launchTimed s k pkg core p seq).cc = s.cc ∧
    (State.launchTimed s k pkg core p seq).cx = s.cx ∧ (State.launchTimed s k pkg core p seq).rs = s.rs ∧
    (State.launchTimed s k pkg core p seq).dq = s.dq ∧ (State.launchTimed s k pkg core p seq).dpend = s.dpend ∧
    (State.launchTimed s k pkg core p seq).me = s.me ∧ (State.launchTimed s k pkg core p seq).run = s.run ∧
    (State.launchTimed s k pkg core p seq).sram = s.sram ∧ (State.launchTimed s k pkg core p seq).mem = s.mem ∧
    (State.launchTimed s k pkg core p seq).sh = s.sh ∧ (State.launchTimed s k pkg core p seq).grp = s.grp ∧
    (State.launchTimed s k pkg core p seq).fw = s.fw ∧ (State.launchTimed s k pkg core p seq).tr = s.tr := by
  refine ⟨?_, ?_, ?_, ?_, ?_, ?_, ?_, ?_, ?_, ?_, ?_, ?_, ?_, ?_, ?_, ?_, ?_, ?_, ?_, ?_, ?_, ?_, ?_, ?_, ?_, ?_⟩ <;>
    (unfold State.launchTimed; (try dsimp only); (repeat' split) <;> simp)

@[simp] theorem State.entryFault_keeps (s : State) (e : Engine) (code : Nat) :
    (State.entryFault s e code).clk = s.clk ∧ (State.entryFault s e code).env = s.env ∧ (State.entryFault s e code).actor = s.actor ∧
    (State.entryFault s e code).regs = s.regs ∧ (State.entryFault s e code).ctl = s.ctl ∧ (State.entryFault s e code).code = s.code ∧
    (State.entryFault s e code).pend = s.pend ∧ (State.entryFault s e code).iss = s.iss ∧ (State.entryFault s e code).cmp = s.cmp ∧
    (State.entryFault s e code).cx = s.cx ∧ (State.entryFault s e code).rs = s.rs ∧ (State.entryFault s e code).dq = s.dq ∧
    (State.entryFault s e code).dpend = s.dpend ∧ (State.entryFault s e code).me = s.me ∧ (State.entryFault s e code).sram = s.sram ∧
    (State.entryFault s e code).mem = s.mem ∧ (State.entryFault s e code).fab = s.fab ∧ (State.entryFault s e code).sh = s.sh ∧
    (State.entryFault s e code).grp = s.grp ∧ (State.entryFault s e code).fw = s.fw ∧ (State.entryFault s e code).tr = s.tr := by
  refine ⟨?_, ?_, ?_, ?_, ?_, ?_, ?_, ?_, ?_, ?_, ?_, ?_, ?_, ?_, ?_, ?_, ?_, ?_, ?_, ?_, ?_⟩ <;>
    (unfold State.entryFault; (try dsimp only); (repeat' split) <;> simp)

@[simp] theorem State.unask_keeps (s : State) :
    (State.unask s).clk = s.clk ∧ (State.unask s).env = s.env ∧ (State.unask s).actor = s.actor ∧ (State.unask s).regs = s.regs ∧
    (State.unask s).ctl = s.ctl ∧ (State.unask s).code = s.code ∧ (State.unask s).sx = s.sx ∧ (State.unask s).trap = s.trap ∧
    (State.unask s).pend = s.pend ∧ (State.unask s).iss = s.iss ∧ (State.unask s).cmp = s.cmp ∧ (State.unask s).cv = s.cv ∧
    (State.unask s).cm = s.cm ∧ (State.unask s).cc = s.cc ∧ (State.unask s).rs = s.rs ∧ (State.unask s).dq = s.dq ∧
    (State.unask s).dpend = s.dpend ∧ (State.unask s).me = s.me ∧ (State.unask s).run = s.run ∧ (State.unask s).fab = s.fab ∧
    (State.unask s).sh = s.sh ∧ (State.unask s).grp = s.grp ∧ (State.unask s).fw = s.fw ∧ (State.unask s).tr = s.tr := ⟨rfl, rfl, rfl, rfl, rfl, rfl, rfl, rfl, rfl, rfl, rfl, rfl, rfl, rfl, rfl, rfl, rfl, rfl, rfl, rfl, rfl, rfl, rfl, rfl⟩

@[simp] theorem State.mPushed_keeps (s : State) (id port vis : Nat) :
    (State.mPushed s id port vis).clk = s.clk ∧ (State.mPushed s id port vis).env = s.env ∧
    (State.mPushed s id port vis).actor = s.actor ∧ (State.mPushed s id port vis).regs = s.regs ∧
    (State.mPushed s id port vis).ctl = s.ctl ∧ (State.mPushed s id port vis).code = s.code ∧
    (State.mPushed s id port vis).sx = s.sx ∧ (State.mPushed s id port vis).trap = s.trap ∧
    (State.mPushed s id port vis).pend = s.pend ∧ (State.mPushed s id port vis).iss = s.iss ∧
    (State.mPushed s id port vis).cmp = s.cmp ∧ (State.mPushed s id port vis).cv = s.cv ∧ (State.mPushed s id port vis).cc = s.cc ∧
    (State.mPushed s id port vis).cx = s.cx ∧ (State.mPushed s id port vis).rs = s.rs ∧ (State.mPushed s id port vis).dq = s.dq ∧
    (State.mPushed s id port vis).dpend = s.dpend ∧ (State.mPushed s id port vis).me = s.me ∧
    (State.mPushed s id port vis).run = s.run ∧ (State.mPushed s id port vis).sram = s.sram ∧
    (State.mPushed s id port vis).mem = s.mem ∧ (State.mPushed s id port vis).fab = s.fab ∧ (State.mPushed s id port vis).sh = s.sh ∧
    (State.mPushed s id port vis).grp = s.grp ∧ (State.mPushed s id port vis).fw = s.fw ∧ (State.mPushed s id port vis).tr = s.tr := ⟨rfl, rfl, rfl, rfl, rfl, rfl, rfl, rfl, rfl, rfl, rfl, rfl, rfl, rfl, rfl, rfl, rfl, rfl, rfl, rfl, rfl, rfl, rfl, rfl, rfl, rfl⟩

@[simp] theorem State.sendCall_keeps (s : State) (d : FabData) :
    (State.sendCall s d).clk = s.clk ∧ (State.sendCall s d).env = s.env ∧ (State.sendCall s d).actor = s.actor ∧
    (State.sendCall s d).regs = s.regs ∧ (State.sendCall s d).ctl = s.ctl ∧ (State.sendCall s d).code = s.code ∧
    (State.sendCall s d).sx = s.sx ∧ (State.sendCall s d).trap = s.trap ∧ (State.sendCall s d).pend = s.pend ∧
    (State.sendCall s d).iss = s.iss ∧ (State.sendCall s d).cmp = s.cmp ∧ (State.sendCall s d).cv = s.cv ∧
    (State.sendCall s d).cm = s.cm ∧ (State.sendCall s d).cc = s.cc ∧ (State.sendCall s d).cx = s.cx ∧
    (State.sendCall s d).rs = s.rs ∧ (State.sendCall s d).dq = s.dq ∧ (State.sendCall s d).dpend = s.dpend ∧
    (State.sendCall s d).me = s.me ∧ (State.sendCall s d).run = s.run ∧ (State.sendCall s d).sram = s.sram ∧
    (State.sendCall s d).mem = s.mem ∧ (State.sendCall s d).sh = s.sh ∧ (State.sendCall s d).grp = s.grp ∧
    (State.sendCall s d).fw = s.fw ∧ (State.sendCall s d).tr = s.tr := by
  refine ⟨?_, ?_, ?_, ?_, ?_, ?_, ?_, ?_, ?_, ?_, ?_, ?_, ?_, ?_, ?_, ?_, ?_, ?_, ?_, ?_, ?_, ?_, ?_, ?_, ?_, ?_⟩ <;>
    (unfold State.sendCall; (try dsimp only); (repeat' split) <;> simp)

@[simp] theorem State.refuseCall_keeps (s : State) (code : Nat) :
    (State.refuseCall s code).clk = s.clk ∧ (State.refuseCall s code).env = s.env ∧ (State.refuseCall s code).actor = s.actor ∧
    (State.refuseCall s code).regs = s.regs ∧ (State.refuseCall s code).ctl = s.ctl ∧ (State.refuseCall s code).code = s.code ∧
    (State.refuseCall s code).pend = s.pend ∧ (State.refuseCall s code).iss = s.iss ∧ (State.refuseCall s code).cmp = s.cmp ∧
    (State.refuseCall s code).rs = s.rs ∧ (State.refuseCall s code).dq = s.dq ∧ (State.refuseCall s code).dpend = s.dpend ∧
    (State.refuseCall s code).me = s.me ∧ (State.refuseCall s code).fab = s.fab ∧ (State.refuseCall s code).sh = s.sh ∧
    (State.refuseCall s code).grp = s.grp ∧ (State.refuseCall s code).fw = s.fw ∧ (State.refuseCall s code).tr = s.tr := by
  refine ⟨?_, ?_, ?_, ?_, ?_, ?_, ?_, ?_, ?_, ?_, ?_, ?_, ?_, ?_, ?_, ?_, ?_, ?_⟩ <;>
    (unfold State.refuseCall; (try dsimp only); (repeat' split) <;> simp)

@[simp] theorem State.tellReq_keeps (s : State) (r : FabReq) (code : Option Nat) :
    (State.tellReq s r code).clk = s.clk ∧ (State.tellReq s r code).env = s.env ∧ (State.tellReq s r code).actor = s.actor ∧
    (State.tellReq s r code).regs = s.regs ∧ (State.tellReq s r code).ctl = s.ctl ∧ (State.tellReq s r code).code = s.code ∧
    (State.tellReq s r code).sx = s.sx ∧ (State.tellReq s r code).trap = s.trap ∧ (State.tellReq s r code).pend = s.pend ∧
    (State.tellReq s r code).iss = s.iss ∧ (State.tellReq s r code).cmp = s.cmp ∧ (State.tellReq s r code).cv = s.cv ∧
    (State.tellReq s r code).cm = s.cm ∧ (State.tellReq s r code).cc = s.cc ∧ (State.tellReq s r code).cx = s.cx ∧
    (State.tellReq s r code).rs = s.rs ∧ (State.tellReq s r code).dq = s.dq ∧ (State.tellReq s r code).dpend = s.dpend ∧
    (State.tellReq s r code).me = s.me ∧ (State.tellReq s r code).run = s.run ∧ (State.tellReq s r code).sram = s.sram ∧
    (State.tellReq s r code).mem = s.mem ∧ (State.tellReq s r code).sh = s.sh ∧ (State.tellReq s r code).grp = s.grp ∧
    (State.tellReq s r code).fw = s.fw ∧ (State.tellReq s r code).tr = s.tr := by
  refine ⟨?_, ?_, ?_, ?_, ?_, ?_, ?_, ?_, ?_, ?_, ?_, ?_, ?_, ?_, ?_, ?_, ?_, ?_, ?_, ?_, ?_, ?_, ?_, ?_, ?_, ?_⟩ <;>
    (unfold State.tellReq; (try dsimp only); (repeat' split) <;> simp)

@[simp] theorem State.dropLanding_keeps (s : State) (id : Nat) :
    (State.dropLanding s id).clk = s.clk ∧ (State.dropLanding s id).env = s.env ∧ (State.dropLanding s id).actor = s.actor ∧
    (State.dropLanding s id).regs = s.regs ∧ (State.dropLanding s id).ctl = s.ctl ∧ (State.dropLanding s id).code = s.code ∧
    (State.dropLanding s id).sx = s.sx ∧ (State.dropLanding s id).trap = s.trap ∧ (State.dropLanding s id).pend = s.pend ∧
    (State.dropLanding s id).iss = s.iss ∧ (State.dropLanding s id).cmp = s.cmp ∧ (State.dropLanding s id).cv = s.cv ∧
    (State.dropLanding s id).cm = s.cm ∧ (State.dropLanding s id).cc = s.cc ∧ (State.dropLanding s id).cx = s.cx ∧
    (State.dropLanding s id).rs = s.rs ∧ (State.dropLanding s id).dq = s.dq ∧ (State.dropLanding s id).dpend = s.dpend ∧
    (State.dropLanding s id).me = s.me ∧ (State.dropLanding s id).run = s.run ∧ (State.dropLanding s id).mem = s.mem ∧
    (State.dropLanding s id).sh = s.sh ∧ (State.dropLanding s id).grp = s.grp ∧ (State.dropLanding s id).fw = s.fw ∧
    (State.dropLanding s id).tr = s.tr := ⟨rfl, rfl, rfl, rfl, rfl, rfl, rfl, rfl, rfl, rfl, rfl, rfl, rfl, rfl, rfl, rfl, rfl, rfl, rfl, rfl, rfl, rfl, rfl, rfl, rfl⟩

@[simp] theorem State.passSeam_keeps (s : State) (gs : List Nat) :
    (State.passSeam s gs).clk = s.clk ∧ (State.passSeam s gs).env = s.env ∧ (State.passSeam s gs).actor = s.actor ∧
    (State.passSeam s gs).ctl = s.ctl ∧ (State.passSeam s gs).code = s.code ∧ (State.passSeam s gs).pend = s.pend ∧
    (State.passSeam s gs).iss = s.iss ∧ (State.passSeam s gs).cmp = s.cmp ∧ (State.passSeam s gs).cv = s.cv ∧
    (State.passSeam s gs).cm = s.cm ∧ (State.passSeam s gs).cc = s.cc ∧ (State.passSeam s gs).cx = s.cx ∧
    (State.passSeam s gs).rs = s.rs ∧ (State.passSeam s gs).dq = s.dq ∧ (State.passSeam s gs).dpend = s.dpend ∧
    (State.passSeam s gs).me = s.me ∧ (State.passSeam s gs).sram = s.sram ∧ (State.passSeam s gs).mem = s.mem ∧
    (State.passSeam s gs).fab = s.fab ∧ (State.passSeam s gs).sh = s.sh ∧ (State.passSeam s gs).fw = s.fw ∧
    (State.passSeam s gs).tr = s.tr := by
  refine ⟨?_, ?_, ?_, ?_, ?_, ?_, ?_, ?_, ?_, ?_, ?_, ?_, ?_, ?_, ?_, ?_, ?_, ?_, ?_, ?_, ?_, ?_⟩ <;>
    (unfold State.passSeam; (try dsimp only); (repeat' split) <;> simp)

@[simp] theorem State.failRun_keeps (s : State) (f : FaultRec) :
    (State.failRun s f).clk = s.clk ∧ (State.failRun s f).env = s.env ∧ (State.failRun s f).actor = s.actor ∧
    (State.failRun s f).regs = s.regs ∧ (State.failRun s f).ctl = s.ctl ∧ (State.failRun s f).code = s.code ∧
    (State.failRun s f).sx = s.sx ∧ (State.failRun s f).trap = s.trap ∧ (State.failRun s f).pend = s.pend ∧
    (State.failRun s f).iss = s.iss ∧ (State.failRun s f).cmp = s.cmp ∧ (State.failRun s f).cv = s.cv ∧
    (State.failRun s f).cm = s.cm ∧ (State.failRun s f).cc = s.cc ∧ (State.failRun s f).cx = s.cx ∧ (State.failRun s f).rs = s.rs ∧
    (State.failRun s f).dq = s.dq ∧ (State.failRun s f).dpend = s.dpend ∧ (State.failRun s f).me = s.me ∧
    (State.failRun s f).sram = s.sram ∧ (State.failRun s f).mem = s.mem ∧ (State.failRun s f).fab = s.fab ∧
    (State.failRun s f).sh = s.sh ∧ (State.failRun s f).grp = s.grp ∧ (State.failRun s f).fw = s.fw ∧ (State.failRun s f).tr = s.tr := by
  refine ⟨?_, ?_, ?_, ?_, ?_, ?_, ?_, ?_, ?_, ?_, ?_, ?_, ?_, ?_, ?_, ?_, ?_, ?_, ?_, ?_, ?_, ?_, ?_, ?_, ?_, ?_⟩ <;>
    (unfold State.failRun; (repeat' split) <;> rfl)

@[simp] theorem State.freeCore_keeps (s : State) (c : Nat) :
    (State.freeCore s c).clk = s.clk ∧ (State.freeCore s c).env = s.env ∧ (State.freeCore s c).actor = s.actor ∧
    (State.freeCore s c).regs = s.regs ∧ (State.freeCore s c).ctl = s.ctl ∧ (State.freeCore s c).code = s.code ∧
    (State.freeCore s c).sx = s.sx ∧ (State.freeCore s c).trap = s.trap ∧ (State.freeCore s c).pend = s.pend ∧
    (State.freeCore s c).iss = s.iss ∧ (State.freeCore s c).cmp = s.cmp ∧ (State.freeCore s c).cv = s.cv ∧
    (State.freeCore s c).cm = s.cm ∧ (State.freeCore s c).cc = s.cc ∧ (State.freeCore s c).cx = s.cx ∧
    (State.freeCore s c).rs = s.rs ∧ (State.freeCore s c).dq = s.dq ∧ (State.freeCore s c).dpend = s.dpend ∧
    (State.freeCore s c).me = s.me ∧ (State.freeCore s c).run = s.run ∧ (State.freeCore s c).sram = s.sram ∧
    (State.freeCore s c).mem = s.mem ∧ (State.freeCore s c).fab = s.fab ∧ (State.freeCore s c).sh = s.sh ∧
    (State.freeCore s c).grp = s.grp ∧ (State.freeCore s c).tr = s.tr := ⟨rfl, rfl, rfl, rfl, rfl, rfl, rfl, rfl, rfl, rfl, rfl, rfl, rfl, rfl, rfl, rfl, rfl, rfl, rfl, rfl, rfl, rfl, rfl, rfl, rfl, rfl⟩

@[simp] theorem State.install_keeps (s : State) (no : Nat) (r : List Byte) :
    (State.install s no r).clk = s.clk ∧ (State.install s no r).env = s.env ∧ (State.install s no r).actor = s.actor ∧
    (State.install s no r).regs = s.regs ∧ (State.install s no r).ctl = s.ctl ∧ (State.install s no r).code = s.code ∧
    (State.install s no r).sx = s.sx ∧ (State.install s no r).trap = s.trap ∧ (State.install s no r).pend = s.pend ∧
    (State.install s no r).iss = s.iss ∧ (State.install s no r).cmp = s.cmp ∧ (State.install s no r).cv = s.cv ∧
    (State.install s no r).cm = s.cm ∧ (State.install s no r).cc = s.cc ∧ (State.install s no r).cx = s.cx ∧
    (State.install s no r).rs = s.rs ∧ (State.install s no r).dq = s.dq ∧ (State.install s no r).dpend = s.dpend ∧
    (State.install s no r).me = s.me ∧ (State.install s no r).run = s.run ∧ (State.install s no r).sram = s.sram ∧
    (State.install s no r).mem = s.mem ∧ (State.install s no r).sh = s.sh ∧ (State.install s no r).grp = s.grp ∧
    (State.install s no r).fw = s.fw ∧ (State.install s no r).tr = s.tr := by
  refine ⟨?_, ?_, ?_, ?_, ?_, ?_, ?_, ?_, ?_, ?_, ?_, ?_, ?_, ?_, ?_, ?_, ?_, ?_, ?_, ?_, ?_, ?_, ?_, ?_, ?_, ?_⟩ <;>
    (unfold State.install; (repeat' split) <;> rfl)

@[simp] theorem State.usePattern_keeps (s : State) (no : Nat) :
    (State.usePattern s no).clk = s.clk ∧ (State.usePattern s no).env = s.env ∧ (State.usePattern s no).actor = s.actor ∧
    (State.usePattern s no).regs = s.regs ∧ (State.usePattern s no).ctl = s.ctl ∧ (State.usePattern s no).code = s.code ∧
    (State.usePattern s no).sx = s.sx ∧ (State.usePattern s no).trap = s.trap ∧ (State.usePattern s no).pend = s.pend ∧
    (State.usePattern s no).iss = s.iss ∧ (State.usePattern s no).cmp = s.cmp ∧ (State.usePattern s no).cv = s.cv ∧
    (State.usePattern s no).cm = s.cm ∧ (State.usePattern s no).cc = s.cc ∧ (State.usePattern s no).cx = s.cx ∧
    (State.usePattern s no).rs = s.rs ∧ (State.usePattern s no).dq = s.dq ∧ (State.usePattern s no).dpend = s.dpend ∧
    (State.usePattern s no).me = s.me ∧ (State.usePattern s no).run = s.run ∧ (State.usePattern s no).sram = s.sram ∧
    (State.usePattern s no).mem = s.mem ∧ (State.usePattern s no).sh = s.sh ∧ (State.usePattern s no).grp = s.grp ∧
    (State.usePattern s no).fw = s.fw ∧ (State.usePattern s no).tr = s.tr := by
  refine ⟨?_, ?_, ?_, ?_, ?_, ?_, ?_, ?_, ?_, ?_, ?_, ?_, ?_, ?_, ?_, ?_, ?_, ?_, ?_, ?_, ?_, ?_, ?_, ?_, ?_, ?_⟩ <;>
    (unfold State.usePattern; (repeat' split) <;> rfl)

@[simp] theorem State.bankBack_keeps (s : State) (k : Nat) (b : List Byte) :
    (State.bankBack s k b).clk = s.clk ∧ (State.bankBack s k b).env = s.env ∧ (State.bankBack s k b).actor = s.actor ∧
    (State.bankBack s k b).regs = s.regs ∧ (State.bankBack s k b).ctl = s.ctl ∧ (State.bankBack s k b).code = s.code ∧
    (State.bankBack s k b).sx = s.sx ∧ (State.bankBack s k b).trap = s.trap ∧ (State.bankBack s k b).pend = s.pend ∧
    (State.bankBack s k b).iss = s.iss ∧ (State.bankBack s k b).cmp = s.cmp ∧ (State.bankBack s k b).cv = s.cv ∧
    (State.bankBack s k b).cm = s.cm ∧ (State.bankBack s k b).cc = s.cc ∧ (State.bankBack s k b).cx = s.cx ∧
    (State.bankBack s k b).rs = s.rs ∧ (State.bankBack s k b).dq = s.dq ∧ (State.bankBack s k b).dpend = s.dpend ∧
    (State.bankBack s k b).me = s.me ∧ (State.bankBack s k b).run = s.run ∧ (State.bankBack s k b).mem = s.mem ∧
    (State.bankBack s k b).fab = s.fab ∧ (State.bankBack s k b).sh = s.sh ∧ (State.bankBack s k b).grp = s.grp ∧
    (State.bankBack s k b).fw = s.fw ∧ (State.bankBack s k b).tr = s.tr := ⟨rfl, rfl, rfl, rfl, rfl, rfl, rfl, rfl, rfl, rfl, rfl, rfl, rfl, rfl, rfl, rfl, rfl, rfl, rfl, rfl, rfl, rfl, rfl, rfl, rfl, rfl⟩

@[simp] theorem State.wake_keeps (s : State) :
    (State.wake s).clk = s.clk ∧ (State.wake s).env = s.env ∧ (State.wake s).actor = s.actor ∧ (State.wake s).regs = s.regs ∧
    (State.wake s).ctl = s.ctl ∧ (State.wake s).code = s.code ∧ (State.wake s).trap = s.trap ∧ (State.wake s).pend = s.pend ∧
    (State.wake s).iss = s.iss ∧ (State.wake s).cmp = s.cmp ∧ (State.wake s).cx = s.cx ∧ (State.wake s).dq = s.dq ∧
    (State.wake s).dpend = s.dpend ∧ (State.wake s).me = s.me ∧ (State.wake s).run = s.run ∧ (State.wake s).sram = s.sram ∧
    (State.wake s).mem = s.mem ∧ (State.wake s).fab = s.fab ∧ (State.wake s).sh = s.sh ∧ (State.wake s).grp = s.grp ∧
    (State.wake s).fw = s.fw ∧ (State.wake s).tr = s.tr := ⟨rfl, rfl, rfl, rfl, rfl, rfl, rfl, rfl, rfl, rfl, rfl, rfl, rfl, rfl, rfl, rfl, rfl, rfl, rfl, rfl, rfl, rfl⟩

@[simp] theorem State.mapHold_keeps (s : State) (n g : Nat) (f : GHold → GHold) :
    (State.mapHold s n g f).clk = s.clk ∧ (State.mapHold s n g f).env = s.env ∧ (State.mapHold s n g f).actor = s.actor ∧
    (State.mapHold s n g f).regs = s.regs ∧ (State.mapHold s n g f).ctl = s.ctl ∧ (State.mapHold s n g f).code = s.code ∧
    (State.mapHold s n g f).sx = s.sx ∧ (State.mapHold s n g f).trap = s.trap ∧ (State.mapHold s n g f).pend = s.pend ∧
    (State.mapHold s n g f).iss = s.iss ∧ (State.mapHold s n g f).cmp = s.cmp ∧ (State.mapHold s n g f).cv = s.cv ∧
    (State.mapHold s n g f).cm = s.cm ∧ (State.mapHold s n g f).cc = s.cc ∧ (State.mapHold s n g f).cx = s.cx ∧
    (State.mapHold s n g f).rs = s.rs ∧ (State.mapHold s n g f).dq = s.dq ∧ (State.mapHold s n g f).dpend = s.dpend ∧
    (State.mapHold s n g f).me = s.me ∧ (State.mapHold s n g f).run = s.run ∧ (State.mapHold s n g f).sram = s.sram ∧
    (State.mapHold s n g f).mem = s.mem ∧ (State.mapHold s n g f).fab = s.fab ∧ (State.mapHold s n g f).sh = s.sh ∧
    (State.mapHold s n g f).grp = s.grp ∧ (State.mapHold s n g f).tr = s.tr := ⟨rfl, rfl, rfl, rfl, rfl, rfl, rfl, rfl, rfl, rfl, rfl, rfl, rfl, rfl, rfl, rfl, rfl, rfl, rfl, rfl, rfl, rfl, rfl, rfl, rfl, rfl⟩

@[simp] theorem State.clearLate_keeps (s : State) (n g : Nat) :
    (State.clearLate s n g).clk = s.clk ∧ (State.clearLate s n g).env = s.env ∧ (State.clearLate s n g).actor = s.actor ∧
    (State.clearLate s n g).regs = s.regs ∧ (State.clearLate s n g).ctl = s.ctl ∧ (State.clearLate s n g).code = s.code ∧
    (State.clearLate s n g).sx = s.sx ∧ (State.clearLate s n g).trap = s.trap ∧ (State.clearLate s n g).pend = s.pend ∧
    (State.clearLate s n g).iss = s.iss ∧ (State.clearLate s n g).cmp = s.cmp ∧ (State.clearLate s n g).cv = s.cv ∧
    (State.clearLate s n g).cm = s.cm ∧ (State.clearLate s n g).cc = s.cc ∧ (State.clearLate s n g).cx = s.cx ∧
    (State.clearLate s n g).rs = s.rs ∧ (State.clearLate s n g).dq = s.dq ∧ (State.clearLate s n g).dpend = s.dpend ∧
    (State.clearLate s n g).me = s.me ∧ (State.clearLate s n g).run = s.run ∧ (State.clearLate s n g).sram = s.sram ∧
    (State.clearLate s n g).mem = s.mem ∧ (State.clearLate s n g).fab = s.fab ∧ (State.clearLate s n g).sh = s.sh ∧
    (State.clearLate s n g).tr = s.tr := by
  refine ⟨?_, ?_, ?_, ?_, ?_, ?_, ?_, ?_, ?_, ?_, ?_, ?_, ?_, ?_, ?_, ?_, ?_, ?_, ?_, ?_, ?_, ?_, ?_, ?_, ?_⟩ <;>
    (unfold State.clearLate; (repeat' split) <;> rfl)

@[simp] theorem State.othersLeave_keeps (s : State) :
    (State.othersLeave s).clk = s.clk ∧ (State.othersLeave s).actor = s.actor ∧ (State.othersLeave s).regs = s.regs ∧
    (State.othersLeave s).ctl = s.ctl ∧ (State.othersLeave s).code = s.code ∧ (State.othersLeave s).sx = s.sx ∧
    (State.othersLeave s).trap = s.trap ∧ (State.othersLeave s).pend = s.pend ∧ (State.othersLeave s).iss = s.iss ∧
    (State.othersLeave s).cmp = s.cmp ∧ (State.othersLeave s).cv = s.cv ∧ (State.othersLeave s).cm = s.cm ∧
    (State.othersLeave s).cc = s.cc ∧ (State.othersLeave s).cx = s.cx ∧ (State.othersLeave s).rs = s.rs ∧
    (State.othersLeave s).dq = s.dq ∧ (State.othersLeave s).dpend = s.dpend ∧ (State.othersLeave s).me = s.me ∧
    (State.othersLeave s).run = s.run ∧ (State.othersLeave s).sram = s.sram ∧ (State.othersLeave s).mem = s.mem ∧
    (State.othersLeave s).fab = s.fab ∧ (State.othersLeave s).sh = s.sh ∧ (State.othersLeave s).fw = s.fw ∧
    (State.othersLeave s).tr = s.tr := ⟨rfl, rfl, rfl, rfl, rfl, rfl, rfl, rfl, rfl, rfl, rfl, rfl, rfl, rfl, rfl, rfl, rfl, rfl, rfl, rfl, rfl, rfl, rfl, rfl, rfl⟩

@[simp] theorem State.forget_keeps (s : State) (no : Nat) :
    (State.forget s no).clk = s.clk ∧ (State.forget s no).env = s.env ∧ (State.forget s no).actor = s.actor ∧
    (State.forget s no).regs = s.regs ∧ (State.forget s no).ctl = s.ctl ∧ (State.forget s no).code = s.code ∧
    (State.forget s no).sx = s.sx ∧ (State.forget s no).trap = s.trap ∧ (State.forget s no).pend = s.pend ∧
    (State.forget s no).iss = s.iss ∧ (State.forget s no).cmp = s.cmp ∧ (State.forget s no).cv = s.cv ∧
    (State.forget s no).cm = s.cm ∧ (State.forget s no).cc = s.cc ∧ (State.forget s no).cx = s.cx ∧ (State.forget s no).rs = s.rs ∧
    (State.forget s no).dq = s.dq ∧ (State.forget s no).dpend = s.dpend ∧ (State.forget s no).me = s.me ∧
    (State.forget s no).run = s.run ∧ (State.forget s no).sram = s.sram ∧ (State.forget s no).mem = s.mem ∧
    (State.forget s no).sh = s.sh ∧ (State.forget s no).grp = s.grp ∧ (State.forget s no).tr = s.tr := by
  refine ⟨?_, ?_, ?_, ?_, ?_, ?_, ?_, ?_, ?_, ?_, ?_, ?_, ?_, ?_, ?_, ?_, ?_, ?_, ?_, ?_, ?_, ?_, ?_, ?_, ?_⟩ <;>
    (unfold State.forget; (repeat' split) <;> rfl)

@[simp] theorem State.endWorld_keeps (s : State) (w : Nat) :
    (State.endWorld s w).clk = s.clk ∧ (State.endWorld s w).env = s.env ∧ (State.endWorld s w).actor = s.actor ∧
    (State.endWorld s w).regs = s.regs ∧ (State.endWorld s w).ctl = s.ctl ∧ (State.endWorld s w).code = s.code ∧
    (State.endWorld s w).sx = s.sx ∧ (State.endWorld s w).trap = s.trap ∧ (State.endWorld s w).pend = s.pend ∧
    (State.endWorld s w).iss = s.iss ∧ (State.endWorld s w).cmp = s.cmp ∧ (State.endWorld s w).cv = s.cv ∧
    (State.endWorld s w).cm = s.cm ∧ (State.endWorld s w).cc = s.cc ∧ (State.endWorld s w).cx = s.cx ∧
    (State.endWorld s w).rs = s.rs ∧ (State.endWorld s w).dq = s.dq ∧ (State.endWorld s w).dpend = s.dpend ∧
    (State.endWorld s w).me = s.me ∧ (State.endWorld s w).run = s.run ∧ (State.endWorld s w).sram = s.sram ∧
    (State.endWorld s w).fab = s.fab ∧ (State.endWorld s w).sh = s.sh ∧ (State.endWorld s w).grp = s.grp ∧
    (State.endWorld s w).fw = s.fw := ⟨rfl, rfl, rfl, rfl, rfl, rfl, rfl, rfl, rfl, rfl, rfl, rfl, rfl, rfl, rfl, rfl, rfl, rfl, rfl, rfl, rfl, rfl, rfl, rfl, rfl⟩

@[simp] theorem State.slidePorts_keeps (s : State) :
    (State.slidePorts s).clk = s.clk ∧ (State.slidePorts s).env = s.env ∧ (State.slidePorts s).actor = s.actor ∧
    (State.slidePorts s).regs = s.regs ∧ (State.slidePorts s).ctl = s.ctl ∧ (State.slidePorts s).code = s.code ∧
    (State.slidePorts s).trap = s.trap ∧ (State.slidePorts s).iss = s.iss ∧ (State.slidePorts s).cmp = s.cmp ∧
    (State.slidePorts s).cv = s.cv ∧ (State.slidePorts s).cm = s.cm ∧ (State.slidePorts s).cx = s.cx ∧
    (State.slidePorts s).rs = s.rs ∧ (State.slidePorts s).dq = s.dq ∧ (State.slidePorts s).dpend = s.dpend ∧
    (State.slidePorts s).me = s.me ∧ (State.slidePorts s).run = s.run ∧ (State.slidePorts s).sram = s.sram ∧
    (State.slidePorts s).mem = s.mem ∧ (State.slidePorts s).grp = s.grp ∧ (State.slidePorts s).fw = s.fw ∧
    (State.slidePorts s).tr = s.tr := by
  refine ⟨?_, ?_, ?_, ?_, ?_, ?_, ?_, ?_, ?_, ?_, ?_, ?_, ?_, ?_, ?_, ?_, ?_, ?_, ?_, ?_, ?_, ?_⟩ <;>
    (unfold State.slidePorts; (repeat' split) <;> rfl)

@[simp] theorem State.setLimit_keeps (s : State) (vi key : Nat) (v : W64) :
    (State.setLimit s vi key v).clk = s.clk ∧ (State.setLimit s vi key v).env = s.env ∧ (State.setLimit s vi key v).actor = s.actor ∧
    (State.setLimit s vi key v).regs = s.regs ∧ (State.setLimit s vi key v).ctl = s.ctl ∧ (State.setLimit s vi key v).code = s.code ∧
    (State.setLimit s vi key v).sx = s.sx ∧ (State.setLimit s vi key v).trap = s.trap ∧ (State.setLimit s vi key v).pend = s.pend ∧
    (State.setLimit s vi key v).iss = s.iss ∧ (State.setLimit s vi key v).cmp = s.cmp ∧ (State.setLimit s vi key v).cv = s.cv ∧
    (State.setLimit s vi key v).cm = s.cm ∧ (State.setLimit s vi key v).cc = s.cc ∧ (State.setLimit s vi key v).cx = s.cx ∧
    (State.setLimit s vi key v).rs = s.rs ∧ (State.setLimit s vi key v).dq = s.dq ∧ (State.setLimit s vi key v).dpend = s.dpend ∧
    (State.setLimit s vi key v).me = s.me ∧ (State.setLimit s vi key v).run = s.run ∧ (State.setLimit s vi key v).sram = s.sram ∧
    (State.setLimit s vi key v).fab = s.fab ∧ (State.setLimit s vi key v).sh = s.sh ∧ (State.setLimit s vi key v).grp = s.grp ∧
    (State.setLimit s vi key v).fw = s.fw ∧ (State.setLimit s vi key v).tr = s.tr := by
  refine ⟨?_, ?_, ?_, ?_, ?_, ?_, ?_, ?_, ?_, ?_, ?_, ?_, ?_, ?_, ?_, ?_, ?_, ?_, ?_, ?_, ?_, ?_, ?_, ?_, ?_, ?_⟩ <;>
    (unfold State.setLimit; (repeat' split) <;> rfl)

@[simp] theorem State.islWrite_keeps (s : State) (i : Nat) (v : W64) :
    (State.islWrite s i v).clk = s.clk ∧ (State.islWrite s i v).env = s.env ∧ (State.islWrite s i v).actor = s.actor ∧
    (State.islWrite s i v).regs = s.regs ∧ (State.islWrite s i v).ctl = s.ctl ∧ (State.islWrite s i v).code = s.code ∧
    (State.islWrite s i v).sx = s.sx ∧ (State.islWrite s i v).trap = s.trap ∧ (State.islWrite s i v).pend = s.pend ∧
    (State.islWrite s i v).iss = s.iss ∧ (State.islWrite s i v).cmp = s.cmp ∧ (State.islWrite s i v).cv = s.cv ∧
    (State.islWrite s i v).cm = s.cm ∧ (State.islWrite s i v).cc = s.cc ∧ (State.islWrite s i v).cx = s.cx ∧
    (State.islWrite s i v).rs = s.rs ∧ (State.islWrite s i v).dq = s.dq ∧ (State.islWrite s i v).dpend = s.dpend ∧
    (State.islWrite s i v).me = s.me ∧ (State.islWrite s i v).run = s.run ∧ (State.islWrite s i v).sram = s.sram ∧
    (State.islWrite s i v).mem = s.mem ∧ (State.islWrite s i v).fab = s.fab ∧ (State.islWrite s i v).sh = s.sh ∧
    (State.islWrite s i v).grp = s.grp ∧ (State.islWrite s i v).tr = s.tr := ⟨rfl, rfl, rfl, rfl, rfl, rfl, rfl, rfl, rfl, rfl, rfl, rfl, rfl, rfl, rfl, rfl, rfl, rfl, rfl, rfl, rfl, rfl, rfl, rfl, rfl, rfl⟩

@[simp] theorem State.objWrite_keeps (s : State) (id o : Nat) (b : List Byte) :
    (State.objWrite s id o b).clk = s.clk ∧ (State.objWrite s id o b).env = s.env ∧ (State.objWrite s id o b).actor = s.actor ∧
    (State.objWrite s id o b).regs = s.regs ∧ (State.objWrite s id o b).ctl = s.ctl ∧ (State.objWrite s id o b).code = s.code ∧
    (State.objWrite s id o b).sx = s.sx ∧ (State.objWrite s id o b).trap = s.trap ∧ (State.objWrite s id o b).pend = s.pend ∧
    (State.objWrite s id o b).iss = s.iss ∧ (State.objWrite s id o b).cmp = s.cmp ∧ (State.objWrite s id o b).cv = s.cv ∧
    (State.objWrite s id o b).cm = s.cm ∧ (State.objWrite s id o b).cc = s.cc ∧ (State.objWrite s id o b).cx = s.cx ∧
    (State.objWrite s id o b).rs = s.rs ∧ (State.objWrite s id o b).dq = s.dq ∧ (State.objWrite s id o b).dpend = s.dpend ∧
    (State.objWrite s id o b).me = s.me ∧ (State.objWrite s id o b).run = s.run ∧ (State.objWrite s id o b).sram = s.sram ∧
    (State.objWrite s id o b).fab = s.fab ∧ (State.objWrite s id o b).sh = s.sh ∧ (State.objWrite s id o b).grp = s.grp ∧
    (State.objWrite s id o b).tr = s.tr := by
  refine ⟨?_, ?_, ?_, ?_, ?_, ?_, ?_, ?_, ?_, ?_, ?_, ?_, ?_, ?_, ?_, ?_, ?_, ?_, ?_, ?_, ?_, ?_, ?_, ?_, ?_⟩ <;>
    (unfold State.objWrite; (try dsimp only); (repeat' split) <;> simp)

@[simp] theorem State.reroute1_keeps (s : State) (k : Nat) (f : Flit) :
    (State.reroute1 s k f).clk = s.clk ∧ (State.reroute1 s k f).env = s.env ∧ (State.reroute1 s k f).actor = s.actor ∧
    (State.reroute1 s k f).regs = s.regs ∧ (State.reroute1 s k f).ctl = s.ctl ∧ (State.reroute1 s k f).code = s.code ∧
    (State.reroute1 s k f).sx = s.sx ∧ (State.reroute1 s k f).trap = s.trap ∧ (State.reroute1 s k f).pend = s.pend ∧
    (State.reroute1 s k f).iss = s.iss ∧ (State.reroute1 s k f).cmp = s.cmp ∧ (State.reroute1 s k f).cv = s.cv ∧
    (State.reroute1 s k f).cm = s.cm ∧ (State.reroute1 s k f).cc = s.cc ∧ (State.reroute1 s k f).cx = s.cx ∧
    (State.reroute1 s k f).rs = s.rs ∧ (State.reroute1 s k f).dq = s.dq ∧ (State.reroute1 s k f).dpend = s.dpend ∧
    (State.reroute1 s k f).me = s.me ∧ (State.reroute1 s k f).run = s.run ∧ (State.reroute1 s k f).sram = s.sram ∧
    (State.reroute1 s k f).mem = s.mem ∧ (State.reroute1 s k f).sh = s.sh ∧ (State.reroute1 s k f).grp = s.grp ∧
    (State.reroute1 s k f).fw = s.fw ∧ (State.reroute1 s k f).tr = s.tr := by
  refine ⟨?_, ?_, ?_, ?_, ?_, ?_, ?_, ?_, ?_, ?_, ?_, ?_, ?_, ?_, ?_, ?_, ?_, ?_, ?_, ?_, ?_, ?_, ?_, ?_, ?_, ?_⟩ <;>
    (unfold State.reroute1; (try dsimp only); (repeat' split) <;> simp)

@[simp] theorem State.leave1_keeps (s : State) (x : Leaving) :
    (State.leave1 s x).clk = s.clk ∧ (State.leave1 s x).env = s.env ∧ (State.leave1 s x).actor = s.actor ∧
    (State.leave1 s x).regs = s.regs ∧ (State.leave1 s x).ctl = s.ctl ∧ (State.leave1 s x).code = s.code ∧
    (State.leave1 s x).sx = s.sx ∧ (State.leave1 s x).trap = s.trap ∧ (State.leave1 s x).pend = s.pend ∧
    (State.leave1 s x).iss = s.iss ∧ (State.leave1 s x).cmp = s.cmp ∧ (State.leave1 s x).cv = s.cv ∧ (State.leave1 s x).cm = s.cm ∧
    (State.leave1 s x).cc = s.cc ∧ (State.leave1 s x).cx = s.cx ∧ (State.leave1 s x).rs = s.rs ∧ (State.leave1 s x).dq = s.dq ∧
    (State.leave1 s x).dpend = s.dpend ∧ (State.leave1 s x).me = s.me ∧ (State.leave1 s x).run = s.run ∧
    (State.leave1 s x).mem = s.mem ∧ (State.leave1 s x).sh = s.sh ∧ (State.leave1 s x).grp = s.grp ∧ (State.leave1 s x).fw = s.fw ∧
    (State.leave1 s x).tr = s.tr := by
  refine ⟨?_, ?_, ?_, ?_, ?_, ?_, ?_, ?_, ?_, ?_, ?_, ?_, ?_, ?_, ?_, ?_, ?_, ?_, ?_, ?_, ?_, ?_, ?_, ?_, ?_⟩ <;>
    (unfold State.leave1; (try dsimp only); (repeat' split) <;> simp)

@[simp] theorem State.grantReq_keeps (s : State) (r : FabReq) :
    (State.grantReq s r).clk = s.clk ∧ (State.grantReq s r).env = s.env ∧ (State.grantReq s r).actor = s.actor ∧
    (State.grantReq s r).regs = s.regs ∧ (State.grantReq s r).ctl = s.ctl ∧ (State.grantReq s r).code = s.code ∧
    (State.grantReq s r).sx = s.sx ∧ (State.grantReq s r).trap = s.trap ∧ (State.grantReq s r).pend = s.pend ∧
    (State.grantReq s r).iss = s.iss ∧ (State.grantReq s r).cmp = s.cmp ∧ (State.grantReq s r).cv = s.cv ∧
    (State.grantReq s r).cm = s.cm ∧ (State.grantReq s r).cc = s.cc ∧ (State.grantReq s r).cx = s.cx ∧
    (State.grantReq s r).rs = s.rs ∧ (State.grantReq s r).dq = s.dq ∧ (State.grantReq s r).dpend = s.dpend ∧
    (State.grantReq s r).me = s.me ∧ (State.grantReq s r).run = s.run ∧ (State.grantReq s r).sram = s.sram ∧
    (State.grantReq s r).mem = s.mem ∧ (State.grantReq s r).sh = s.sh ∧ (State.grantReq s r).grp = s.grp ∧
    (State.grantReq s r).fw = s.fw ∧ (State.grantReq s r).tr = s.tr := by
  refine ⟨?_, ?_, ?_, ?_, ?_, ?_, ?_, ?_, ?_, ?_, ?_, ?_, ?_, ?_, ?_, ?_, ?_, ?_, ?_, ?_, ?_, ?_, ?_, ?_, ?_, ?_⟩ <;>
    (unfold State.grantReq; (try dsimp only); (repeat' split) <;> simp)

@[simp] theorem State.fabLanded_keeps (s : State) (l : Landing) :
    (State.fabLanded s l).clk = s.clk ∧ (State.fabLanded s l).env = s.env ∧ (State.fabLanded s l).actor = s.actor ∧
    (State.fabLanded s l).regs = s.regs ∧ (State.fabLanded s l).ctl = s.ctl ∧ (State.fabLanded s l).code = s.code ∧
    (State.fabLanded s l).sx = s.sx ∧ (State.fabLanded s l).trap = s.trap ∧ (State.fabLanded s l).pend = s.pend ∧
    (State.fabLanded s l).iss = s.iss ∧ (State.fabLanded s l).cmp = s.cmp ∧ (State.fabLanded s l).cv = s.cv ∧
    (State.fabLanded s l).cm = s.cm ∧ (State.fabLanded s l).cx = s.cx ∧ (State.fabLanded s l).rs = s.rs ∧
    (State.fabLanded s l).dq = s.dq ∧ (State.fabLanded s l).dpend = s.dpend ∧ (State.fabLanded s l).me = s.me ∧
    (State.fabLanded s l).run = s.run ∧ (State.fabLanded s l).mem = s.mem ∧ (State.fabLanded s l).sh = s.sh ∧
    (State.fabLanded s l).grp = s.grp ∧ (State.fabLanded s l).fw = s.fw ∧ (State.fabLanded s l).tr = s.tr := by
  refine ⟨?_, ?_, ?_, ?_, ?_, ?_, ?_, ?_, ?_, ?_, ?_, ?_, ?_, ?_, ?_, ?_, ?_, ?_, ?_, ?_, ?_, ?_, ?_, ?_⟩ <;>
    (unfold State.fabLanded; (try dsimp only); (repeat' split) <;> simp)

@[simp] theorem State.loadRun_keeps (s : State) (k g : Nat) (seam : Bool) :
    (State.loadRun s k g seam).clk = s.clk ∧ (State.loadRun s k g seam).env = s.env ∧ (State.loadRun s k g seam).actor = s.actor ∧
    (State.loadRun s k g seam).regs = s.regs ∧ (State.loadRun s k g seam).ctl = s.ctl ∧ (State.loadRun s k g seam).code = s.code ∧
    (State.loadRun s k g seam).sx = s.sx ∧ (State.loadRun s k g seam).trap = s.trap ∧ (State.loadRun s k g seam).pend = s.pend ∧
    (State.loadRun s k g seam).iss = s.iss ∧ (State.loadRun s k g seam).cmp = s.cmp ∧ (State.loadRun s k g seam).rs = s.rs ∧
    (State.loadRun s k g seam).dq = s.dq ∧ (State.loadRun s k g seam).dpend = s.dpend ∧ (State.loadRun s k g seam).me = s.me ∧
    (State.loadRun s k g seam).fab = s.fab ∧ (State.loadRun s k g seam).sh = s.sh ∧ (State.loadRun s k g seam).grp = s.grp ∧
    (State.loadRun s k g seam).tr = s.tr := by
  refine ⟨?_, ?_, ?_, ?_, ?_, ?_, ?_, ?_, ?_, ?_, ?_, ?_, ?_, ?_, ?_, ?_, ?_, ?_, ?_⟩ <;>
    (unfold State.loadRun; (repeat' split) <;> rfl)

@[simp] theorem State.realign_keeps (s : State) :
    (State.realign s).env = s.env ∧ (State.realign s).actor = s.actor ∧ (State.realign s).regs = s.regs ∧
    (State.realign s).ctl = s.ctl ∧ (State.realign s).code = s.code ∧ (State.realign s).sx = s.sx ∧ (State.realign s).trap = s.trap ∧
    (State.realign s).pend = s.pend ∧ (State.realign s).iss = s.iss ∧ (State.realign s).cmp = s.cmp ∧ (State.realign s).cv = s.cv ∧
    (State.realign s).cm = s.cm ∧ (State.realign s).cc = s.cc ∧ (State.realign s).cx = s.cx ∧ (State.realign s).rs = s.rs ∧
    (State.realign s).dq = s.dq ∧ (State.realign s).dpend = s.dpend ∧ (State.realign s).me = s.me ∧ (State.realign s).sram = s.sram ∧
    (State.realign s).mem = s.mem ∧ (State.realign s).fab = s.fab ∧ (State.realign s).sh = s.sh ∧ (State.realign s).grp = s.grp ∧
    (State.realign s).fw = s.fw ∧ (State.realign s).tr = s.tr := by
  refine ⟨?_, ?_, ?_, ?_, ?_, ?_, ?_, ?_, ?_, ?_, ?_, ?_, ?_, ?_, ?_, ?_, ?_, ?_, ?_, ?_, ?_, ?_, ?_, ?_, ?_⟩ <;>
    (unfold State.realign; (try dsimp only); (repeat' split) <;> simp)

@[simp] theorem State.writeSlot_keeps (s : State) (l : Launch) :
    (State.writeSlot s l).clk = s.clk ∧ (State.writeSlot s l).actor = s.actor ∧ (State.writeSlot s l).regs = s.regs ∧
    (State.writeSlot s l).ctl = s.ctl ∧ (State.writeSlot s l).code = s.code ∧ (State.writeSlot s l).sx = s.sx ∧
    (State.writeSlot s l).trap = s.trap ∧ (State.writeSlot s l).pend = s.pend ∧ (State.writeSlot s l).iss = s.iss ∧
    (State.writeSlot s l).cmp = s.cmp ∧ (State.writeSlot s l).cv = s.cv ∧ (State.writeSlot s l).cm = s.cm ∧
    (State.writeSlot s l).cc = s.cc ∧ (State.writeSlot s l).cx = s.cx ∧ (State.writeSlot s l).rs = s.rs ∧
    (State.writeSlot s l).dq = s.dq ∧ (State.writeSlot s l).dpend = s.dpend ∧ (State.writeSlot s l).me = s.me ∧
    (State.writeSlot s l).run = s.run ∧ (State.writeSlot s l).sram = s.sram ∧ (State.writeSlot s l).fab = s.fab ∧
    (State.writeSlot s l).sh = s.sh ∧ (State.writeSlot s l).grp = s.grp ∧ (State.writeSlot s l).tr = s.tr := by
  refine ⟨?_, ?_, ?_, ?_, ?_, ?_, ?_, ?_, ?_, ?_, ?_, ?_, ?_, ?_, ?_, ?_, ?_, ?_, ?_, ?_, ?_, ?_, ?_, ?_⟩ <;>
    (unfold State.writeSlot; (try dsimp only); (repeat' split) <;> simp)

@[simp] theorem State.nameLaunch_keeps (s : State) (no : Nat) :
    (State.nameLaunch s no).clk = s.clk ∧ (State.nameLaunch s no).env = s.env ∧ (State.nameLaunch s no).actor = s.actor ∧
    (State.nameLaunch s no).regs = s.regs ∧ (State.nameLaunch s no).ctl = s.ctl ∧ (State.nameLaunch s no).code = s.code ∧
    (State.nameLaunch s no).sx = s.sx ∧ (State.nameLaunch s no).trap = s.trap ∧ (State.nameLaunch s no).pend = s.pend ∧
    (State.nameLaunch s no).iss = s.iss ∧ (State.nameLaunch s no).cmp = s.cmp ∧ (State.nameLaunch s no).cv = s.cv ∧
    (State.nameLaunch s no).cm = s.cm ∧ (State.nameLaunch s no).cc = s.cc ∧ (State.nameLaunch s no).cx = s.cx ∧
    (State.nameLaunch s no).rs = s.rs ∧ (State.nameLaunch s no).dq = s.dq ∧ (State.nameLaunch s no).dpend = s.dpend ∧
    (State.nameLaunch s no).me = s.me ∧ (State.nameLaunch s no).run = s.run ∧ (State.nameLaunch s no).sram = s.sram ∧
    (State.nameLaunch s no).mem = s.mem ∧ (State.nameLaunch s no).sh = s.sh ∧ (State.nameLaunch s no).grp = s.grp ∧
    (State.nameLaunch s no).tr = s.tr := by
  refine ⟨?_, ?_, ?_, ?_, ?_, ?_, ?_, ?_, ?_, ?_, ?_, ?_, ?_, ?_, ?_, ?_, ?_, ?_, ?_, ?_, ?_, ?_, ?_, ?_, ?_⟩ <;>
    (unfold State.nameLaunch; (try dsimp only); (repeat' split) <;> simp)

@[simp] theorem State.startCoreHere_keeps (s : State) (l : Launch) :
    (State.startCoreHere s l).clk = s.clk ∧ (State.startCoreHere s l).env = s.env ∧ (State.startCoreHere s l).actor = s.actor ∧
    (State.startCoreHere s l).sh = s.sh ∧ (State.startCoreHere s l).fw = s.fw ∧ (State.startCoreHere s l).tr = s.tr := by
  refine ⟨?_, ?_, ?_, ?_, ?_, ?_⟩ <;>
    (unfold State.startCoreHere; (try dsimp only); (repeat' split) <;> simp)

@[simp] theorem State.restore_keeps (s : State) (x : Saved) :
    (State.restore s x).clk = s.clk ∧ (State.restore s x).env = s.env ∧ (State.restore s x).actor = s.actor ∧
    (State.restore s x).mem = s.mem ∧ (State.restore s x).sh = s.sh ∧ (State.restore s x).tr = s.tr := by
  refine ⟨?_, ?_, ?_, ?_, ?_, ?_⟩ <;>
    (unfold State.restore; (try dsimp only); (repeat' split) <;> simp)

@[simp] theorem State.requestAny_keeps (s : State) (n g : Nat) (miss : Bool) :
    (State.requestAny s n g miss).clk = s.clk ∧ (State.requestAny s n g miss).env = s.env ∧
    (State.requestAny s n g miss).actor = s.actor ∧ (State.requestAny s n g miss).regs = s.regs ∧
    (State.requestAny s n g miss).ctl = s.ctl ∧ (State.requestAny s n g miss).code = s.code ∧
    (State.requestAny s n g miss).sx = s.sx ∧ (State.requestAny s n g miss).trap = s.trap ∧
    (State.requestAny s n g miss).pend = s.pend ∧ (State.requestAny s n g miss).iss = s.iss ∧
    (State.requestAny s n g miss).cmp = s.cmp ∧ (State.requestAny s n g miss).cv = s.cv ∧ (State.requestAny s n g miss).cm = s.cm ∧
    (State.requestAny s n g miss).cc = s.cc ∧ (State.requestAny s n g miss).cx = s.cx ∧ (State.requestAny s n g miss).rs = s.rs ∧
    (State.requestAny s n g miss).dq = s.dq ∧ (State.requestAny s n g miss).dpend = s.dpend ∧
    (State.requestAny s n g miss).me = s.me ∧ (State.requestAny s n g miss).run = s.run ∧
    (State.requestAny s n g miss).sram = s.sram ∧ (State.requestAny s n g miss).mem = s.mem ∧
    (State.requestAny s n g miss).fab = s.fab ∧ (State.requestAny s n g miss).sh = s.sh ∧ (State.requestAny s n g miss).tr = s.tr := by
  refine ⟨?_, ?_, ?_, ?_, ?_, ?_, ?_, ?_, ?_, ?_, ?_, ?_, ?_, ?_, ?_, ?_, ?_, ?_, ?_, ?_, ?_, ?_, ?_, ?_, ?_⟩ <;>
    (unfold State.requestAny; (try dsimp only); (repeat' split) <;> simp)

@[simp] theorem State.preemptLaunch_keeps (s : State) (l : Launch) :
    (State.preemptLaunch s l).clk = s.clk ∧ (State.preemptLaunch s l).actor = s.actor ∧ (State.preemptLaunch s l).regs = s.regs ∧
    (State.preemptLaunch s l).ctl = s.ctl ∧ (State.preemptLaunch s l).code = s.code ∧ (State.preemptLaunch s l).pend = s.pend ∧
    (State.preemptLaunch s l).iss = s.iss ∧ (State.preemptLaunch s l).cmp = s.cmp ∧ (State.preemptLaunch s l).cv = s.cv ∧
    (State.preemptLaunch s l).cm = s.cm ∧ (State.preemptLaunch s l).cc = s.cc ∧ (State.preemptLaunch s l).cx = s.cx ∧
    (State.preemptLaunch s l).rs = s.rs ∧ (State.preemptLaunch s l).dq = s.dq ∧ (State.preemptLaunch s l).dpend = s.dpend ∧
    (State.preemptLaunch s l).me = s.me ∧ (State.preemptLaunch s l).run = s.run ∧ (State.preemptLaunch s l).sram = s.sram ∧
    (State.preemptLaunch s l).mem = s.mem ∧ (State.preemptLaunch s l).fab = s.fab ∧ (State.preemptLaunch s l).sh = s.sh ∧
    (State.preemptLaunch s l).tr = s.tr := by
  refine ⟨?_, ?_, ?_, ?_, ?_, ?_, ?_, ?_, ?_, ?_, ?_, ?_, ?_, ?_, ?_, ?_, ?_, ?_, ?_, ?_, ?_, ?_⟩ <;>
    (unfold State.preemptLaunch; (try dsimp only); (repeat' split) <;> simp)

@[simp] theorem State.placeS_keeps (s : State) (w : Nat) :
    (State.placeS s w).clk = s.clk ∧ (State.placeS s w).env = s.env ∧ (State.placeS s w).actor = s.actor ∧
    (State.placeS s w).regs = s.regs ∧ (State.placeS s w).ctl = s.ctl ∧ (State.placeS s w).trap = s.trap ∧
    (State.placeS s w).pend = s.pend ∧ (State.placeS s w).iss = s.iss ∧ (State.placeS s w).cmp = s.cmp ∧
    (State.placeS s w).cv = s.cv ∧ (State.placeS s w).cm = s.cm ∧ (State.placeS s w).cc = s.cc ∧ (State.placeS s w).cx = s.cx ∧
    (State.placeS s w).rs = s.rs ∧ (State.placeS s w).dq = s.dq ∧ (State.placeS s w).dpend = s.dpend ∧ (State.placeS s w).me = s.me ∧
    (State.placeS s w).sram = s.sram ∧ (State.placeS s w).fab = s.fab ∧ (State.placeS s w).sh = s.sh ∧
    (State.placeS s w).grp = s.grp ∧ (State.placeS s w).tr = s.tr := by
  refine ⟨?_, ?_, ?_, ?_, ?_, ?_, ?_, ?_, ?_, ?_, ?_, ?_, ?_, ?_, ?_, ?_, ?_, ?_, ?_, ?_, ?_, ?_⟩ <;>
    (unfold State.placeS; (try dsimp only); (repeat' split) <;> simp)

@[simp] theorem State.writeDest_keeps (s : State) (d : Dest) (b : List Byte) :
    (State.writeDest s d b).clk = s.clk ∧ (State.writeDest s d b).env = s.env ∧ (State.writeDest s d b).actor = s.actor ∧
    (State.writeDest s d b).regs = s.regs ∧ (State.writeDest s d b).ctl = s.ctl ∧ (State.writeDest s d b).code = s.code ∧
    (State.writeDest s d b).sx = s.sx ∧ (State.writeDest s d b).trap = s.trap ∧ (State.writeDest s d b).pend = s.pend ∧
    (State.writeDest s d b).iss = s.iss ∧ (State.writeDest s d b).cmp = s.cmp ∧ (State.writeDest s d b).cv = s.cv ∧
    (State.writeDest s d b).cm = s.cm ∧ (State.writeDest s d b).cc = s.cc ∧ (State.writeDest s d b).cx = s.cx ∧
    (State.writeDest s d b).rs = s.rs ∧ (State.writeDest s d b).dq = s.dq ∧ (State.writeDest s d b).dpend = s.dpend ∧
    (State.writeDest s d b).me = s.me ∧ (State.writeDest s d b).run = s.run ∧ (State.writeDest s d b).fab = s.fab ∧
    (State.writeDest s d b).sh = s.sh ∧ (State.writeDest s d b).grp = s.grp ∧ (State.writeDest s d b).tr = s.tr := by
  unfold State.writeDest
  (try dsimp only)
  (repeat' split) <;> simp

end Sys2Proof.Machine
end

