-- ==== Sys2Proof/Laws/Table.lean ====
section
/-! SUPPORT. The laws of sparse maps and memories: a read after a write, and what keeps the canonical form. -/

namespace Sys2Proof.Machine

/-! ### Read after write: no canonical form is needed -/

theorem tget_tdel_same {α : Type} (d : α) (t : Table α) (k : Nat) : tget d (tdel t k) k = d := by
  induction t with
  | nil => rfl
  | cons x t ih =>
    obtain ⟨j, y⟩ := x
    by_cases h : j = k
    · simp [tdel, h, ih]
    · simp [tdel, h, tget, ih]

theorem tget_tdel_other {α : Type} (d : α) (t : Table α) {j k : Nat} (h : j ≠ k) : tget d (tdel t k) j = tget d t j := by
  induction t with
  | nil => rfl
  | cons x t ih =>
    obtain ⟨i, y⟩ := x
    by_cases e : i = k
    · have : i ≠ j := fun e' => h (e' ▸ e)
      simp [tdel, tget, e, ih, show ¬ k = j from fun e' => h e'.symm]
    · simp [tdel, e, tget, ih]

theorem tget_tins_same {α : Type} (d : α) (t : Table α) (k : Nat) (v : α) : tget d (tins t k v) k = v := by
  induction t with
  | nil => simp [tins, tget]
  | cons x t ih =>
    obtain ⟨i, y⟩ := x
    by_cases h1 : k < i
    · simp [tins, h1, tget]
    · by_cases h2 : i = k
      · subst h2; simp [tins, tget]
      · simp [tins, h1, h2, tget, ih]

theorem tget_tins_other {α : Type} (d : α) (t : Table α) {j k : Nat} (v : α) (h : j ≠ k) :
    tget d (tins t k v) j = tget d t j := by
  have h' : ¬ k = j := fun e => h e.symm
  induction t with
  | nil => simp [tins, tget, h']
  | cons x t ih =>
    obtain ⟨i, y⟩ := x
    by_cases h1 : k < i
    · simp [tins, h1, tget, h']
    · by_cases h2 : i = k
      · subst h2; simp [tins, tget, h']
      · simp [tins, h1, h2, tget, ih]

@[simp] theorem tget_tset_same {α : Type} [DecidableEq α] (d : α) (t : Table α) (k : Nat) (v : α) :
    tget d (tset d t k v) k = v := by
  unfold tset
  split
  · next h => rw [tget_tdel_same, h]
  · exact tget_tins_same d t k v

theorem tget_tset_other {α : Type} [DecidableEq α] (d : α) (t : Table α) {j k : Nat} (v : α) (h : j ≠ k) :
    tget d (tset d t k v) j = tget d t j := by
  unfold tset
  split
  · exact tget_tdel_other d t h
  · exact tget_tins_other d t v h

theorem tget_tset {α : Type} [DecidableEq α] (d : α) (t : Table α) (j k : Nat) (v : α) :
    tget d (tset d t k v) j = if j = k then v else tget d t j := by
  split
  · next h => rw [h, tget_tset_same]
  · next h => exact tget_tset_other d t v h

/-- A value that is read and is not the default stands in the map. -/
theorem mem_of_tget {α : Type} {d : α} {t : Table α} {k : Nat} {v : α} (h : tget d t k = v) (hv : v ≠ d) : (k, v) ∈ t := by
  induction t with
  | nil => exact absurd h.symm hv
  | cons x t ih =>
    obtain ⟨j, y⟩ := x
    by_cases e : j = k
    · subst e
      simp [tget] at h
      simp [h]
    · simp [tget, e] at h
      simp [ih h]

/-- What a filter by key leaves. -/
theorem tget_filter {α : Type} (d : α) (t : Table α) (p : Nat → Bool) (k : Nat) :
    tget d (t.filter (fun x => p x.1)) k = if p k then tget d t k else d := by
  induction t with
  | nil => simp [tget]
  | cons x t ih =>
    obtain ⟨j, y⟩ := x
    by_cases e : j = k
    · subst e
      by_cases hp : p j <;> simp [hp, tget, ih]
    · by_cases hp : p j <;> simp [hp, tget, e, ih]

/-- What a change of every value leaves. -/
theorem tget_map {α β : Type} (d : α) (e : β) (t : Table α) (f : α → β) (h : f d = e) (k : Nat) :
    tget e (t.map (fun x => (x.1, f x.2))) k = f (tget d t k) := by
  induction t with
  | nil => simp [tget, h]
  | cons x t ih =>
    obtain ⟨j, y⟩ := x
    by_cases hj : j = k <;> simp [tget, hj, ih]

/-! ### The canonical form -/

/-- Every key of a map is at least b. -/
def lowKey {α : Type} (b : Nat) (t : Table α) : Prop := ∀ x ∈ t, b ≤ x.1

theorem twf_cons {α : Type} [DecidableEq α] (d : α) (j : Nat) (x : α) (t : Table α) :
    twf d ((j, x) :: t) = true ↔ x ≠ d ∧ (∀ y ∈ t, j < y.1) ∧ twf d t = true := by
  induction t generalizing j x with
  | nil => simp [twf]
  | cons y t ih =>
    obtain ⟨k, z⟩ := y
    have e : twf d ((j, x) :: (k, z) :: t) = (decide (x ≠ d) && decide (j < k) && twf d ((k, z) :: t)) := rfl
    rw [e]
    constructor
    · intro h
      simp only [Bool.and_eq_true, decide_eq_true_eq] at h
      obtain ⟨⟨h1, h2⟩, h3⟩ := h
      refine ⟨h1, ?_, h3⟩
      intro y hy
      rcases List.mem_cons.mp hy with rfl | hy
      · exact h2
      · exact Nat.lt_trans h2 (((ih k z).mp h3).2.1 y hy)
    · rintro ⟨h1, h2, h3⟩
      simp only [Bool.and_eq_true, decide_eq_true_eq]
      exact ⟨⟨h1, h2 (k, z) (List.mem_cons_self ..)⟩, h3⟩

theorem twf_filter {α : Type} [DecidableEq α] (d : α) (t : Table α) (p : Nat × α → Bool) (h : twf d t = true) :
    twf d (t.filter p) = true := by
  induction t with
  | nil => rfl
  | cons x t ih =>
    obtain ⟨j, y⟩ := x
    obtain ⟨h1, h2, h3⟩ := (twf_cons d j y t).mp h
    by_cases hp : p (j, y)
    · rw [List.filter_cons_of_pos hp]
      exact (twf_cons d j y _).mpr ⟨h1, fun z hz => h2 z (List.mem_filter.mp hz).1, ih h3⟩
    · rw [List.filter_cons_of_neg hp]
      exact ih h3

theorem tdel_keys {α : Type} (t : Table α) (k : Nat) : ∀ x ∈ tdel t k, x ∈ t := by
  induction t with
  | nil => intro x hx; exact hx
  | cons y t ih =>
    obtain ⟨j, z⟩ := y
    intro x hx
    by_cases e : j = k
    · simp [tdel, e] at hx
      exact List.mem_cons_of_mem _ (ih x hx)
    · simp [tdel, e] at hx
      rcases hx with rfl | hx
      · exact List.mem_cons_self ..
      · exact List.mem_cons_of_mem _ (ih x hx)

theorem twf_tdel {α : Type} [DecidableEq α] (d : α) (t : Table α) (k : Nat) (h : twf d t = true) : twf d (tdel t k) = true := by
  induction t with
  | nil => rfl
  | cons x t ih =>
    obtain ⟨j, y⟩ := x
    obtain ⟨h1, h2, h3⟩ := (twf_cons d j y t).mp h
    by_cases e : j = k
    · simp [tdel, e]; exact ih h3
    · simp only [tdel, e, if_false]
      exact (twf_cons d j y _).mpr ⟨h1, fun z hz => h2 z (tdel_keys t k z hz), ih h3⟩

theorem tins_keys {α : Type} (t : Table α) (k : Nat) (v : α) : ∀ x ∈ tins t k v, x ∈ t ∨ x = (k, v) := by
  induction t with
  | nil => intro x hx; simpa [tins] using hx
  | cons y t ih =>
    obtain ⟨j, z⟩ := y
    intro x hx
    by_cases h1 : k < j
    · simp [tins, h1] at hx; rcases hx with h | h | h <;> simp [h]
    · by_cases h2 : j = k
      · simp [tins, h2] at hx; rcases hx with h | h <;> simp [h]
      · simp [tins, h1, h2] at hx
        rcases hx with h | h
        · simp [h]
        · rcases ih x h with h | h <;> simp [h]

theorem twf_tins {α : Type} [DecidableEq α] (d : α) (t : Table α) (k : Nat) (v : α) (hv : v ≠ d) (h : twf d t = true) :
    twf d (tins t k v) = true := by
  induction t with
  | nil => simp [tins, twf, hv]
  | cons x t ih =>
    obtain ⟨j, y⟩ := x
    obtain ⟨h1, h2, h3⟩ := (twf_cons d j y t).mp h
    by_cases e1 : k < j
    · simp only [tins, e1, if_true]
      refine (twf_cons d k v _).mpr ⟨hv, ?_, h⟩
      intro z hz
      rcases List.mem_cons.mp hz with rfl | hz
      · exact e1
      · exact Nat.lt_trans e1 (h2 z hz)
    · by_cases e2 : j = k
      · subst e2
        simp only [tins, Nat.lt_irrefl, if_false, if_true]
        exact (twf_cons d j v _).mpr ⟨hv, h2, h3⟩
      · simp only [tins, e1, e2, if_false]
        refine (twf_cons d j y _).mpr ⟨h1, ?_, ih h3⟩
        intro z hz
        rcases tins_keys t k v z hz with hz | rfl
        · exact h2 z hz
        · show j < k
          omega

/-- A write keeps the canonical form. -/
theorem twf_tset {α : Type} [DecidableEq α] (d : α) (t : Table α) (k : Nat) (v : α) (h : twf d t = true) :
    twf d (tset d t k v) = true := by
  unfold tset
  split
  · exact twf_tdel d t k h
  · next hv => exact twf_tins d t k v hv h

/-! ### Memories -/

@[simp] theorem mread_mwrite_same (m : List Host.Cell) (a : Nat) (b : Byte) : mread (mwrite m a b) a = b :=
  tget_tset_same 0 m a b

theorem mread_mwrite_other (m : List Host.Cell) {a c : Nat} (b : Byte) (h : c ≠ a) : mread (mwrite m a b) c = mread m c :=
  tget_tset_other 0 m b h

/-- Every byte of a memory after a write of bytes. -/
theorem mread_mwriteN (m : List Host.Cell) (a : Nat) (bs : List Byte) (c : Nat) :
    mread (mwriteN m a bs) c = if a ≤ c ∧ c < a + bs.length then nthD 0 bs (c - a) else mread m c := by
  induction bs generalizing m a with
  | nil =>
    simp only [mwriteN, List.length_nil, Nat.add_zero]
    rw [if_neg (by omega)]
  | cons b bs ih =>
    rw [mwriteN, ih]
    by_cases h1 : c = a
    · subst h1
      simp [nthD, show ¬ (c + 1 ≤ c) by omega]
    · by_cases h2 : a ≤ c ∧ c < a + (bs.length + 1)
      · have h3 : a + 1 ≤ c ∧ c < a + 1 + bs.length := by omega
        obtain ⟨n, rfl⟩ : ∃ n, c = a + (n + 1) := ⟨c - a - 1, by omega⟩
        have e1 : a + (n + 1) - (a + 1) = n := by omega
        have e2 : a + (n + 1) - a = n + 1 := by omega
        simp only [List.length_cons, h2, h3, if_true, e1, e2, nthD, and_self]
      · have h3 : ¬ (a + 1 ≤ c ∧ c < a + 1 + bs.length) := by omega
        simp only [List.length_cons, h2, h3, if_false]
        exact mread_mwrite_other m b h1

theorem mwriteN_wf (m : List Host.Cell) (a : Nat) (bs : List Byte) (h : Memory.wf m = true) : Memory.wf (mwriteN m a bs) = true := by
  induction bs generalizing m a with
  | nil => exact h
  | cons b bs ih => exact ih _ _ (twf_tset 0 m a b h)

@[simp] theorem mreadN_length (m : List Host.Cell) (a n : Nat) : (mreadN m a n).length = n := by
  induction n generalizing a with
  | zero => rfl
  | succ n ih => simp [mreadN, ih]

theorem nthD_mreadN (m : List Host.Cell) (a n i : Nat) (h : i < n) : nthD 0 (mreadN m a n) i = mread m (a + i) := by
  induction n generalizing a i with
  | zero => omega
  | succ n ih =>
    cases i with
    | zero => rfl
    | succ i =>
      simp only [mreadN, nthD]
      rw [ih (a + 1) i (by omega)]
      congr 1
      omega

/-- Bytes written are read back. -/
theorem mreadN_mwriteN (m : List Host.Cell) (a : Nat) (bs : List Byte) : mreadN (mwriteN m a bs) a bs.length = bs := by
  have key : ∀ (n c : Nat) (m' : List Host.Cell) (l : List Byte), l.length = n →
      (∀ i, i < n → mread m' (c + i) = nthD 0 l i) → mreadN m' c n = l := by
    intro n
    induction n with
    | zero => intro c m' l h _; simp [mreadN, List.length_eq_zero_iff.mp h]
    | succ n ih =>
      intro c m' l h hr
      cases l with
      | nil => simp at h
      | cons x l =>
        simp only [mreadN]
        rw [ih (c + 1) m' l (by simpa using h)]
        · have := hr 0 (by omega)
          simp [nthD] at this
          rw [this]
        · intro i hi
          have := hr (i + 1) (by omega)
          simp only [nthD] at this
          rw [← this]
          congr 1
          omega
  refine key _ _ _ _ rfl ?_
  intro i hi
  rw [mread_mwriteN]
  simp [hi]

theorem leBytes_length (n x : Nat) : (leBytes n x).length = n := by
  induction n generalizing x with
  | zero => rfl
  | succ n ih => simp [leBytes, ih]

/-- A number and its little-endian bytes (R15). -/
theorem leNat_leBytes (n x : Nat) : leNat (leBytes n x) = x % 256 ^ n := by
  induction n generalizing x with
  | zero => simp [leBytes, leNat, Nat.mod_one]
  | succ n ih =>
    simp only [leBytes, leNat, ih]
    have h : (BitVec.ofNat 8 (x % 256)).toNat = x % 256 := by simp
    rw [h, Nat.pow_succ, Nat.mul_comm (256 ^ n) 256, Nat.mod_mul]

theorem leNat_lt (l : List Byte) : leNat l < 256 ^ l.length := by
  induction l with
  | nil => simp [leNat]
  | cons b l ih =>
    simp only [leNat, List.length_cons, Nat.pow_succ]
    have := b.isLt
    omega

end Sys2Proof.Machine
end

