-- ==== Sys2Proof/Laws/Ops.lean ====
section
/-! SUPPORT. One lemma for each shared operation that says what it does: register access, issue, writes in flight and their landing,
checks, memory access, traps. A proof about a meaning cites these and unfolds nothing. -/

namespace Sys2Proof.Machine

/-! ### Registers: a read after a write -/

@[simp] theorem State.sreg_zero (s : State) : s.sreg 0 = 0 := rfl
theorem State.sreg_setS (s : State) (r q : Nat) (v : W64) :
    (s.setS r v).sreg q = if q = 0 then 0 else if q = r then v else s.sreg q := by
  unfold State.sreg State.setS
  by_cases hq : q = 0
  · simp [hq]
  by_cases hr : r = 0
  · have : q ≠ r := by omega
    simp [hq, hr]
  · simp [hq, hr, tget_tset]
theorem State.creg_setC (s : State) (r q : Nat) (v : Cap) : (s.setC r v).creg q = if q = r then v else s.creg q := by
  simp [State.creg, State.setC, tget_tset]
theorem State.breg_setB (s : State) (r q : Nat) (v : W64) : (s.setB r v).breg q = if q = r then v else s.breg q := by
  simp [State.breg, State.setB, tget_tset]
theorem State.mreg_setM (s : State) (r q : Nat) (v : Mask) : (s.setM r v).mreg q = if q = r then v else s.mreg q := by
  simp [State.mreg, State.setM, tget_tset]

/-! ### Issue and writes in flight -/

theorem State.advS_eq (s : State) : s.advS = s.past := by
  unfold State.advS State.past State.timed State.now
  by_cases h : s.run.phase = .running <;> simp [h]
theorem State.wrS_advS (s : State) (d : Nat) (v : W64) (n : Nat) : (s.wrS d v n).advS = s.wrote n (.sreg d v) := by
  rw [State.advS_eq]; rfl
theorem State.wrC_advS (s : State) (d : Nat) (v : Cap) (n : Nat) : (s.wrC d v n).advS = s.wrote n (.creg d v) := by
  rw [State.advS_eq]; rfl
theorem State.wrB_advS (s : State) (d : Nat) (v : W64) (n : Nat) : (s.wrB d v n).advS = s.wrote n (.breg d v) := by
  rw [State.advS_eq]; rfl
theorem State.pushPend_advS (s : State) (n : Nat) (t : Tgt) : (s.pushPend (s.now + n) .s t).advS = s.wrote n t := by
  rw [State.advS_eq]; rfl
theorem State.reading_clear (s : State) (rs : List RegRef) (k : Out) (h : s.shadow rs = false) : s.reading rs k = k := by
  simp [State.reading, h]
theorem State.reading_trap (s : State) (rs : List RegRef) (k : Out) (h : s.shadow rs = true) : s.reading rs k = s.trapS 0x002 := by
  simp [State.reading, h]
theorem State.shadow_off (s : State) (rs : List RegRef) (h : s.pendEn = false) : s.shadow rs = false := by
  simp [State.shadow, h]
theorem State.shadow_timed (s : State) (rs : List RegRef) (h : s.run.phase = .running) : s.shadow rs = false := by
  simp [State.shadow, State.timed, h]
theorem State.aluOut_clear (s : State) (rd : List RegRef) (d : Nat) (v : W64) (n : Nat) (h : s.shadow rd = false) :
    s.aluOut rd d v n = .next (s.wrote n (.sreg d v)) := by
  rw [State.aluOut, State.reading_clear s _ _ h, State.wrS_advS]
theorem State.alu2_clear (s : State) (d a b : BitVec 5) (f : W64 → W64 → W64) (n : Nat) (h : s.shadow [.s a.toNat, .s b.toNat] = false) :
    s.alu2 d a b f n = .next (s.wrote n (.sreg d.toNat (f (s.sreg a.toNat) (s.sreg b.toNat)))) :=
  State.aluOut_clear s _ _ _ _ h
theorem State.alu1_clear (s : State) (d a : BitVec 5) (f : W64 → W64) (h : s.shadow [.s a.toNat] = false) :
    s.alu1 d a f = .next (s.wrote 1 (.sreg d.toNat (f (s.sreg a.toNat)))) :=
  State.aluOut_clear s _ _ _ _ h
theorem State.capOut_clear (s : State) (rd : List RegRef) (d : Nat) (v : Cap) (h : s.shadow rd = false) :
    s.capOut rd d v = .next (s.wrote 1 (.creg d v)) := by
  rw [State.capOut, State.reading_clear s _ _ h, State.wrC_advS]

/-! ### Landing -/

theorem State.land_sreg (s : State) (n r i : Nat) (e : Engine) (v : W64) : s.land ⟨n, e, .sreg r v, i⟩ = s.setS r v := rfl
theorem State.land_creg (s : State) (n r i : Nat) (e : Engine) (v : Cap) : s.land ⟨n, e, .creg r v, i⟩ = s.setC r v := rfl
theorem State.land_breg (s : State) (n r i : Nat) (e : Engine) (v : W64) : s.land ⟨n, e, .breg r v, i⟩ = s.setB r v := rfl
theorem State.lands_append (s : State) (a b : List Pend) : s.lands (a ++ b) = (s.lands a).lands b := by
  induction a generalizing s with
  | nil => rfl
  | cons p t ih => simp only [List.cons_append, State.lands]; exact ih _

/-! ### Checks of R67 -/

theorem checkCap_none (k : Cap) (need : Nat) (o : Int) (n : Nat) :
    checkCap k need o n = none ↔
      hasRights need (capRights k) = true ∧ (capLower k : Int) ≤ o ∧ o + n ≤ (capUpper k : Int) := by
  unfold checkCap
  by_cases h : hasRights need (capRights k) = true
  · simp only [h, Bool.not_true, Bool.false_eq_true, if_false, true_and]
    split
    · next h1 =>
      simp only [Bool.or_eq_true, decide_eq_true_eq] at h1
      simp only [reduceCtorEq, false_iff]
      omega
    · next h1 =>
      simp only [Bool.or_eq_true, decide_eq_true_eq, not_or, Int.not_lt] at h1
      simpa using h1
  · simp [h]
theorem checkCap_code (k : Cap) (need : Nat) (o : Int) (n c : Nat) (h : checkCap k need o n = some c) :
    (c = 0x080 ∧ hasRights need (capRights k) = false) ∨
      (c = 0x081 ∧ hasRights need (capRights k) = true ∧ (o < capLower k ∨ (capUpper k : Int) < o + n)) := by
  unfold checkCap at h
  split at h
  · next h1 => cases h; exact .inl ⟨rfl, by simpa using h1⟩
  · next h1 =>
    split at h
    · next h2 => cases h; exact .inr ⟨rfl, by simpa using h1, by simpa using h2⟩
    · cases h

/-! ### Memory: a read after a write, and the canonical form -/

theorem State.spadRead_spadWrite (s : State) (a : Nat) (b : List Byte) : (s.spadWrite a b).spadRead a b.length = b :=
  mreadN_mwriteN _ _ _
theorem State.spadWrite_other (s : State) (a c : Nat) (b : List Byte) (h : c < s.spadKey a ∨ s.spadKey a + b.length ≤ c) :
    mread (s.spadWrite a b).sram.bytes c = mread s.sram.bytes c := by
  show mread (mwriteN s.sram.bytes (s.spadKey a) b) c = _
  rw [mread_mwriteN]
  exact if_neg (by omega)
theorem State.spadWrite_wf (s : State) (a : Nat) (b : List Byte) (h : Memory.wf s.sram.bytes = true) :
    Memory.wf (s.spadWrite a b).sram.bytes = true := mwriteN_wf _ _ _ h
theorem mwrite_wf (m : List Host.Cell) (a : Nat) (b : Byte) (h : Memory.wf m = true) : Memory.wf (mwrite m a b) = true :=
  mwriteN_wf m a [b] h
theorem State.rsPut_wf (s : State) (a : Nat) (b : Byte) (h : Memory.wf s.rs.bytes = true) : Memory.wf (s.rsPut a b).rs.bytes = true := by
  unfold State.rsPut
  split
  · exact mwrite_wf _ _ _ h
  · exact h
theorem State.rsPuts_wf (s : State) (l : List Host.Cell) (h : Memory.wf s.rs.bytes = true) : Memory.wf (s.rsPuts l).rs.bytes = true := by
  induction l generalizing s with
  | nil => exact h
  | cons c t ih => exact ih _ (State.rsPut_wf s c.1 c.2 h)
theorem State.sramPuts_wf (s : State) (l : List Host.Cell) (h : Memory.wf s.sram.bytes = true) :
    Memory.wf (s.sramPuts l).sram.bytes = true := by
  induction l generalizing s with
  | nil => exact h
  | cons c t ih => exact ih _ (mwrite_wf _ c.1 c.2 h)
theorem State.objPut_wf (s : State) (id : Nat) (e : ObjEntry) (o : Nat) (b : Byte) (h : Memory.wf s.mem.phys = true) :
    Memory.wf (s.objPut id e o b).mem.phys = true := by
  unfold State.objPut
  split
  · exact h
  · apply mwrite_wf
    split
    · exact h
    · exact mwriteN_wf _ _ _ h
theorem State.objPuts_wf (s : State) (id : Nat) (e : ObjEntry) (o : Nat) (l : List Byte) (h : Memory.wf s.mem.phys = true) :
    Memory.wf (s.objPuts id e o l).mem.phys = true := by
  induction l generalizing s o with
  | nil => exact h
  | cons c t ih => exact ih _ _ (State.objPut_wf s id e o c h)
theorem State.objWrite_wf (s : State) (id o : Nat) (b : List Byte) (h : Memory.wf s.mem.phys = true) :
    Memory.wf (s.objWrite id o b).mem.phys = true := by
  have t : (s.taints id o b.length).mem.phys = s.mem.phys := rfl
  unfold State.objWrite State.objPlace
  split
  · exact State.objPuts_wf _ _ _ _ _ (by rw [t]; exact h)
  · rw [t]; exact h
theorem State.hostWrite_wf (s : State) (a : Nat) (b : List Byte) (h : Memory.wf s.tr.host = true) :
    Memory.wf (s.hostWrite a b).tr.host = true := mwriteN_wf _ _ _ h
/-- A cluster's change of state touches its own bytes of the register space and no other memory (R197). -/
theorem State.setPower_bytes (s : State) (n st till : Nat) :
    (s.setPower n st till).mem = s.mem ∧ (s.setPower n st till).sram.bytes = s.sram.bytes ∧ (s.setPower n st till).tr = s.tr := by
  unfold State.setPower
  split <;> exact ⟨rfl, rfl, rfl⟩
theorem State.setPower_wf (s : State) (n st till : Nat) (h : Memory.wf s.rs.bytes = true) :
    Memory.wf (s.setPower n st till).rs.bytes = true := by
  unfold State.setPower
  split
  · exact twf_filter _ _ _ h
  · exact h
/-- A landing keeps every memory canonical. -/
theorem State.land_wf (s : State) (p : Pend) (h : Memory.wf s.sram.bytes = true ∧ Memory.wf s.rs.bytes = true ∧ Memory.wf s.mem.phys = true) :
    Memory.wf (s.land p).sram.bytes = true ∧ Memory.wf (s.land p).rs.bytes = true ∧ Memory.wf (s.land p).mem.phys = true := by
  obtain ⟨h1, h2, h3⟩ := h
  unfold State.land
  split
  · simp [h1, h2, h3]
  · simp [h1, h2, h3]
  · simp [h1, h2, h3]
  · simp [h1, h2, h3]
  · exact ⟨by simpa using h1, State.rsPuts_wf _ _ h2, by simpa using h3⟩
  · exact ⟨State.sramPuts_wf _ _ h1, by simpa using h2, by simpa using h3⟩
  · exact ⟨by simpa using h1, by simpa using h2, State.objWrite_wf _ _ _ _ h3⟩
  · exact ⟨h1, h2, h3⟩
  · next n st till _ =>
    obtain ⟨e1, e2, -⟩ := State.setPower_bytes s n st till
    exact ⟨by rw [e2]; exact h1, State.setPower_wf _ _ _ _ h2, by rw [e1]; exact h3⟩
  · exact ⟨h1, h2, h3⟩
  · exact ⟨by simpa using h1, by simpa using h2, by simpa using h3⟩
  · exact ⟨by simpa using h1, by simpa using h2, by simpa using h3⟩
  · exact ⟨by simpa using h1, by simpa using h2, by simpa using h3⟩

/-! ### Traps -/

/-- Outside a run and with no fault taken before, a fault takes the frame. -/
theorem State.fault_first (s : State) (src cause : Nat) (cap : Cap) (off info : W64) (h : s.run.phase = .off) (h1 : s.trap.stop = none) :
    (s.fault src cause cap off info).trap = { s.trap with stop := some ⟨s.clk.tape, cause, 0, src, cap, off, info, false, true⟩ } := by
  have e2 : (s.stall src).run = s.run := by
    simp only [State.stall, State.timed, h]
    (repeat' split) <;> first | rfl | simp_all
  simp [State.fault, State.raiseF, e2, h, h1, State.now]
/-- A fault leaves registers and memories as they are. -/
theorem State.fault_sameBytes (s : State) (src cause : Nat) (cap : Cap) (off info : W64) :
    (s.fault src cause cap off info).regs = s.regs ∧ sameBytes s (s.fault src cause cap off info) := by
  simp [sameBytes]

end Sys2Proof.Machine
end

