-- ==== Sys2Proof/Tests/Slice0.lean ====
section
/-! SUPPORT. Our own tests: words written out from the encodings of the spec, ill-formed terms, single steps on small states, and
for every statement with hypotheses a state and operands that meet them. -/

namespace Sys2Proof.Tests
open Sys2Proof Sys2Proof.Machine

/-! ### Decoding: each word is the match value of its row with the field values put at their places (R31 to R46) -/

theorem test_decode_s0 :
    decodeFor .s 0x02AAC800 = .ok (.add 21 10 25) ∧
    decodeFor .s 0x02AAC801 = .ok (.sub 21 10 25) ∧
    decodeFor .s 0x02AAC802 = .ok (.and 21 10 25) ∧
    decodeFor .s 0x02AAC803 = .ok (.or 21 10 25) ∧
    decodeFor .s 0x02AAC804 = .ok (.xor 21 10 25) ∧
    decodeFor .s 0x02AAC805 = .ok (.andn 21 10 25) ∧
    decodeFor .s 0x02AAC806 = .ok (.shl 21 10 25) ∧
    decodeFor .s 0x02AAC807 = .ok (.shr 21 10 25) ∧
    decodeFor .s 0x02AAC808 = .ok (.sra 21 10 25) ∧
    decodeFor .s 0x02AAC809 = .ok (.ror 21 10 25) ∧
    decodeFor .s 0x02AAC80A = .ok (.slt 21 10 25) ∧
    decodeFor .s 0x02AAC80B = .ok (.sltu 21 10 25) ∧
    decodeFor .s 0x02AAC80C = .ok (.min 21 10 25) ∧
    decodeFor .s 0x02AAC80D = .ok (.max 21 10 25) ∧
    decodeFor .s 0x02AAC80E = .ok (.minu 21 10 25) ∧
    decodeFor .s 0x02AAC80F = .ok (.maxu 21 10 25) :=
  ⟨rfl, rfl, rfl, rfl, rfl, rfl, rfl, rfl, rfl, rfl, rfl, rfl, rfl, rfl, rfl, rfl⟩

theorem test_decode_s1 :
    decodeFor .s 0x02AAC810 = .ok (.adds 21 10 25) ∧
    decodeFor .s 0x02AAC811 = .ok (.subs 21 10 25) ∧
    decodeFor .s 0x02AA0012 = .ok (.clz 21 10) ∧
    decodeFor .s 0x02AA0013 = .ok (.popc 21 10) ∧
    decodeFor .s 0x02AA0014 = .ok (.sextb 21 10) ∧
    decodeFor .s 0x02AA0015 = .ok (.sexth 21 10) ∧
    decodeFor .s 0x02AA0016 = .ok (.sextw 21 10) ∧
    decodeFor .s 0x06AAA53C = .ok (.addi 21 10 42300) ∧
    decodeFor .s 0x0AAAA53C = .ok (.andi 21 10 42300) ∧
    decodeFor .s 0x0EAAA53C = .ok (.ori 21 10 42300) ∧
    decodeFor .s 0x12AAA53C = .ok (.xori 21 10 42300) ∧
    decodeFor .s 0x16AA00A5 = .ok (.shi 21 10 2 37) ∧
    decodeFor .s 0x1AA2A53C = .ok (.lui 21 2 42300) ∧
    decodeFor .s 0x1EAAA53C = .ok (.slti 21 10 42300) ∧
    decodeFor .s 0x22AAC800 = .ok (.mul 21 10 25) ∧
    decodeFor .s 0x22AAC801 = .ok (.mulh 21 10 25) :=
  ⟨rfl, rfl, rfl, rfl, rfl, rfl, rfl, rfl, rfl, rfl, rfl, rfl, rfl, rfl, rfl, rfl⟩

theorem test_decode_s2 :
    decodeFor .s 0x22AAC802 = .ok (.mulhu 21 10 25) ∧
    decodeFor .s 0x22AAC803 = .ok (.div 21 10 25) ∧
    decodeFor .s 0x22AAC804 = .ok (.divu 21 10 25) ∧
    decodeFor .s 0x22AAC805 = .ok (.rem 21 10 25) ∧
    decodeFor .s 0x22AAC806 = .ok (.remu 21 10 25) ∧
    decodeFor .s 0x26AAC84D = .ok (.sel 21 10 25 2 13) ∧
    decodeFor .s 0x2AA20000 = .ok (.movb 21 2) ∧
    decodeFor .s 0x282A0001 = .ok (.setb 1 10) ∧
    decodeFor .s 0x2EA20100 = .ok (.mget 21 2 2) ∧
    decodeFor .s 0x2CAA0101 = .ok (.mput 5 10 2) ∧
    decodeFor .s 0x42BAD234 = .ok (.ldb 21 13 6 4660) ∧
    decodeFor .s 0x46BAD234 = .ok (.ldh 21 13 6 4660) ∧
    decodeFor .s 0x4ABAD234 = .ok (.ldw 21 13 6 4660) ∧
    decodeFor .s 0x4EBAD234 = .ok (.ldd 21 13 6 4660) ∧
    decodeFor .s 0x52BAD234 = .ok (.stb 21 13 6 4660) ∧
    decodeFor .s 0x56BAD234 = .ok (.sth 21 13 6 4660) :=
  ⟨rfl, rfl, rfl, rfl, rfl, rfl, rfl, rfl, rfl, rfl, rfl, rfl, rfl, rfl, rfl, rfl⟩

theorem test_decode_s3 :
    decodeFor .s 0x5ABAD234 = .ok (.stw 21 13 6 4660) ∧
    decodeFor .s 0x5EBAD234 = .ok (.std 21 13 6 4660) ∧
    decodeFor .s 0x62BAD234 = .ok (.ldbn 21 13 6 4660) ∧
    decodeFor .s 0x66BAD234 = .ok (.ldhn 21 13 6 4660) ∧
    decodeFor .s 0x6ABAD234 = .ok (.ldwn 21 13 6 4660) ∧
    decodeFor .s 0x6CBAD234 = .ok (.ldc 5 13 6 4660) ∧
    decodeFor .s 0x70BAD234 = .ok (.stc 5 13 6 4660) ∧
    decodeFor .s 0x768ACED9 = .ok (.amo 20 10 25 13 2 1 9) ∧
    decodeFor .s 0x7AAACEC2 = .ok (.ldaq 21 10 25 13 4 2) ∧
    decodeFor .s 0x7AAACEC6 = .ok (.strl 21 10 25 13 4 2) ∧
    decodeFor .s 0x7AAACE8A = .ok (.sts 21 10 25 13 2) ∧
    decodeFor .s 0x7AAACE8E = .ok (.stcb 21 10 25 13 2) ∧
    decodeFor .s 0x7C0A0200 = .ok (.fence 10 4) ∧
    decodeFor .s 0x80AA0000 = .ok (.cmov 5 10) ∧
    decodeFor .s 0x80AAC801 = .ok (.cjoin 5 10 25) ∧
    decodeFor .s 0x80AAC802 = .ok (.clo 5 10 25) :=
  ⟨rfl, rfl, rfl, rfl, rfl, rfl, rfl, rfl, rfl, rfl, rfl, rfl, rfl, rfl, rfl, rfl⟩

theorem test_decode_s4 :
    decodeFor .s 0x80AAC803 = .ok (.chi 5 10 25) ∧
    decodeFor .s 0x80AAC804 = .ok (.cright 5 10 25) ∧
    decodeFor .s 0x82AA0185 = .ok (.cget 21 10 3) ∧
    decodeFor .s 0x82AAC806 = .ok (.cchk 21 10 25) ∧
    decodeFor .s 0x8600A53C = .ok (.pbr 2 42300) ∧
    decodeFor .s 0x8AAA100D = .ok (.br 21 10 2 1 5) ∧
    decodeFor .s 0x8EA01000 = .ok (.loopend 21 2) ∧
    decodeFor .s 0x90005280 = .ok (.tksig 165) ∧
    decodeFor .s 0x900A5281 = .ok (.tkwait 10 165) ∧
    decodeFor .s 0x92A05282 = .ok (.tkiss 21 165) ∧
    decodeFor .s 0x92A05283 = .ok (.tkcmp 21 165) ∧
    decodeFor .s 0x96AAC800 = .ok (.cwait 21 10 25) ∧
    decodeFor .s 0x96AA0001 = .ok (.cread 21 10) ∧
    decodeFor .s 0x940AC802 = .ok (.cwrite 10 25) ∧
    decodeFor .s 0x980A0100 = .ok (.chwin 10 2) ∧
    decodeFor .s 0x980AC901 = .ok (.chhead 10 25 2) :=
  ⟨rfl, rfl, rfl, rfl, rfl, rfl, rfl, rfl, rfl, rfl, rfl, rfl, rfl, rfl, rfl, rfl⟩

theorem test_decode_s5 :
    decodeFor .s 0x980A0102 = .ok (.chtail 10 2) ∧
    decodeFor .s 0x9AA01903 = .ok (.chstat 21 3 2) ∧
    decodeFor .s 0x98000104 = .ok (.chstop 2) ∧
    decodeFor .s 0xA2A00000 = .ok (.tread 21) ∧
    decodeFor .s 0xA00A0001 = .ok (.tuntil 10) ∧
    decodeFor .s 0xA00A0002 = .ok (.tadj 10) ∧
    decodeFor .s 0xA40AC800 = .ok (.runAt 10 25) ∧
    decodeFor .s 0xA40AC801 = .ok (.runSeam 10 25) ∧
    decodeFor .s 0xA80AC800 = .ok (.seam 10 25) ∧
    decodeFor .s 0xA80AC801 = .ok (.seamR 10 25) ∧
    decodeFor .s 0xAC00A53C = .ok (.safe 42300) ∧
    decodeFor .s 0xB2A01180 = .ok (.srd 21 35) ∧
    decodeFor .s 0xB00A0801 = .ok (.swr 10 16) ∧
    decodeFor .s 0xB0001282 = .ok (.trap 37) ∧
    decodeFor .s 0xB40AC800 = .ok (.bankset 10 25) ∧
    decodeFor .s 0xB6AA0001 = .ok (.bankget 21 10) :=
  ⟨rfl, rfl, rfl, rfl, rfl, rfl, rfl, rfl, rfl, rfl, rfl, rfl, rfl, rfl, rfl, rfl⟩

theorem test_decode_s6 :
    decodeFor .s 0xB40A0002 = .ok (.waymask 10) ∧
    decodeFor .s 0xB40A0003 = .ok (.csel 10) ∧
    decodeFor .s 0xB6AA0004 = .ok (.cstat 21 10) ∧
    decodeFor .s 0xB6AA0005 = .ok (.fstat 21 10) ∧
    decodeFor .s 0xB40A0006 = .ok (.freset 10) ∧
    decodeFor .s 0xB80A0000 = .ok (.regmode 10) ∧
    decodeFor .s 0xBAA00001 = .ok (.regstat 21) ∧
    decodeFor .s 0xBCAAC800 = .ok (.viewld 5 10 25) ∧
    decodeFor .s 0xBEA22001 = .ok (.viewget 21 2 4) ∧
    decodeFor .s 0xC0AAC800 = .ok (.agset 5 10 25) ∧
    decodeFor .s 0xC00A0001 = .ok (.go 10) ∧
    decodeFor .s 0xC00A0002 = .ok (.agstop 10) ∧
    decodeFor .s 0xC2A51803 = .ok (.agget 21 5 3) ∧
    decodeFor .s 0xC40AC800 = .ok (.gset 10 25) ∧
    decodeFor .s 0xC4A6CA01 = .ok (.ggo 5 6 25 4) ∧
    decodeFor .s 0xC6A00002 = .ok (.gstat 21) :=
  ⟨rfl, rfl, rfl, rfl, rfl, rfl, rfl, rfl, rfl, rfl, rfl, rfl, rfl, rfl, rfl, rfl⟩

theorem test_decode_s7 :
    decodeFor .s 0xC8AA0000 = .ok (.boltnew 5 10) ∧
    decodeFor .s 0xC8AAC801 = .ok (.boltgrow 5 10 25) ∧
    decodeFor .s 0xC80A0002 = .ok (.cut 10) ∧
    decodeFor .s 0xFC000002 = .ok (.idle 2) ∧
    decodeFor .s 0xFD025001 = .ok (.loop 37 1) ∧
    decodeFor .s 0x7C000001 = .ok (.slwb) ∧
    decodeFor .s 0x7C000002 = .ok (.slinv) ∧
    decodeFor .s 0xB0000003 = .ok (.tret) ∧
    decodeFor .s 0xB0000004 = .ok (.exit) :=
  ⟨rfl, rfl, rfl, rfl, rfl, rfl, rfl, rfl, rfl⟩

theorem test_decode_v0 :
    decodeFor .v 0x026E62CD = .ok (.vadd 9 5 51 5 38 1) ∧
    decodeFor .v 0x066E62CD = .ok (.vsub 9 5 51 5 38 1) ∧
    decodeFor .v 0x0A6E62CD = .ok (.vmul 9 5 51 5 38 1) ∧
    decodeFor .v 0x0E6E62CD = .ok (.vfma 9 5 51 5 38 1) ∧
    decodeFor .v 0x126E62CD = .ok (.vfms 9 5 51 5 38 1) ∧
    decodeFor .v 0x166E62CD = .ok (.vfnma 9 5 51 5 38 1) ∧
    decodeFor .v 0x1A6E62CD = .ok (.vmin 9 5 51 5 38 1) ∧
    decodeFor .v 0x1E6E62CD = .ok (.vmax 9 5 51 5 38 1) ∧
    decodeFor .v 0x226E6281 = .ok (.vabs 9 5 51 5 1) ∧
    decodeFor .v 0x26EE6281 = .ok (.vneg 11 5 51 5 1) ∧
    decodeFor .v 0x2A6E62CD = .ok (.vdiv 9 5 51 5 38 1) ∧
    decodeFor .v 0x2E6E6281 = .ok (.vsqrt 9 5 51 5 1) ∧
    decodeFor .v 0x326E6281 = .ok (.vrcpe 9 5 51 5 1) ∧
    decodeFor .v 0x366E6281 = .ok (.vrsqe 9 5 51 5 1) ∧
    decodeFor .v 0x3A6E6281 = .ok (.vexp2 5 51 5 1) ∧
    decodeFor .v 0x3E6E6281 = .ok (.vlog2 5 51 5 1) :=
  ⟨rfl, rfl, rfl, rfl, rfl, rfl, rfl, rfl, rfl, rfl, rfl, rfl, rfl, rfl, rfl, rfl⟩

theorem test_decode_v1 :
    decodeFor .v 0x436E62CD = .ok (.vand 13 5 51 5 38 1) ∧
    decodeFor .v 0x476E62CD = .ok (.vor 13 5 51 5 38 1) ∧
    decodeFor .v 0x4B6E62CD = .ok (.vxor 13 5 51 5 38 1) ∧
    decodeFor .v 0x4F6E62CD = .ok (.vandn 13 5 51 5 38 1) ∧
    decodeFor .v 0x51AE62CD = .ok (.vshl 6 5 51 5 38 1) ∧
    decodeFor .v 0x55AE62CD = .ok (.vshr 6 5 51 5 38 1) ∧
    decodeFor .v 0x59AE62CD = .ok (.vsra 6 5 51 5 38 1) ∧
    decodeFor .v 0x5DAE6281 = .ok (.vclz 6 5 51 5 1) ∧
    decodeFor .v 0x61AE62CD = .ok (.vadds 6 5 51 5 38 1) ∧
    decodeFor .v 0x65AE62CD = .ok (.vsubs 6 5 51 5 38 1) ∧
    decodeFor .v 0x69AE62CD = .ok (.vmulhi 6 5 51 5 38 1) ∧
    decodeFor .v 0x6E6E62CD = .ok (.vabd 9 5 51 5 38 1) ∧
    decodeFor .v 0x71AE62CD = .ok (.vrshr 6 5 51 5 38 1) ∧
    decodeFor .v 0x766E62CD = .ok (.vclamp 9 5 51 5 38 1) ∧
    decodeFor .v 0x7B7662CD = .ok (.vsel 13 6 51 5 38 1) ∧
    decodeFor .v 0x7F6E6281 = .ok (.vmov 13 5 51 5 1) :=
  ⟨rfl, rfl, rfl, rfl, rfl, rfl, rfl, rfl, rfl, rfl, rfl, rfl, rfl, rfl, rfl, rfl⟩

theorem test_decode_v2 :
    decodeFor .v 0x832862CD = .ok (.vceq 12 5 3 5 38 1) ∧
    decodeFor .v 0x872862CD = .ok (.vcne 12 5 3 5 38 1) ∧
    decodeFor .v 0x8B2862CD = .ok (.vclt 12 5 3 5 38 1) ∧
    decodeFor .v 0x8F2862CD = .ok (.vcle 12 5 3 5 38 1) ∧
    decodeFor .v 0x932862CD = .ok (.vcun 12 5 3 5 38 1) ∧
    decodeFor .v 0x94006102 = .ok (.vmand 3 2 1) ∧
    decodeFor .v 0x98006102 = .ok (.vmor 3 2 1) ∧
    decodeFor .v 0x9C006102 = .ok (.vmxor 3 2 1) ∧
    decodeFor .v 0xA26E62E1 = .ok (.vcvt 9 5 51 5 3 0 1) ∧
    decodeFor .v 0xA6AE62CD = .ok (.vpack 10 5 51 5 38 1) ∧
    decodeFor .v 0xA8EE6283 = .ok (.vunpk 3 5 51 5 1 1) ∧
    decodeFor .v 0xAF067680 = .ok (.qblk 12 51 45) ∧
    decodeFor .v 0xB36E6032 = .ok (.vbcast 13 5 51 25) ∧
    decodeFor .v 0xB5AE6000 = .ok (.vlane 6 5 51) ∧
    decodeFor .v 0xBB6E62CD = .ok (.vperm 13 5 51 5 38 1) ∧
    decodeFor .v 0xBF6E62B3 = .ok (.vslide 13 5 51 5 25 1) :=
  ⟨rfl, rfl, rfl, rfl, rfl, rfl, rfl, rfl, rfl, rfl, rfl, rfl, rfl, rfl, rfl, rfl⟩

theorem test_decode_v3 :
    decodeFor .v 0xC26E6281 = .ok (.vrsum 9 5 51 5 1) ∧
    decodeFor .v 0xC76E6281 = .ok (.vrmax 13 5 51 5 1) ∧
    decodeFor .v 0xCB6E6281 = .ok (.vrmin 13 5 51 5 1) ∧
    decodeFor .v 0xCE6E62CD = .ok (.vrdot 9 5 51 5 38 1) ∧
    decodeFor .v 0xD36E6281 = .ok (.vrev 13 5 51 5 1) ∧
    decodeFor .v 0xD76E62CD = .ok (.vzip 13 5 51 5 38 1) ∧
    decodeFor .v 0xDB6E62CD = .ok (.vunzip 13 5 51 5 38 1) ∧
    decodeFor .v 0xDF6E62CD = .ok (.vshuf 13 5 51 5 38 1) ∧
    decodeFor .v 0xE3685500 = .ok (.defer 13 5 2 42) ∧
    decodeFor .v 0xE746610C = .ok (.drain 13 51 2 1 2) ∧
    decodeFor .v 0xE9C66004 = .ok (.vdqcnt 51 2) :=
  ⟨rfl, rfl, rfl, rfl, rfl, rfl, rfl, rfl, rfl, rfl, rfl⟩

theorem test_decode_m0 :
    decodeFor .m 0x002E0001 = .ok (.mldw 5 6 1) ∧
    decodeFor .m 0x082B0005 = .ok (.mldwBd 5 3 1 0 1) ∧
    decodeFor .m 0x102D0001 = .ok (.mldb 5 5 1) ∧
    decodeFor .m 0x18060001 = .ok (.mwclr 6 1) ∧
    decodeFor .m 0x44A90202 = .ok (.mmul 2 2 5 1 514) ∧
    decodeFor .m 0x4CA90202 = .ok (.macc 2 2 5 1 514) ∧
    decodeFor .m 0x54A90202 = .ok (.maccn 2 2 5 1 514) ∧
    decodeFor .m 0x5C890202 = .ok (.mmulg 2 2 1 1 514) ∧
    decodeFor .m 0x64890202 = .ok (.maccg 2 2 1 1 514) ∧
    decodeFor .m 0x80BE0301 = .ok (.mdrn 2 7 6 769) ∧
    decodeFor .m 0x88B60301 = .ok (.mdrnc 2 6 6 769) ∧
    decodeFor .m 0x94BE0301 = .ok (.mdrnr 2 2 7 6 769) ∧
    decodeFor .m 0x98800000 = .ok (.mclr 2) ∧
    decodeFor .m 0xA40000B6 = .ok (.msfmt 2 45 1 0) ∧
    decodeFor .m 0xA8380000 = .ok (.mstat 7) :=
  ⟨rfl, rfl, rfl, rfl, rfl, rfl, rfl, rfl, rfl, rfl, rfl, rfl, rfl, rfl, rfl⟩

theorem test_decode_c0 :
    decodeFor .c 0x016AF6CD = .ok (.ccpy 5 10 11 13 22 13) ∧
    decodeFor .c 0x056AF6CD = .ok (.ccpyt 5 10 11 13 22 13) ∧
    decodeFor .c 0x096AF6CC = .ok (.cgath 5 10 11 13 22 12) ∧
    decodeFor .c 0x0D6AF6CD = .ok (.cscat 5 10 11 13 22 13) ∧
    decodeFor .c 0x1142F6CD = .ok (.cfill 5 11 13 22 13) ∧
    decodeFor .c 0x142AC016 = .ok (.cldrec 10 11 22) ∧
    decodeFor .c 0x1802C001 = .ok (.rcfence 11 1) ∧
    decodeFor .c 0x1C2802CD = .ok (.migrate 10 22 13) ∧
    decodeFor .c 0x216AF6CD = .ok (.put 5 10 11 13 22 13) ∧
    decodeFor .c 0x256AF6CD = .ok (.putred 5 10 11 13 22 13) ∧
    decodeFor .c 0x296AF6CC = .ok (.get 5 10 11 13 22 12) ∧
    decodeFor .c 0x2C0002CD = .ok (.carm 22 13) ∧
    decodeFor .c 0x300002CD = .ok (.craise 22 13) ∧
    decodeFor .c 0x342802CD = .ok (.shsend 10 22 13) ∧
    decodeFor .c 0x382AC016 = .ok (.cpref 10 11 22) ∧
    decodeFor .c 0x402AF6CD = .ok (.ccpyr 10 11 13 22 13) :=
  ⟨rfl, rfl, rfl, rfl, rfl, rfl, rfl, rfl, rfl, rfl, rfl, rfl, rfl, rfl, rfl, rfl⟩

theorem test_decode_c1 :
    decodeFor .c 0x442AF6CD = .ok (.ccpyrt 10 11 13 22 13) ∧
    decodeFor .c 0x496AF6CC = .ok (.cgatht 5 10 11 13 22 12) ∧
    decodeFor .c 0x4D6AF6CD = .ok (.cscatt 5 10 11 13 22 13) ∧
    decodeFor .c 0x516AF6CD = .ok (.cxpose 5 10 11 13 22 13) ∧
    decodeFor .c 0x556AF6CD = .ok (.ccvt 5 10 11 13 22 13) ∧
    decodeFor .c 0x582AC016 = .ok (.cflush 10 11 22) ∧
    decodeFor .c 0x5C2AC016 = .ok (.cinval 10 11 22) ∧
    decodeFor .c 0x614036CD = .ok (.cwrw 5 13 22 13) ∧
    decodeFor .c 0x6541B6CD = .ok (.catom 5 6 13 22 13) :=
  ⟨rfl, rfl, rfl, rfl, rfl, rfl, rfl, rfl, rfl⟩

theorem test_decode_shuttle0 :
    decodeSh 0x0D3C = .ok (.shPushi 1340) ∧
    decodeSh 0x1001 = .ok (.shPushg 1) ∧
    decodeSh 0x1801 = .ok (.shPopg 1) ∧
    decodeSh 0x6816 = .ok (.shShl 22) ∧
    decodeSh 0x7016 = .ok (.shShr 22) ∧
    decodeSh 0x880D = .ok (.shSkz 13) ∧
    decodeSh 0x900D = .ok (.shSknz 13) ∧
    decodeSh 0x980D = .ok (.shSkip 13) ∧
    decodeSh 0xB005 = .ok (.shLload 5) ∧
    decodeSh 0xC002 = .ok (.shRdw 2) ∧
    decodeSh 0xC802 = .ok (.shAddw 2) ∧
    decodeSh 0xD005 = .ok (.shClone 5) ∧
    decodeSh 0xD805 = .ok (.shDir 5) ∧
    decodeSh 0x0000 = .ok (.shNop) ∧
    decodeSh 0x2000 = .ok (.shDup) ∧
    decodeSh 0x2800 = .ok (.shDrop) :=
  ⟨rfl, rfl, rfl, rfl, rfl, rfl, rfl, rfl, rfl, rfl, rfl, rfl, rfl, rfl, rfl, rfl⟩

theorem test_decode_shuttle1 :
    decodeSh 0x3000 = .ok (.shSwap) ∧
    decodeSh 0x4000 = .ok (.shAdd) ∧
    decodeSh 0x4800 = .ok (.shSub) ∧
    decodeSh 0x5000 = .ok (.shAnd) ∧
    decodeSh 0x5800 = .ok (.shOr) ∧
    decodeSh 0x6000 = .ok (.shXor) ∧
    decodeSh 0x7800 = .ok (.shClt) ∧
    decodeSh 0x8000 = .ok (.shCeq) ∧
    decodeSh 0xA000 = .ok (.shHops) ∧
    decodeSh 0xA800 = .ok (.shHere) ∧
    decodeSh 0xB800 = .ok (.shRdc) ∧
    decodeSh 0xE000 = .ok (.shFwd) ∧
    decodeSh 0xE800 = .ok (.shDlv) ∧
    decodeSh 0xF000 = .ok (.shKill) :=
  ⟨rfl, rfl, rfl, rfl, rfl, rfl, rfl, rfl, rfl, rfl, rfl, rfl, rfl, rfl⟩

/-- The words of R27 that every engine has, and the examples of the spec. -/
theorem test_decode_shared :
    decodeFor .v 0xFC00000A = .ok (.idle 10) ∧ decodeFor .m 0xFC00000A = .ok (.idle 10) ∧ decodeFor .c 0xFC00000A = .ok (.idle 10) ∧
    decodeFor .v 0xFD002003 = .ok (.loop 2 3) ∧ decodeFor .s 0xC8690000 = .ok (.boltnew 3 9) ∧
    decodeFor .s 0xC8635001 = .ok (.boltgrow 3 3 10) ∧ decodeFor .s 0xC8050002 = .ok (.cut 5) ∧
    decodeFor .v 0x08800021 = .ok (.vmul 2 0 0 0 16 1) :=
  ⟨rfl, rfl, rfl, rfl, rfl, rfl, rfl, rfl⟩
/-- R28, R29: reserved bits, operands out of range and unassigned minors are refused, each with its code, the first in table order. -/
theorem test_decode_refuses :
    decodeFor .s 0x00A41880 = .error 0x42 ∧ decodeFor .s 0x0000007F = .error 0x41 ∧ decodeFor .s 0x90000000 = .error 0x44 ∧
    decodeFor .s 0xFC000000 = .error 0x44 ∧ decodeFor .s 0x30000000 = .error 0x40 ∧ decodeFor .v 0x03800000 = .error 0x43 ∧
    decodeSh 0xFFFF = .error 0x49 ∧ decodeSh 0x0001 = .error 0x49 :=
  ⟨rfl, rfl, rfl, rfl, rfl, rfl, rfl, rfl⟩
/-- decodeTableWord and withFetchWord agree on a word of each engine: the next step runs the instruction that the word is. -/
theorem test_table_words :
    decodeTableWord 32 0x00A41800 = some (.add 5 4 3) ∧ decodeTableWord 32 0xD4800001 = some (.vzip 2 0 0 0 0 1) ∧
    decodeTableWord 32 0xA000001E = some (.msfmt 0 7 1 0) ∧ decodeTableWord 32 0x2C00018D = some (.carm 12 13) ∧
    decodeTableWord 16 0x4000 = some .shAdd :=
  ⟨rfl, rfl, rfl, rfl, rfl⟩

/-! ### Ill-formed terms: one for each check of WellFormed.lean -/

theorem test_wf_s :
    Instr.wf (.amo 5 0 0 0 0 0 9) = false ∧ Instr.wf (.amo 4 0 0 0 0 0 10) = false ∧ Instr.wf (.ldaq 1 0 0 0 5 0) = false ∧
    Instr.wf (.strl 1 0 0 0 5 0) = false ∧ Instr.wf (.fence 0 5) = false ∧ Instr.wf (.cget 1 0 4) = false ∧
    Instr.wf (.br 0 1 0 0 7) = false ∧ Instr.wf (.br 1 1 0 0 1) = false ∧ Instr.wf (.br 0 1 0 0 0) = false ∧
    Instr.wf (.tksig 0) = false ∧ Instr.wf (.tkwait 1 0) = false ∧ Instr.wf (.tkiss 1 0) = false ∧ Instr.wf (.tkcmp 1 0) = false ∧
    Instr.wf (.chwin 1 0) = false ∧ Instr.wf (.chhead 1 2 0) = false ∧ Instr.wf (.chtail 1 0) = false ∧
    Instr.wf (.chstat 1 4 1) = false ∧ Instr.wf (.chstat 1 0 0) = false ∧ Instr.wf (.chstop 0) = false ∧
    Instr.wf (.srd 1 6) = false ∧ Instr.wf (.swr 1 26) = false ∧ Instr.wf (.viewget 1 0 5) = false ∧ Instr.wf (.agget 1 0 4) = false ∧
    Instr.wf (.idle 0) = false ∧ Instr.wf (.loop 0 1) = false ∧ Instr.wf (.loop 1 0) = false := by decide
theorem test_wf_v :
    Instr.wf (.vadd 12 0 0 0 0 0) = false ∧ Instr.wf (.vadd 2 0 0 6 0 1) = false ∧ Instr.wf (.vneg 4 0 0 0 0) = false ∧
    Instr.wf (.vdiv 10 0 0 0 0 0) = false ∧ Instr.wf (.vexp2 0 0 6 1) = false ∧ Instr.wf (.vand 14 0 0 0 0 0) = false ∧
    Instr.wf (.vshl 8 0 0 0 0 0) = false ∧ Instr.wf (.vcun 2 0 0 0 0 0) = false ∧ Instr.wf (.vceq 14 0 0 0 0 0) = false ∧
    Instr.wf (.vcvt 3 0 0 0 0 0 0) = false ∧ Instr.wf (.vcvt 2 0 0 0 1 2 0) = false ∧ Instr.wf (.vpack 3 0 0 0 0 0) = false ∧
    Instr.wf (.vunpk 0 0 0 0 0 0) = false ∧ Instr.wf (.qblk 9 0 0) = false ∧ Instr.wf (.qblk 12 0 7) = false ∧
    Instr.wf (.vlane 8 0 0) = false ∧ Instr.wf (.defer 14 0 0 0) = false := by decide
theorem test_wf_m_c_shuttle :
    Instr.wf (.mldw 6 0 0) = false ∧ Instr.wf (.mldw 0 7 0) = false ∧ Instr.wf (.mldwBd 0 4 0 0 0) = false ∧
    Instr.wf (.mldb 0 3 0) = false ∧ Instr.wf (.mwclr 7 0) = false ∧ Instr.wf (.mmul 0 0 6 0 0) = false ∧
    Instr.wf (.mmul 0 0 0 6 0x0101) = false ∧ Instr.wf (.mmul 0 0 0 0 1) = false ∧ Instr.wf (.mmulg 0 0 2 0 0) = false ∧
    Instr.wf (.mdrn 0 5 0 0) = false ∧ Instr.wf (.mstat 5) = false ∧ Instr.wf (.cgath 0 0 0 0 0 1) = false ∧
    Instr.wf (.cscat 0 0 0 0 1 0) = false ∧ Instr.wf (.put 0 0 0 0 1 0) = false ∧ Instr.wf (.get 0 0 0 0 0 1) = false ∧
    Instr.wf (.catom 0 8 0 0 0) = false ∧ Instr.wf (.shSkz 0) = false ∧ Instr.wf (.shLload 6) = false ∧
    Instr.wf (.shClone 6) = false ∧ Instr.wf (.shDir 6) = false := by decide
/-- Words that the examples of the spec write out (after R70, R111, R189, R334). -/
theorem test_decode_examples :
    decodeFor .s 0x80823803 = .ok (.chi 4 2 7) ∧ decodeFor .s 0xB4011000 = .ok (.bankset 1 2) ∧
    decodeFor .s 0xB4030002 = .ok (.waymask 3) ∧ decodeFor .s 0xB4C70004 = .ok (.cstat 6 7) ∧
    decodeFor .s 0x84000004 = .ok (.pbr 0 4) ∧ decodeFor .s 0x04600008 = .ok (.addi 3 0 8) ∧
    decodeFor .s 0x80C50105 = .ok (.cget 6 5 2) ∧ decodeFor .s 0x4D0A0000 = .ok (.ldd 8 5 0 0) ∧
    decodeFor .s 0x80A53002 = .ok (.clo 5 5 6) ∧ decodeFor .s 0x8C600000 = .ok (.loopend 3 0) ∧
    decodeSh 0x0840 = .ok (.shPushi 64) ∧ decodeSh 0xC801 = .ok (.shAddw 1) ∧ decodeSh 0x9001 = .ok (.shSknz 1) :=
  ⟨rfl, rfl, rfl, rfl, rfl, rfl, rfl, rfl, rfl, rfl, rfl, rfl, rfl⟩

/-! ### Single steps -/

/-- What a step left, where it went on. -/
def got {α : Type} (o : Out) (f : State → α) : Option α :=
  match o with
  | .next t => some (f t)
  | .fault _ => none
  | .refused _ => none
/-- Reset, with s registers. -/
def withS (l : Table W64) : State := { State.reset with regs := { State.reset.regs with s := l } }
/-- Reset, with c registers. -/
def withC (l : Table Cap) (s : Table W64) : State := { State.reset with regs := { State.reset.regs with c := l, s := s } }
/-- Reset, with register-space bytes. -/
def withRs (l : List Host.Cell) : State := { State.reset with rs := { State.reset.rs with bytes := l } }
/-- A write to an s register seen at cycle 1. -/
def sets (d v : Nat) : List Pend := [⟨1, .s, .sreg d (BitVec.ofNat 64 v), 0⟩]

/-- R304: addition wraps; shifts of 64 and more empty or fill with the sign; the clamped sum stays at the end. -/
theorem test_alu :
    got (exec (.add 5 4 3) (withS [(3, 2), (4, BitVec.allOnes 64)])) (·.pend) = some (sets 5 1) ∧
    got (exec (.shl 5 4 3) (withS [(3, 64), (4, 1)])) (·.pend) = some (sets 5 0) ∧
    got (exec (.sra 5 4 3) (withS [(3, 70), (4, 0x8000000000000000)])) (·.pend) = some (sets 5 0xFFFFFFFFFFFFFFFF) ∧
    got (exec (.ror 5 4 3) (withS [(3, 65), (4, 1)])) (·.pend) = some (sets 5 0x8000000000000000) ∧
    got (exec (.adds 5 4 3) (withS [(3, 1), (4, 0x7FFFFFFFFFFFFFFF)])) (·.pend) = some (sets 5 0x7FFFFFFFFFFFFFFF) ∧
    got (exec (.sltu 5 4 3) (withS [(3, 1), (4, BitVec.allOnes 64)])) (·.pend) = some (sets 5 0) := by decide
/-- R305: counts, sign extension, and LUI, which keeps the other quarters. -/
theorem test_immediates :
    got (exec (.clz 5 4) (withS [])) (·.pend) = some (sets 5 64) ∧
    got (exec (.sextb 5 4) (withS [(4, 0x180)])) (·.pend) = some (sets 5 0xFFFFFFFFFFFFFF80) ∧
    got (exec (.addi 5 4 0xFFFF) (withS [(4, 1)])) (·.pend) = some (sets 5 0) ∧
    got (exec (.andi 5 4 0xFFFF) (withS [(4, BitVec.allOnes 64)])) (·.pend) = some (sets 5 0xFFFF) ∧
    got (exec (.lui 5 3 0x1234) (withS [(5, BitVec.allOnes 64)])) (·.pend) = some (sets 5 0x1234FFFFFFFFFFFF) ∧
    got (exec (.shi 5 4 2 63) (withS [(4, 0x8000000000000000)])) (·.pend) = some (sets 5 0xFFFFFFFFFFFFFFFF) := by decide
/-- R306: a divisor of zero, the most negative number over −1, and the high half of a signed product. -/
theorem test_muldiv :
    got (exec (.div 5 4 3) (withS [(4, 7)])) (·.pend) =
      some [⟨20, .s, .ssticky 4, 0⟩, ⟨20, .s, .sreg 5 (BitVec.allOnes 64), 0⟩] ∧
    got (exec (.rem 5 4 3) (withS [(4, 7)])) (·.pend) = some [⟨20, .s, .ssticky 4, 0⟩, ⟨20, .s, .sreg 5 7, 0⟩] ∧
    got (exec (.div 5 4 3) (withS [(3, BitVec.allOnes 64), (4, 0x8000000000000000)])) (·.pend) =
      some [⟨20, .s, .sreg 5 0x8000000000000000, 0⟩] ∧
    got (exec (.mulh 5 4 3) (withS [(3, BitVec.allOnes 64), (4, 2)])) (·.pend) = some [⟨3, .s, .sreg 5 (BitVec.allOnes 64), 0⟩] := by
  decide
/-- R68, R69 and the example after R70: CHI between the bounds, and one past them. -/
theorem test_chi :
    got (exec (.chi 4 2 7) (withC [(2, mkCap 9 0xFF 0x1000 0x9000)] [(7, 0x2000)])) (·.pend) =
      some [⟨1, .s, .creg 4 (mkCap 9 0xFF 0x1000 0x2000), 0⟩] ∧
    got (exec (.chi 4 2 7) (withC [(2, mkCap 9 0xFF 0x1000 0x9000)] [(7, 0x9001)])) (fun t => (t.pend, t.trap.stop.map (·.cause))) =
      some ([], some 0x082) := by decide
/-- R236, R332: QBLKCTL reads 3 after reset; a profile that is not published is refused; sticky bits clear by ones. -/
theorem test_special :
    got (exec (.srd 5 0x17) State.reset) (·.pend) = some (sets 5 3) ∧
    got (exec (.swr 4 0x10) (withS [(4, 0x10000)])) (fun t => t.trap.stop.map (·.cause)) = some (some 0x046) ∧
    got (exec (.swr 4 0x10) (withS [(4, 0x02020002)])) (·.ctl.vctl) = some 0x02020002 ∧
    got (exec (.swr 4 0x16) { withS [(4, 1)] with ctl := { Ctl.reset with ssticky := 5 } }) (·.ctl.ssticky) = some 4 := by decide
/-- R318 to R320, and the word of the example: PBR names the word four times its immediate away, three cycles on; LOOPEND. -/
theorem test_branch :
    got (exec (.pbr 0 4) State.reset) (·.pend) = some [⟨3, .s, .breg 0 16, 0⟩] ∧
    got (exec (.pbr 0 0xFFFFFF) State.reset) (·.pend) = some [⟨3, .s, .breg 0 0xFFFFFFFFFFFFFFFC, 0⟩] ∧
    got (exec (.br 1 4 0 1 1) State.reset) (fun t => (t.regs.pc, t.pend)) = some (0, sets 1 4) ∧
    got (exec (.br 0 4 0 0 2) State.reset) (·.regs.pc) = some 4 ∧
    got (exec (.loopend 3 0) (withS [(3, 2)])) (fun t => (t.regs.pc, t.pend)) = some (0, sets 3 1) ∧
    got (exec (.loopend 3 0) (withS [(3, 1)])) (fun t => (t.regs.pc, t.pend)) = some (4, sets 3 0) := by decide
/-- R333, R397, R405: TRAP n raises 0x240 + n and is past; EXIT holds S; a PC outside the text. -/
theorem test_traps :
    got (exec (.trap 5) State.reset) (fun t => (t.regs.pc, t.trap.stop.map (·.cause))) = some (4, some 0x245) ∧
    got (exec .exit State.reset) (·.sx.hold) = some .exit ∧
    got (exec .illegalWord State.reset) (fun t => t.trap.stop.map (·.cause)) = some (some 0x001) ∧
    got (exec .tret State.reset) (fun t => t.trap.stop.map (·.cause)) = some (some 0x045) := by decide
/-- R398: within a cycle the fault of S comes before that of C, which becomes Second. -/
theorem test_fault_order :
    ((State.reset.fault 3 0x0C1 0 0 0).fault 0 0x200 0 0 0).trap.stop.map (·.cause) = some 0x200 ∧
    ((State.reset.fault 3 0x0C1 0 0 0).fault 0 0x200 0 0 0).trap.second = 0x0C1 := by decide
/-- R316: the atomic operations, signed and unsigned, and compare-and-swap. -/
theorem test_amo :
    amoOp 0 32 0xFFFFFFFF 1 0 = 0 ∧ amoOp 4 32 0 0xFFFFFFFF 0 = 0xFFFFFFFF ∧ amoOp 6 32 0 0xFFFFFFFF 0 = 0 ∧
    amoOp 9 32 5 5 8 = 8 ∧ amoOp 9 32 5 6 8 = 5 := by decide
/-- R86: BOLTNEW with nothing in the pool, and with a size code that is not in range. -/
theorem test_bolt :
    got (exec (.boltnew 3 9) State.reset) (fun t => t.trap.stop.map (·.cause)) = some (some 0x089) ∧
    got (exec (.boltnew 3 9) (withS [(9, 6)])) (fun t => t.trap.stop.map (·.cause)) = some (some 0x08B) := by decide
/-- R359, R361, R439: a cycle whose rate carries is swallowed, any other advances the tape; TAPELOAD sets the next one, once. -/
theorem test_clock :
    got (exec .clockCycle State.reset) (fun t => (t.clk.tape, t.clk.phase)) = some (1, 0x000FB991) ∧
    got (exec .clockCycle { State.reset with clk := { State.reset.clk with phase := 0xFFFFFFFF } }) (fun t => (t.clk.tape, t.clk.phase)) =
      some (0, 0x000FB990) ∧
    got (exec (.tapeload 77) State.reset) (fun t => (t.clk.load, t.clk.tape)) = some (some 77, 0) ∧
    got (exec .clockCycle { State.reset with clk := { State.reset.clk with load := some 77 } }) (·.clk.tape) = some 77 ∧
    got (exec (.tapeload 77) { State.reset with clk := { State.reset.clk with loaded := true } }) (·.clk.load) = some none := by
  decide +kernel
/-- R272: the i32 lanes of VADD wrap, two cycles on; only the lanes of the mask are written. -/
theorem test_vadd :
    got (exec (.vadd 2 0 1 0 0 0) (withRs [(3, 0x80)])) (fun t => t.pend.map (fun p => match p.tgt with
      | .rs c => (p.due, c.length, nthD (0, 0) c 0, nthD (0, 0) c 3)
      | _ => (0, 0, (0, 0), (0, 0)))) = some [(2, 256, (256, 0), (259, 0))] ∧
    got (exec (.vadd 2 1 1 0 0 0) (withRs [(3, 0x80)])) (fun t => t.pend.map (fun p => match p.tgt with
      | .rs c => c.length
      | _ => 1)) = some [0] := by decide +kernel
/-- R239, R240: the dot product of the example: 0x0201 gives +0, 0x0202 gives 2^−5. -/
theorem test_profiles :
    let x := fmtBf16.decode
    let ps := [(x 0x4700).mul (x 0x4700), (x 0x3D00).mul (x 0x3F80), (x 0xC700).mul (x 0x4700)]
    (profOf 0x0201).map (fun p => p.apply ps 0) = some (0, 0) ∧ (profOf 0x0202).map (fun p => p.apply ps 0) = some (0x3D000000, 0) := by
  decide +kernel
/-- R235, R284: the example of QBLK: codes, bitmap and scales, and Inexact. -/
theorem test_qblk :
    let xs := [0x3F800000, 0x3FC00000, 0x3E800000, 0x40C00000, 0, 0x42800000, 0x42A00000, 0x3DCCCCCD] ++ List.replicate 120 0
    let r := qblkRow 12 3 (xs.map fmtF32.decode)
    r.1.take 8 = [0x20, 0x28, 0x10, 0x48, 0x00, 0x40, 0x44, 0x4A] ∧
    (r.1.drop 128).take 22 = [0xA1, 0, 0, 0, 0x80, 0, 0, 0, 0x80, 0, 0, 0, 0x80, 0, 0, 0, 0x81, 0x85, 0x7B, 0x7F, 0x7F, 0x7F] ∧
    r.1.length = 256 := by decide +kernel
/-- R364, R381, and the example of a hold at a seam: arrivals at 1,000,100 release at 1,000,192. -/
theorem test_release :
    let g : Group := ⟨[0, 1], 16, 256, none, 0, 0, 56, true, [(1, 1)], 0, none, 0, false, false, true, ⟨0, 0, false, false, 0, false⟩, []⟩
    let s := { State.reset with clk := { State.reset.clk with tape := 1000100 }, grp := { State.reset.grp with table := [(7, some g)] } }
    got (exec (.seamArrival 7 0) s) (fun t => (t.group 7).map (·.releaseAt)) = some (some 1000192) := by decide +kernel
/-- R170 to R174: a word of a shuttle takes its operands from the top of the stack. -/
theorem test_shuttle :
    let s := State.reset.placeSh 0x4800
    (s.visit.map (fun v => got (exec .shSub (s.setVisit v { v with sh := { v.sh with stack := [1, 7, 2] } }))
      (fun t => t.visit.map (·.sh.stack)))) = some (some (some [1, 5])) := by decide +kernel
/-- The next step runs the word that withFetchWord places: S, V, M, C and a shuttle. -/
theorem test_step_runs :
    got (step (State.reset.withFetchWord 32 0x00A41800)) (·.pend) = some (sets 5 0) ∧
    got (step (State.reset.withFetchWord 32 0xD4800000)) (fun t => t.pend.map (·.due)) = some [3] ∧
    got (step (State.reset.withFetchWord 32 0xA000001E)) (fun t => t.mctx 0) = some ⟨0, true, 7⟩ ∧
    got (step (State.reset.withFetchWord 32 0x2C00018D)) (fun t => t.trap.stop.map (·.cause)) = some (some 0x0C5) ∧
    got (step (State.reset.withFetchWord 16 0x0840)) (fun t => t.visit.map (·.sh.stack)) = some (some [64]) := by decide +kernel

/-! ### States that meet the hypotheses of the statements -/

/-- Every right of a scratchpad capability, over the whole of the cluster (R93). -/
def spad : Cap := mkCap spadId 0xB7 0 (2 ^ 24)
/-- An object of one page, resident in HBM4. -/
def page (held : Bool) (base : Nat) : ObjEntry := ⟨0, 2, 0, false, 0xFF, 1, 0, 0, 4096, 0, 0, [⟨0, 0, 0, held, true, base, 0⟩], 0⟩
/-- A small machine: c1 reaches cluster SRAM, c2 an object, c3 an object whose page is held, c4 nothing; banks 0 and 1 of the
core's cluster serve the scratchpad, bank 2 is the head of a FIFO. -/
def small (s : Table W64) : State :=
  { State.reset with
    regs := { State.reset.regs with
      s := s
      c := [(1, spad), (2, mkCap 1 0x7F 0 4096), (3, mkCap 2 0x7F 0 4096)] }
    sram := { State.reset.sram with cfg := [(0, { BankCfg.reset with mode := 1 }), (1, { BankCfg.reset with mode := 1 }),
      (2, { BankCfg.reset with mode := 3, fifoHead := true })] }
    mem := { State.reset.mem with
      obj := [(1, some (page false 4096)), (2, some (page true 8192))]
      port := [(1, some (page false 4096)), (2, some (page true 8192))] } }
/-- The machine with a run that stands at its first cycle. -/
def inRun (s : State) : State := { s with run := { Run.reset with phase := .running, len := 64, started := true } }
/-- The machine with PendEn, and a write of s4 in flight. -/
def pendS4 : State := { small [] with
  pend := [⟨9, .s, .sreg 4 1, 0⟩]
  sram := { (small []).sram with pendEn := [(0, true)] } }

theorem hyp_DecodeOfEncode :
    (Instr.wf (.add 31 0 3) = true ∧ Engine.s ∈ engines (.add 31 0 3)) ∧ (Instr.wf (.vadd 11 7 63 5 63 1) = true ∧
     Engine.v ∈ engines (.vadd 11 7 63 5 63 1)) ∧ (Instr.wf (.mstat 7) = true ∧ Engine.m ∈ engines (.mstat 7)) ∧
    (Instr.wf (.catom 15 7 15 31 31) = true ∧ Engine.c ∈ engines (.catom 15 7 15 31 31)) ∧
    (Instr.wf (.shLload 5) = true ∧ isShuttleWord (.shLload 5) = true) :=
  by decide +kernel
theorem hyp_EncodeOfDecode :
    (fmtF16 ∈ [fmtF64, fmtF32, fmtBf16, fmtF16] ∧ 0xFC00 < 2 ^ fmtF16.width ∧ (fmtF16.decode 0xFC00).isNan = false) ∧
    ((fmtF16.decode 1).isNan = false ∧ (fmtF16.decode 0x7BFF).isNan = false) ∧ (255 < 256 ∧ 255 ≠ 128) ∧ (63 < 64 ∧ 63 ≠ 32) := by
  decide +kernel
theorem hyp_IllegalWords :
    bitsOf 0x30000000 26 6 = 12 ∧ bitsOf 0xFBFFFFFF 26 6 = 62 ∧ bitsOf 0xEC000000 26 6 = 59 ∧ bitsOf 0x20000000 27 5 = 4 ∧
    bitsOf 0xF0000000 27 5 = 30 ∧ bitsOf 0x3C000000 26 6 = 15 ∧ bitsOf 0x68000000 26 6 = 26 := by decide
/-- A word of S placed where the next step fetches. -/
def placed : State := State.reset.withFetchWord 32 0x00A41800
theorem fetch_placed : placed.fetchS = .ok 0x00A41800 := by
  have h : placed.fetchS.toOption = some 0x00A41800 := by decide +kernel
  generalize placed.fetchS = r at h
  cases r with
  | error e => exact absurd h (by simp [Except.toOption])
  | ok w => simpa [Except.toOption] using h
theorem hyp_StepRunsDecoded :
    (placed.env.inbox = [] ∧ placed.due = none ∧ placed.shuttleRow = none ∧ placed.streamRow = none ∧ placed.issueRow = none ∧
     placed.issuesS = true) ∧ placed.fetchS = .ok 0x00A41800 ∧ decodeFor .s 0x00A41800 = .ok (.add 5 4 3) :=
  ⟨by decide +kernel, fetch_placed, rfl⟩
theorem hyp_StepRunsEngines :
    (let s := State.reset.placeChain .c 0x04000000
     s.env.inbox = [] ∧ s.due = none ∧ s.shuttleRow = none ∧ s.streamRow = some (.c, .ccpyt 0 0 0 0 0 0)) ∧
    (let s := State.reset.placeChain .v 0xD4800000
     s.env.inbox = [] ∧ s.due = none ∧ s.shuttleRow = none ∧ s.streamRow = none ∧ s.issueRow = some (.v, .vzip 2 0 0 0 0 0)) ∧
    (let s := State.reset.placeSh 0x4000
     s.env.inbox = [] ∧ s.due = none ∧ s.shuttleRow = some (.s, .shAdd)) ∧
    (let s := { State.reset with clk := { State.reset.clk with clocks := 1024 } }
     s.env.inbox = [] ∧ s.due = some (.s, .tadjStepApply)) ∧
    ({ State.reset with env := ⟨[.clockCycle, .snapPin], [], 0, [], [], []⟩ }).env.inbox = .clockCycle :: [.snapPin] :=
  ⟨⟨rfl, rfl, rfl, rfl⟩, ⟨rfl, rfl, rfl, rfl, rfl⟩, ⟨rfl, rfl, rfl⟩, ⟨rfl, rfl⟩, rfl⟩
theorem hyp_StepKeepsInv : State.reset.inv = true ∧ ∃ t, step State.reset = .next t := ⟨rfl, _, rfl⟩
theorem hyp_ScalarAlu :
    (small [(3, 64)]).shadow [.s 4, .s 3] = false ∧ (small []).shadow [.s 31] = false ∧
    (∃ x : W64, x = 0 ∧ 64 = 64) ∧ (2 ^ (63 - 63) ≤ (1 : W64).toNat ∧ (1 : W64).toNat < 2 ^ (64 - 63) ∧ 63 < 64) ∧
    (2 ^ (63 - 0) ≤ (BitVec.allOnes 64).toNat ∧ (BitVec.allOnes 64).toNat < 2 ^ (64 - 0)) :=
  ⟨rfl, rfl, ⟨0, rfl, rfl⟩, by decide, by decide⟩
theorem hyp_ScalarMoves :
    (small []).shadow [.s 1, .s 2, .s 3] = false ∧ (small []).shadow [.b 3] = false ∧ (small []).shadow [.m 7] = false ∧
    (small []).shadow [.c 15] = false ∧ (small []).shadow [.c 2, .s 1] = false ∧
    (let q := (small []).creg 2
     (capLower q ≤ 0 ∧ 0 ≤ capUpper q) ∧ (capLower q ≤ 4096 ∧ 4096 ≤ capUpper q) ∧ capUpper q < 4097) := by decide
theorem hyp_SpecialRegisters :
    (small []).shadow [] = false ∧ (small []).shadow [.s 4] = false ∧ (0x0F < 0x10) ∧ (0x19 ≤ 0x1FF) ∧ bitsOf 3 16 16 = 0 ∧
    (profOf (bitsOf 0x01020000 16 16)).isSome = true ∧ (bitsOf 0x10000 16 16 ≠ 0 ∧ profOf (bitsOf 0x10000 16 16) = none) := by decide
theorem hyp_WritesLand :
    (small []).pend = [] ∧ 0 < 1 ∧ (∃ p ∈ pendS4.pend, pendS4.inPast p.iss = false ∧ ∃ v, p.tgt = .sreg 4 v) ∧ pendS4.pendEn = true ∧ pendS4.run.phase = .off ∧
    pendS4.sx.blk = none ∧ (4 : BitVec 5) ≠ 0 := ⟨rfl, by decide, ⟨_, List.mem_singleton_self _, rfl, 1, rfl⟩, rfl, rfl, rfl, by decide⟩
theorem hyp_RegisterFrame :
    (registerForm (.div 1 2 3) = true ∧ ∃ t, exec (.div 1 2 3) (small []) = .next t) ∧
    (laneForm (.vadd 2 0 1 2 3 0) = true ∧ ∃ t, exec (.vadd 2 0 1 2 3 0) (small []) = .next t) := ⟨⟨rfl, _, rfl⟩, rfl, _, rfl⟩
theorem hyp_Loads :
    loadOf (.ldd 5 1 2 8) = some (5, 8, true, 1, 2, 8, 1) ∧ loadOf (.ldc 15 1 2 0x10) = some (47, 16, false, 1, 2, 16, 17) ∧
    (let s := small []
     s.run.phase ≠ .running ∧ s.shadow [.c 1] = false ∧ isSpad (s.creg 1) = true ∧ smOff (s.creg 1) 8 % 8 = 0 ∧
     s.checkRead (s.creg 1) 1 (smOff (s.creg 1) 8) 8 (some 2) = .ok ∧ (s.pendEn && s.pendingSpad 8 8) = false ∧
     isSpad (s.creg 2) = false ∧ smOff (s.creg 2) 0x1FF8 = 4088 ∧ s.checkRead (s.creg 2) 1 4088 8 (some 2) = .ok ∧
     s.hitAtIssue 2 1 4088 = none ∧ s.checkRead (s.creg 3) 1 4088 8 (some 2) = .park 0 ∧ s.portFull 0 = false ∧
     smOff (s.creg 2) 9 % 8 ≠ 0 ∧ s.checkRead (s.creg 4) 1 0 8 (some 2) = .bad 0x080) ∧
    (let s := { pendS4 with pend := [⟨9, .s, .sram [(pendS4.spadKey 8, 1)], 0⟩] }
     s.shadow [.c 1] = false ∧ s.checkRead (s.creg 1) 1 8 8 (some 2) = .ok ∧ (s.pendEn && s.pendingSpad 8 8) = true) ∧
    (let s := { small [] with mem := { (small []).mem with parked := List.replicate 256 ⟨.load 0, 99, 64, 0⟩ } }
     s.checkRead (s.creg 3) 1 4088 8 (some 2) = .park 0 ∧ s.portFull 0 = true) ∧
    (let s := inRun (small [])
     s.run.phase = .running ∧ isSpad (s.creg 1) = true ∧ checkCap (s.creg 1) 1 (smOff (s.creg 1) 8) 8 = none ∧
     isSpad (s.creg 2) = false ∧ checkCap (s.creg 4) 1 0 8 ≠ none ∧ smOff (s.creg 1) 9 % 8 ≠ 0) :=
  ⟨rfl, rfl, by decide +kernel⟩
/-- A line of slice 1 that holds the first 128 bytes of object 1. -/
def cached : State := { small [] with
  ctl := { Ctl.reset with slicesel := 5 }
  sram := { (small []).sram with
    cfg := (small []).sram.cfg ++ [(3, { BankCfg.reset with mode := 2, slice := 1 })]
    lines := [⟨0, 1, 0, 1, 0, List.replicate 128 7, false, 0, none, 0, 0, [], 0, 0⟩] } }
theorem hyp_LoadHit : ∃ ln, cached.hitAtIssue 2 1 8 = some (1, ln) := ⟨_, rfl⟩
/-- A load of s5 that waits for its bank. -/
def aLoad (addr : Nat) : LoadRec := ⟨0, 5, 8, true, .sram addr, 2, spad, addr, 0, 6, none, none, false⟩
/-- A store of one dword that waits for its bank. -/
def aStore (due : Option Nat) (dest : Dest) : StoreRec :=
  ⟨0, dest, List.replicate 8 1, 2, 4, spad, 0, false, false, true, 0, 0, due, false⟩
/-- The small machine at a cycle, with loads and stores. -/
def withQueue (t : Nat) (l : List LoadRec) (r : List StoreRec) : State :=
  { small [] with
    clk := { State.reset.clk with tape := t }
    sx := { SIssue.reset with loads := l, stores := r } }
theorem hyp_BankService :
    (let s := withQueue 0 [aLoad 0] []
     s.nextServed = some ⟨0, 0, .load (aLoad 0) 0⟩ ∧ s.bankCheck s.ctl.world (0 / 65536) = none) ∧
    (let s := withQueue 0 [aLoad 0x30000] []
     s.nextServed = some ⟨0, 3, .load (aLoad 0x30000) 0x30000⟩ ∧ s.bankCheck s.ctl.world (0x30000 / 65536) = some 0x08F) ∧
    (let s := { small [] with sx := { SIssue.reset with blk := some ⟨0, 0, 8, 8, spad, 0, 0, 8, 1, false, true, false, false⟩ } }
     s.nextServed = some ⟨0, 0, .blk⟩) ∧
    (let s := withQueue 6 [] [aStore none (.sram 0)]
     s.nextServed = some ⟨0, 0, .store (aStore none (.sram 0)) 0⟩ ∧ s.bankCheck s.ctl.world (0 / 65536) = none) := by decide +kernel
theorem hyp_LoadsLand :
    (∀ d ∈ [(0 : Nat), 31, 32, 47], let l := { aLoad 0 with due := some 0, data := some (List.replicate 8 1), dst := d }
     let s := withQueue 20 [l] []
     s.sx.loads.find? s.lateReady = some l ∧ l.data = some (List.replicate 8 1) ∧
     s.sx.landed.any (fun x => x.1 = l.dst && l.at_ < x.2) = false) ∧
    (let l : LoadRec := ⟨0, 5, 8, true, .obj 1 0, 2, mkCap 1 0x7F 0 4096, 0, 0, 14, some 0, none, false⟩
     let s := withQueue 20 [l] []
     s.sx.loads.find? s.lateReady = some l ∧ l.data = none ∧ s.readBad l.cap l.off l.size (some l.cls) = false ∧ l.src = .obj 1 0 ∧
     s.sliceFor 1 = none) := by decide +kernel
theorem hyp_StorePerforms :
    (∀ d ∈ [Dest.sram 0, .obj 1 0], let s := withQueue 0 [] [aStore (some 0) d]
     s.sx.stores.find? s.storeReady = some (aStore (some 0) d) ∧ s.sx.stores.filter (fun x => x.seq = 0) = [aStore (some 0) d] ∧
     s.sliceFor 1 = none ∧ s.detects true 1 = false) ∧
    (let r := aStore (some 0) (.obj 1 0)
     let s := { withQueue 0 [] [r] with grp := { State.reset.grp with detGroup := some 7 } }
     s.sx.stores.find? s.storeReady = some r ∧ s.sliceFor 1 = none ∧ s.detects r.plain 1 = true ∧ s.mem.sigs = [] ∧ s.portAt 1 0 = 0 ∧
     (∀ g ∈ [(⟨0, 1, 0, 1, 5, 0, 0, 0⟩ : Sig), ⟨0, 1, 0, 1, 0, 0, 0, 0⟩],
       ({ s.mem with sigs := [g] }).sigs.find? (fun x => x.launch = s.ctl.launchNo && x.port = s.portAt 1 0 && x.id = 1 && x.line = 0) = some g ∧
       g.epoch = r.epoch ∧ (g.core = 5 → g.core ≠ s.ctl.lcore ∧ g.words &&& wordMask 0 r.bytes.length ≠ 0)) ∧
     (⟨0, 1, 0, 1, 5, 0, 0, 0⟩ : Sig).epoch < ({ r with epoch := 1 }).epoch) ∧
    (let r := aStore (some 0) (.obj 1 0)
     let s := { cached with clk := { State.reset.clk with tape := 0 }, sx := { SIssue.reset with stores := [r] } }
     s.sx.stores.find? s.storeReady = some r ∧ s.sliceFor 1 = some 1 ∧ (s.lineAt 1 1 0).isSome = true ∧ r.bypass = false) := by
  decide +kernel
theorem hyp_Stores :
    (let s := small [(5, 7)]
     storeOf s (.std 5 1 2 8) = some (.s 5, leBytes 8 7, 1, 2, 8, 2) ∧ storeOf s (.stc 15 2 0 16) = some (.c 15, leBytes 16 0, 2, 0, 16, 34) ∧
     s.run.phase ≠ .running ∧ s.shadow [.c 1, .s 5] = false ∧ smOff (s.creg 1) 8 % 8 = 0 ∧ s.check (s.creg 1) 2 8 8 = .ok ∧
     s.sx.stores.length < 16 ∧ isSpad (s.creg 1) = true ∧ isSpad (s.creg 2) = false ∧ s.check (s.creg 2) 2 4088 8 = .ok ∧
     s.check (s.creg 3) 2 4088 8 = .park 0 ∧ isSpad (s.creg 3) = false ∧ s.portFull 0 = false ∧
     smOff (s.creg 1) 9 % 8 ≠ 0 ∧ s.check (s.creg 4) 2 0 8 = .bad 0x080) ∧
    16 ≤ (withQueue 0 [] (List.replicate 16 (aStore none (.sram 0)))).sx.stores.length ∧
    (let s := inRun (small [])
     s.run.phase = .running ∧ (isSpad (s.creg 1) = true ∧ checkCap (s.creg 1) 2 8 8 = none ∧ smOff (s.creg 1) 8 % 8 = 0) ∧
     ¬ (isSpad (s.creg 2) = true)) ∧
    ∃ t, exec (.std 5 1 2 8) (small [(5, 7)]) = .next t := by
  repeat' (first | exact rfl | apply And.intro | exact ⟨_, rfl⟩ | decide | intro)
theorem hyp_LooseStores :
    (let s := small [(4, 65528)]
     s.shadow [.c 1, .s 4, .s 5] = false ∧ (0 + 65528) % 2 ^ 3 = 0 ∧ s.check (s.creg 1) 2 ((65528 : Nat) : Int) 8 = .ok ∧
     s.sx.stores.length < 16 ∧ isSpad (s.creg 1) = true) ∧
    (let s := small [(4, 4088)]
     s.shadow [.c 2, .s 4, .s 5] = false ∧ s.check (s.creg 2) 2 ((4088 : Nat) : Int) 8 = .ok ∧ isSpad (s.creg 2) = false ∧
     s.combFull (s.creg 2) 4088 = false) ∧
    (let ln (n : Nat) : CombLine := ⟨.obj 1 0, 128 * n, 1, [(128 * n, 1)], spad, 0, 4⟩
     let s := small [(4, 4088)]
     let u := { s with sx := { s.sx with comb := (List.range 8).map ln } }
     let v := { s with sx := { s.sx with comb := (List.range 7).map ln, stores := [{ aStore none (.obj 1 0) with loose := true }] } }
     (u.combFull (u.creg 2) 4088 = true ∧ u.leavingLines = 0 ∧ u.sx.comb = ln 0 :: (List.range 7).map (fun n => ln (n + 1))) ∧
     (v.combFull (v.creg 2) 4088 = true ∧ v.leavingLines ≠ 0)) := by
  decide +kernel
/-- The operands that a blocking form has captured: address, capability, cycle from which it may perform, and where it stands. -/
def blkAt (a : W64) (cap : Cap) (ready : Nat) (ask granted : Bool) : Blk := ⟨0, 0, a, a, cap, 0, ready, 8, 1, false, ask, granted, false⟩
/-- The small machine that holds on a blocking form. -/
def blocked (t : Nat) (b : Blk) : State := { withQueue t [] [] with sx := { SIssue.reset with blk := some b } }
theorem hyp_BlockingIssue :
    (∀ c ∈ [(1 : Nat), 2], let s := small [(4, 8)]
     s.sx.blk = none ∧ s.shadow [.c c, .s 4, .s 6, .s 7] = false ∧ (0 + 8) % 2 ^ 3 = 0 ∧ (1 : BitVec 2).toNat < 2 ∧ s.sx.comb = [] ∧
     s.checkRead (s.creg c) 1 8 8 (some 2) = .ok ∧ s.checkRead (s.creg c) 7 8 8 none = .ok ∧
     (s.pendEn && isSpad (s.creg c) && s.pendingSpad 8 8) = false) ∧
    (let x := blkAt 8 spad 6 false false
     (blocked 5 x).sx.blk = some x ∧ (blocked 5 x).clk.tape < x.ready ∧ ({ x with parked := true }).parked = true) := by decide +kernel
theorem hyp_BlockingAccess :
    (∀ g ∈ [false, true], let x := blkAt 8 spad 6 g g
     let s := blocked 6 x
     s.sx.blk = some x ∧ x.ready ≤ s.clk.tape ∧ x.parked = false ∧ s.classFree 2 s.sx.seq = true ∧ isSpad x.cap = true ∧ x.granted = g ∧
     (1 : BitVec 2).toNat < 2 ∧ s.drained (x.b.toNat / 2 ^ 48 ||| 2 ^ 2) x.at_ = true ∧ s.bankCheck s.ctl.world (x.a.toNat / 65536) = none) ∧
    (let x := blkAt 8 (mkCap 1 0x7F 0 4096) 6 false false
     let s := blocked 6 x
     s.sx.blk = some x ∧ x.ready ≤ s.clk.tape ∧ isSpad x.cap = false ∧ s.sliceFor (capObj x.cap) = none ∧
     s.checkRead x.cap 1 x.a.toNat 8 (some 2) = .ok ∧ s.checkRead x.cap 7 x.a.toNat 8 none = .ok ∧
     bitsOf s.ctl.slicesel.toNat 2 1 = 0) := by decide +kernel
theorem hyp_Fences :
    (let s := small [(4, 0xFFFF)]
     s.shadow [.s 4] = false ∧ s.sx.blk = none ∧ (s.flushComb 0xFFFF).drained 0xFFFF s.clk.tape = true) ∧
    (let s := { withQueue 0 [] [aStore none (.sram 0)] with regs := (small [(4, 4)]).regs }
     s.shadow [.s 4] = false ∧ (s.flushComb 4).drained 4 s.clk.tape = false) ∧
    (let x : Blk := ⟨0xFFFF, 0, 0, 0, 0, 0, 0, 0, 0, false, false, false, false⟩
     (blocked 0 x).sx.blk = some x ∧ (blocked 0 x).drained x.d.toNat x.at_ = true ∧
     ({ blocked 0 x with sx := { (withQueue 0 [] [aStore none (.sram 0)]).sx with blk := some x } }).drained x.d.toNat x.at_ = false) ∧
    bitsOf State.reset.ctl.slicesel.toNat 2 1 = 0 ∧ bitsOf cached.ctl.slicesel.toNat 2 1 = 1 ∧
    (let s := small [(4, 8)]
     s.sx.blk = none ∧ s.shadow [.c 1, .s 4, .s 5] = false ∧ (0 + 8) % 2 ^ 3 = 0 ∧ s.check (s.creg 1) 2 ((8 : Nat) : Int) 8 = .ok) ∧
    (∀ n ∈ [(1 : Nat), 2], let x := blkAt 8 ((small []).creg n) 0 false false
     let s := blocked 0 x
     s.drained (x.b.toNat / 2 ^ 48 ||| 2 ^ 2) x.at_ = true ∧ s.sx.stores.length < 16 ∧ s.check x.cap 2 8 (2 ^ 3) = .ok ∧
     (s.releaseLines (x.b.toNat / 2 ^ 48 ||| 2 ^ 2)).check x.cap 2 8 (2 ^ 3) = .ok ∧ isSpad x.cap = decide (n = 1)) := by decide +kernel
theorem hyp_Branches :
    (small []).shadow [.s 4, .b 1] = false ∧ (6 : BitVec 3).toNat < 7 ∧ (small []).shadow [.s 3, .b 1] = false ∧
    (1 : W64).toNat ≤ 1 ∧ 1 < (2 : W64).toNat ∧ (BitVec.allOnes 64).toInt < 0 ∧ (0 : Int) < (1 : W64).toInt ∧ 7 < 8 := by decide
/-- The interface with a counter partition of 16 counters from 4,080 up. -/
def counted (s : Table W64) : State := { small s with fab := { State.reset.fab with dcPart := [(0, 0x10FF0)] } }
theorem hyp_TokensCountersTape :
    let s := counted [(4, 15)]
    s.shadow [.s 4] = false ∧ s.shadow [.s 1, .s 4, .s 2] = false ∧ s.shadow [.s 4, .s 2] = false ∧
    (s.sreg 4).toNat < (tget 0 s.fab.dcPart s.ctl.vi).toNat / 2 ^ 12 % 2 ^ 13 ∧
    (tget 0 s.fab.dcPart s.ctl.vi).toNat % 2 ^ 12 + (s.sreg 4).toNat < 4096 ∧
    ¬ (((counted [(4, 16)]).sreg 4).toNat < (tget 0 s.fab.dcPart s.ctl.vi).toNat / 2 ^ 12 % 2 ^ 13) := by decide
/-- The small machine in a wait. -/
def waits (t : Nat) (h : Hold) (cmp : Table W32) : State := { withQueue t [] [] with sx := { SIssue.reset with hold := h }, cmp := cmp }
theorem hyp_WaitEvents :
    (tget 0 (waits 0 (.token 1 5 0 9) [(1, 5)]).cmp 1 - 5).toNat < 2 ^ 31 ∧
    (2 ^ 31 ≤ (tget 0 (waits 9 (.token 1 5 0 9) [(1, 4)]).cmp 1 - 5).toNat ∧ 0 < 9 ∧ 0 + 9 ≤ (waits 9 (.token 1 5 0 9) []).clk.tape) ∧
    (0 : W64).toNat ≤ (tget 0 (waits 0 (.counter 1 1 0 0 9) []).fab.counters 1).toNat ∧
    (tget 0 (waits 9 (.counter 1 1 1 0 9) []).fab.counters 1).toNat < (1 : W64).toNat ∧
    1 ≤ (waits 0 (.tape 1) []).clk.tape + 1 ∧
    (let s := waits 9 (.seam 7 0 9 false none) []
     s.sx.hold = .seam 7 0 9 false none ∧ s.seamMet 7 = false ∧ 0 + 9 ≤ s.clk.tape ∧ s.run.phase = .off ∧ s.trap.stop = none) := by
  decide +kernel
/-- A chain engine with a window of 256 bytes, TAIL. -/
def tailChain : Chain := { Chain.reset with win := mkCap spadId 0xB7 0 256, st := 1 }
theorem hyp_ChainForms :
    (1 ≤ (1 : BitVec 2).toNat ∧ (3 : BitVec 2).toNat ≤ 3) ∧
    (let s := { small [(4, 16)] with regs := { (small [(4, 16)]).regs with c := [(1, mkCap spadId 0xB7 0 256)] } }
     s.trap.handler = false ∧ s.shadow [.c 1] = false ∧ (s.chain (engOf 1)).st = 0 ∧ isSpad (s.creg 1) = true ∧
     capRights (s.creg 1) % 2 = 1 ∧ capLower (s.creg 1) % 16 = 0 ∧ capUpper (s.creg 1) % 16 = 0 ∧ capLower (s.creg 1) < capUpper (s.creg 1)) ∧
    (let s := { small [(4, 240)] with cv := { tailChain with st := 0 } }
     s.shadow [.s 4, .s 5] = false ∧ (s.chain (engOf 1)).st = 0 ∧ (s.sreg 4).toNat % 16 = 0 ∧
     capLower (s.chain (engOf 1)).win + (s.sreg 4).toNat < capUpper (s.chain (engOf 1)).win) ∧
    (let s := { small [(4, 2)] with cc := tailChain }
     s.sx.blk = none ∧ s.flushSpad.spadDrained = true ∧ s.shadow [.s 4] = false ∧ (s.chain (engOf 3)).st ≠ 0 ∧
     (s.chain (engOf 3)).cmds = [] ∧ s.shadow [.c 1] = false ∧ s.shadow [.s 4, .s 5] = false) ∧
    (let s := withQueue 0 [] [aStore none (.sram 0)]
     s.sx.blk = none ∧ s.flushSpad.spadDrained = false ∧ s.spadDrained = false) ∧
    (let x : Blk := ⟨2, 0, 0, 0, 0, 0, 0, 0, 0, false, false, false, false⟩
     (blocked 0 x).sx.blk = some x ∧ (blocked 0 x).spadDrained = true) ∧
    ({ tailChain with cmds := [⟨7, 0, 0, [], 0, 0, 0, 0, none, [], false, [], none, false, 0, 0, false, none, 0, none, 0, 0, 8, false⟩] }).cmds ≠ [] ∧
    ({ small [] with trap := { Trap.reset with handler := true } }).trap.handler = true ∧
    (let s := small [(4, 8)]
     s.trap.handler = false ∧ s.shadow [.c 2] = false ∧ (s.chain (engOf 1)).st = 0 ∧ isSpad (s.creg 2) = false ∧
     s.shadow [.s 4, .s 5] = false ∧ (s.sreg 4).toNat % 16 ≠ 0 ∧ capUpper (s.chain (engOf 1)).win ≤ capLower (s.chain (engOf 1)).win + 16) := by
  decide +kernel
theorem hyp_TrapTretExit :
    (small []).trap.handler = false ∧
    (let s := { small [] with trap := { Trap.reset with handler := true, orig := [1, 2, 3] } }
     s.trap.handler = true ∧ s.shadow [.s 31] = false) := by decide
theorem hyp_Exceptions :
    ((small []).regs.pc.toNat < capLower (mkCap 1 0x08 4 8) ∧ capUpper (small []).code.cap < (small []).regs.pc.toNat + 4) ∧
    (let s := small []
     s.run.phase = .off ∧ s.trap.stop = none) ∧
    (let g : FaultRec := ⟨0, 0x0C1, 0, 3, 0, 0, 0, false, true⟩
     let s := (small []).raiseF g
     s.trap.stop = some g ∧ s.trap.multi = false ∧ g.at_ = s.clk.tape ∧ 0 < g.src ∧ g.src ≤ 3 ∧
     (let u := s.raiseF { g with src := 2 }
      u.trap.multi = true ∧ u.trap.secondOf = (s.clk.tape, 3) ∧ 2 < u.trap.secondOf.2 ∧ u.trap.secondOf.2 ≤ 3)) ∧
    (let s := inRun (small [])
     s.run.phase ≠ .off ∧ s.trap.stop = none ∧ s.run.fail = none) ∧
    (let f : FaultRec := ⟨0, 0x0C1, 0, 3, 0, 0, 0, false, true⟩
     let s := { (small []) with trap := { Trap.reset with stop := some f, ready := true }, code := { State.reset.code with entryOff := 4 } }
     s.trap.ready = true ∧ s.trap.stop = some f ∧ s.run.phase = .off ∧ s.sx.hold = .no ∧ f.cause ≠ 0x280 ∧ f.src ≠ 4 ∧
     handlerCode f.cause = true ∧ 4 ≤ s.code.entryOff ∧ s.trap.handler = false) ∧
    (small []).code.entryOff < 4 := by decide
/-- A word of S that is no instruction, placed where the next step fetches. -/
def placedBad : State := State.reset.withFetchWord 32 0xEC000000
theorem hyp_IllegalAtPc : (placedBad.fetchS.toOption = some 0xEC000000 ∧ decodeFor .s 0xEC000000 = .error 0x40) ∧
    (let s := { placedBad with mem := { placedBad.mem with bad := [4096] } }
     capLower s.code.cap ≤ s.regs.pc.toNat ∧ s.regs.pc.toNat + 4 ≤ capUpper s.code.cap ∧
     s.badObj (capObj s.code.cap) (s.code.textOff + s.regs.pc.toNat) 4 = true) := ⟨⟨by decide +kernel, rfl⟩, by decide +kernel⟩
/-- Group 7 with logical cores 0 and 1, of which 1 has arrived. -/
def pair : Group := ⟨[0, 1], 16, 256, none, 0, 0, 56, true, [(1, 1)], 0, none, 0, false, false, true, ⟨0, 0, false, false, 0, false⟩, []⟩
/-- The small machine as a member of group 7, with one run and one safe point in its code. -/
def grouped (s : Table W64) : State :=
  { small s with grp := { State.reset.grp with table := [(7, some pair)] }, code := { State.reset.code with runCount := 1, safeCount := 1 } }
theorem hyp_RunsAndSeams :
    (let s := grouped [(4, 0x7000), (5, 99)]
     s.trap.handler = false ∧ s.shadow [.s 4, .s 5] = false ∧ 0x7000 % 2 ^ 12 < s.code.runCount ∧ (s.sreg 4).toNat < 2 ^ 52 ∧
     s.member ((s.sreg 4).toNat / 2 ^ 12 % 2 ^ 8) = true ∧ (s.sreg 4).toNat / 2 ^ 20 = 0) ∧
    (let s := grouped [(4, 7)]
     (s.sreg 4).toNat < 256 ∧ s.member (s.sreg 4).toNat = true) ∧
    (256 ≤ ((grouped [(4, 256)]).sreg 4).toNat ∧ (grouped []).member 255 = false) ∧
    ((0 : BitVec 16).toNat < (grouped []).code.safeCount ∧ ({ (grouped []).sx with preempt := true }).preempt = true ∧
     (grouped []).sx.preempt = false ∧ (grouped []).code.safeCount ≤ (1 : BitVec 16).toNat) := by decide +kernel
theorem hyp_BankForms :
    (small []).shadow [.s 4] = false ∧ (15 < 0x10 ∧ 0x10 ≤ 0x10 ∧ 0x13 < 0x14 ∧ 0x14 ≤ 0x14 ∧ 0x17 < 0x18 ∧ 0x20 = 0x20) ∧
    (let c := tget .reset (small []).sram.cfg (256 * (small []).cluster + 2)
     c.mode = 3 ∧ c.fifoHead = true ∧ c.launchTag = (small []).ctl.launchNo ∧ c.worldTag = (small []).ctl.world) ∧
    (tget .reset (small []).sram.cfg 3).mode ≠ 3 ∧
    ({ BankCfg.reset with launchTag := 1 }).launchTag ≠ (small []).ctl.launchNo ∧
    ({ BankCfg.reset with worldTag := 1 }).worldTag ≠ (small []).ctl.world := by decide
theorem hyp_BankChanges :
    ((small []).sx.blk = none ∧ (small []).shadow [.s 4, .s 5] = false ∧ (small []).banksetCheck 0x100 0 = none ∧
     (small []).banksetCheck 0 0 = some 0x091) ∧
    (let x : Blk := { blkAt 1 0 0 false false with d := 0x100 }
     (blocked 0 x).sx.blk = some x ∧ x.a ≠ 0 ∧ (blocked 0 x).banksetBusy x.d.toNat = false ∧
     ({ blocked 0 x with sram := { (small []).sram with cfg := [(0, { BankCfg.reset with changing := true })] } }).banksetBusy x.d.toNat = true) ∧
    (let x : Blk := { blkAt 0 0 0 false false with d := 0x100 }
     (blocked 0 x).sx.blk = some x ∧ x.a = 0 ∧ (blocked 0 x).run.phase ≠ .running ∧
     ((blocked 0 x).banksetClose x.d.toNat x.d1.toNat).banksetBusy x.d.toNat = true ∧
     x.d.toNat / 256 % 512 = 1 ∧ x.d1.toNat % 4 ≠ 3 ∧ (blocked 0 x).banksetCfg x.d.toNat x.d1.toNat 0 ≠ (blocked 0 x).bank 0) ∧
    ({ small [] with sram := { (small []).sram with changes := [⟨5, .reset, 0⟩] } }).sram.changes.find? (fun (c : BankChange) => c.endAt ≤ 0) =
      some ⟨5, .reset, 0⟩ ∧
    ((small []).cfgOf 0).changing = false := by decide +kernel
/-- A generator 0 with a walk of one beat as its shadow. -/
def oneNest : Nest := ⟨0, 0, 256, false, false, false, 8, [1, 1, 1, 1, 1, 1], [0, 0, 0, 0, 0, 0], spad⟩
theorem hyp_RegSpaceForms :
    (small []).shadow [.s 4] = false ∧ (1 : W64).getLsbD 0 = true ∧ (1 : W64).getLsbD 1 = false ∧
    ({ AGen.reset with shadow := some oneNest }).shadow = some oneNest ∧ AGen.reset.shadow = none := by decide
/-- The small machine with a view, a walk and a gather descriptor at cluster addresses 0, 64 and 128. -/
def descs (o : W64) : State :=
  let s := blocked 6 (blkAt o spad 6 true true)
  { s with sram := { s.sram with bytes := [(6, 1), (9, 1), (73, 1), (77, 8), (78, 1), (80, 1), (82, 1), (84, 1), (86, 1), (88, 1), (90, 1),
    (133, 1), (136, 1), (140, 8), (141, 1)] } }
theorem hyp_DescriptorIssue :
    (∀ c ∈ [(1 : Nat), 2], let s := small [(4, 64)]
     s.sx.blk = none ∧ s.shadow [.c c, .s 4] = false ∧ (s.sreg 4).toNat % 64 = 0 ∧ s.checkRead (s.creg c) 1 64 32 none = .ok ∧
     s.checkRead (s.creg c) 1 64 64 none = .ok ∧ (s.pendEn && isSpad (s.creg c) && s.pendingSpad 64 64) = false) ∧
    ((small [(4, 65)]).sreg 4).toNat % 32 ≠ 0 := by decide +kernel
theorem hyp_DescriptorForms :
    (∀ n ∈ [(0 : Nat), 64, 128, 256], let x := blkAt (BitVec.ofNat 64 n) spad 6 true true
     let s := descs x.a
     s.sx.blk = some x ∧ x.ready ≤ s.clk.tape ∧ x.parked = false ∧ isSpad x.cap = true ∧ x.granted = true ∧
     s.bankCheck s.ctl.world (x.a.toNat / 65536) = none) ∧
    (let x := blkAt 0 (mkCap 1 0x7F 0 4096) 6 false false
     let s := blocked 6 x
     isSpad x.cap = false ∧ s.checkRead x.cap 1 0 32 none = .ok ∧ s.checkRead x.cap 1 0 64 none = .ok) ∧
    winCapOk ((descs 0).creg 4) 1 0 256 = false ∧
    viewOf ((descs 0).spadRead 0 32) = some ⟨0, 0, 0, 1, 256, 0, 0⟩ ∧
    (nestOf 0 ((descs 0).spadRead 64 64) = some ({ oneNest with cap := 0 }, 1) ∧ winCapOk ((descs 0).creg 1) 1 0 256 = true) ∧
    gdescOf ((descs 0).spadRead 128 32) = some (⟨0, 256, 1, 8, 0⟩, 1) ∧
    viewOf ((descs 0).spadRead 256 32) = none ∧ nestOf 0 ((descs 0).spadRead 256 64) = none ∧ gdescOf ((descs 0).spadRead 256 32) = none := by
  decide +kernel
/-- The small machine with a gather descriptor, a waking cluster, a beat of generator 0 to read and one of generator 6 to write. -/
def moving (s : Table W64) : State :=
  { small s with rs := { RegSpace.reset with
      power := [(3, (2, 0))]
      ags := [(0, { AGen.reset with nest := some oneNest, st := 1 })]
      gdesc := some ⟨0, 256, 1, 8, spad⟩ } }
theorem hyp_GatherWakeBeat :
    (∀ n ∈ [(1 : Nat), 32], let s := moving [(4, BitVec.ofNat 64 n)]
     s.run.phase ≠ .running ∧ s.shadow ([.s 4] ++ (if (0 : BitVec 3) = 0 then [] else [.m 0])) = false ∧
     (∀ f ∈ s.rs.fills, f.latch ≠ (s.sreg 4).toNat / 64 % 2) ∧ s.regOn ((s.view 0).addr 0) = true ∧
     (s.pendEn && s.pendingRs ((s.view 0).addr 0) 256) = false ∧ 1 ≤ (s.sreg 4).toNat % 64 ∧ (s.sreg 4).toNat % 64 ≤ 32) ∧
    (33 % 64 = 33 ∧ 0 % 64 = 0) ∧ (moving []).waking = some 3 ∧
    (let g : AGen := { AGen.reset with nest := some oneNest, st := 1 }
     let s := { moving [] with rs := { RegSpace.reset with ags := [(0, { g with turn := true })] } }
     let u := inRun { moving [] with rs := { RegSpace.reset with ags := [(0, g)] } }
     [6, 7, 0, 1, 2, 3, 4, 5].find? s.agGoes = some 0 ∧ s.agReads 0 = true ∧ (s.agen 0).nest = some oneNest ∧
     [6, 7, 0, 1, 2, 3, 4, 5].find? u.agGoes = some 0 ∧ u.agReads 0 = true ∧ (u.agen 0).nest = some oneNest) ∧
    (let s := { moving [] with rs := { RegSpace.reset with ags := [(6, { AGen.reset with beats := [(0, 0, [1])], turn := true })] } }
     [6, 7, 0, 1, 2, 3, 4, 5].find? s.agGoes = some 6 ∧ s.agWrites 6 = true ∧ (s.agen 6).beats = (0, 0, [1]) :: []) := by decide +kernel
/-- The small machine with a pool of one ID, one slot and two pages, and an empty bolt as object 9 that c9 owns. -/
def pooled (s : Table W64) : State :=
  let e : ObjEntry := ⟨2, 2, 0, false, 0x47, 1, 3, 0, 0, 0, 0, [], 0⟩
  { small s with
    regs := { (small s).regs with c := [(1, spad), (9, mkCap 9 0x47 0 0)] }
    mem := { (small s).mem with
      obj := [(9, some e)]
      port := [(9, some e)]
      keySlot := [(3, 7)]
      pools := [(0, ⟨[5], [6], [(0, [0x10000, 0x20000])]⟩)]
      rels := [⟨9, 0, 3, [], 0, 4096, 7⟩] } }
theorem hyp_BoltForms :
    (let s := pooled [(4, 0)]
     s.shadow [.s 4] = false ∧ (s.sreg 4).toNat < 64 ∧ (s.sreg 4).toNat % 8 ≤ 5 ∧ (s.sreg 4).toNat / 8 ≤ 1 ∧
     ((s.sreg 4).toNat / 8 = 1 → s.mem.xk4m = true) ∧ (s.pool s.ctl.vi).ids = 5 :: [] ∧ (s.pool s.ctl.vi).slots = 6 :: []) ∧
    ((small []).pool 0).ids = [] ∧ (64 ≤ 64 ∧ 5 < 6 % 8 ∧ 1 < 16 / 8 % 8) ∧
    (∀ v ∈ [(1 : Nat), 2], let s := pooled [(4, BitVec.ofNat 64 v)]
     s.shadow [.c 9, .s 4] = false ∧ 1 ≤ (s.sreg 4).toNat ∧ (s.sreg 4).toNat ≤ 65536 ∧
     (s.sreg 4).toNat ≤ (tget [] (s.pool s.ctl.vi).pages (pageKey 0 0)).length) ∧
    (tget [] ((pooled []).pool 0).pages (pageKey 0 0)).length < 3 := by decide +kernel
theorem ok_of {ε α : Type} {r : Except ε α} (h : r.toOption.isSome = true) : ∃ e, r = .ok e := by
  cases r with
  | error e => simp [Except.toOption] at h
  | ok a => exact ⟨a, rfl⟩
/-- The code of a refusal. -/
def codeOf {α : Type} (r : Except Nat α) : Nat := match r with | .error c => c | .ok _ => 0
theorem error_of {α : Type} {r : Except Nat α} {c : Nat} (h : codeOf r = c ∧ c ≠ 0) : r = .error c := by
  cases r with
  | error e => rw [← h.1]; rfl
  | ok a => exact absurd h.1.symm h.2
theorem hyp_BoltGrow : (∃ e, (pooled []).boltCheck ((pooled []).creg 9) = .ok e) ∧
    (pooled []).shadow [.c 2, .s 4] = false ∧ ∃ c, (pooled []).boltCheck ((pooled []).creg 2) = .error c :=
  ⟨ok_of (by decide +kernel), by decide +kernel, 0x080, error_of (by decide +kernel)⟩
/-- CUT of the bolt has its operands. -/
def cutting : State := { pooled [] with sx := { SIssue.reset with blk := some (blkAt 0 (mkCap 9 0x47 0 0) 0 false false) } }
theorem hyp_BoltEnds :
    (cutting.sx.blk = some (blkAt 0 (mkCap 9 0x47 0 0) 0 false false) ∧ cutting.drained (2 ^ 16 - 1) 0 = true ∧
     ∃ e, cutting.boltCheck (mkCap 9 0x47 0 0) = .ok e) ∧
    ((pooled []).sx.blk = none ∧ (pooled []).shadow [.c 9] = false ∧ (pooled []).sx.comb = [] ∧ (pooled []).drained (2 ^ 16 - 1) 0 = true) ∧
    ({ cutting with sx := { cutting.sx with stores := [aStore none (.sram 0)] } }).drained (2 ^ 16 - 1) 0 = false ∧
    ((pooled []).sx.blk = none ∧ (pooled []).shadow [.c 2] = false ∧ (pooled []).boltCheck ((pooled []).creg 2) = .error 0x080) ∧
    (pooled []).mem.rels.find? (pooled []).relReady = some ⟨9, 0, 3, [], 0, 4096, 7⟩ :=
  ⟨⟨by decide +kernel, by decide +kernel, ok_of (by decide +kernel)⟩, by decide +kernel, by decide +kernel,
    ⟨by decide +kernel, by decide +kernel, error_of (by decide +kernel)⟩, by decide +kernel⟩
theorem hyp_IdleLoop :
    (small []).actor = .s ∧ (small []).run.phase ≠ .running ∧ ({ small [] with actor := .v }).actor ≠ .s ∧
    (let s := { inRun (small []) with actor := .m }
     s.run.phase = .running ∧ s.actor = .m ∧ (s.run.stream s.actor).loops = []) := by decide
/-- A read of V that has its operands. -/
theorem ok_pair {r : Except VStop (State × VIn)} (h : r.toOption.isSome = true) : ∃ u i, r = .ok (u, i) := by
  cases r with
  | error e => simp [Except.toOption] at h
  | ok a => exact ⟨a.1, a.2, rfl⟩
/-- How a read of V ends that has no operands. -/
def stopOf (r : Except VStop (State × VIn)) : Option VStop := match r with | .error c => some c | .ok _ => none
theorem stop_of {r : Except VStop (State × VIn)} {c : VStop} (h : stopOf r = some c) : r = .error c := by
  cases r with
  | error e => exact congrArg _ (Option.some.inj h)
  | ok a => exact absurd h (by simp [stopOf])
/-- The small machine with a walking generator 0 that holds a beat read at cycle r. -/
def atPort (r : Nat) : State := { small [] with clk := { State.reset.clk with tape := 6 }, rs := { RegSpace.reset with
  ags := [(0, { AGen.reset with nest := some oneNest, st := 1, beats := [(r, 0, List.replicate 256 1)] })] } }
theorem hyp_VectorOperands :
    (let s := small []
     let x : VSpec := ⟨1, 0, some 9, some 63, 2, true, []⟩
     x.a = some 9 ∧ x.b = some 63 ∧ x.p = 0 ∧ s.vShadow (x.refs ++ (if x.m = 0 then [] else [.m x.m])) = false ∧
     (∀ q ∈ [(9 : Nat), 63, 2], s.regOn (s.specAddr q) = true ∧ (s.pendEn && !s.timed && s.pendingRs (s.specAddr q) 256) = false) ∧
     s.regOnRange (s.specAddr 2) 256 = true) ∧
    (let s := atPort 0
     let x : VSpec := ⟨0, 1, some 0, some 1, 2, false, []⟩
     s.vShadow [] = false ∧ (s.agen (0 % 8)).beats = (0, 0, List.replicate 256 1) :: [] ∧ s.popSt (0 % 8) = .ready ∧ x.p = 1 ∧
     s.run.phase ≠ .running ∧ s.regOn (s.specAddr 1) = true ∧ s.regOn (s.specAddr 2) = true ∧ s.regOnRange (s.specAddr 2) 256 = true) ∧
    (atPort 9).popSt 0 = .early ∧ (small []).popSt 0 = .dry ∧
    ({ pendS4 with pend := [⟨9, .v, .mreg 1 0 0, 0⟩] }).vShadow [.m 1] = true ∧
    (let s := { small [] with rs := { RegSpace.reset with power := [(0, (1, 0))], views := [(2, ⟨32768, 0, 9, 4, 256, 0, 0⟩)] } }
     s.regOn (s.specAddr 9) = false ∧ s.run.phase ≠ .running ∧ (inRun s).run.phase = .running ∧
     (∀ q ∈ [(16 : Nat), 17], (inRun s).regOn ((inRun s).specAddr q) = true ∧
       ((inRun s).pendEn && !(inRun s).timed && (inRun s).pendingRs ((inRun s).specAddr q) 256) = false)) := by decide +kernel
theorem hyp_VectorHolds :
    (atPort 9).vRead ⟨0, 1, some 0, some 1, 2, false, []⟩ = .error .hold ∧
    (small []).vRead ⟨0, 1, some 0, some 1, 2, false, []⟩ = .error (.code 0x144) :=
  ⟨stop_of (by decide +kernel), stop_of (by decide +kernel)⟩
theorem hyp_VectorInteger :
    ((7 : BitVec 4).toNat < 8 ∧ ∃ u i, (small []).vRead ⟨1, 0, some 9, some 63, 2, false, []⟩ = .ok (u, i)) ∧
    ((0 : BitVec 4).toNat < 8 ∧ ∃ u i, (small []).vRead ⟨0, 0, some 9, some 63, 2, true, []⟩ = .ok (u, i)) ∧
    (∃ u i, (atPort 0).vRead ⟨0, 1, some 0, some 1, 2, false, []⟩ = .ok (u, i)) ∧
    (∃ u i, (small []).vRead ⟨7, 0, some 9, none, 2, false, []⟩ = .ok (u, i)) ∧
    ((32 ≤ 8 * 4 ∧ 0 < 2 ^ (32 - 32)) ∧ (31 ≤ 8 * 4 ∧ 1 < 2 ^ (32 - 31) ∧ 2 ^ (32 - 1 - 31) ≤ 1)) :=
  ⟨⟨by decide, ok_pair (by decide +kernel)⟩, ⟨by decide, ok_pair (by decide +kernel)⟩, ok_pair (by decide +kernel),
    ok_pair (by decide +kernel), by decide⟩
theorem hyp_VectorFloat :
    (8 ≤ (8 : BitVec 4).toNat ∧ (11 : BitVec 4).toNat ≤ 11) ∧
    (∃ u i, (small []).vRead ⟨0, 0, some 0, some 1, 2, false, []⟩ = .ok (u, i)) ∧
    (∃ u i, (small []).vRead ⟨0, 0, some 0, some 1, 2, true, []⟩ = .ok (u, i)) ∧
    (∃ u i, (small []).vRead ⟨0, 0, some 0, none, 2, false, []⟩ = .ok (u, i)) :=
  ⟨by decide, ok_pair (by decide +kernel), ok_pair (by decide +kernel), ok_pair (by decide +kernel)⟩
theorem hyp_VectorPermute :
    ((0 : BitVec 4).toNat ≤ 13 ∧ (13 : BitVec 4).toNat ≤ 13) ∧
    (∃ u i, (small []).vRead ⟨0, 0, some 0, some 1, 2, true, []⟩ = .ok (u, i)) ∧
    (∃ u i, (small []).vRead ⟨0, 0, some 0, none, 2, false, [.s 4]⟩ = .ok (u, i)) ∧
    (∃ u i, (small []).vRead ⟨0, 0, some 0, some 1, 2, false, [.m 7]⟩ = .ok (u, i)) ∧
    (∃ u i, (small []).vRead ⟨0, 0, none, none, 2, false, [.s 31]⟩ = .ok (u, i)) ∧
    (∃ u i, (small []).vRead ⟨0, 0, none, none, 2, false, []⟩ = .ok (u, i)) :=
  ⟨by decide, ok_pair (by decide +kernel), ok_pair (by decide +kernel), ok_pair (by decide +kernel), ok_pair (by decide +kernel),
    ok_pair (by decide +kernel)⟩
theorem hyp_VectorCompareMask :
    (∃ u i, (small []).vRead ⟨3, 0, some 5, some 1, 5, false, []⟩ = .ok (u, i)) ∧
    (∃ u i, (atPort 0).vRead ⟨0, 1, some 0, some 1, 1, false, []⟩ = .ok (u, i)) ∧ (small []).vShadow [.m 7, .m 0] = false :=
  ⟨ok_pair (by decide +kernel), ok_pair (by decide +kernel), by decide⟩
theorem hyp_VectorConvert :
    (∃ u i, (small []).vRead ⟨0, 0, some 0, none, 2, false, []⟩ = .ok (u, i)) ∧
    (∃ u i, (small []).vRead ⟨0, 0, some 0, some 63, 2, false, []⟩ = .ok (u, i)) ∧
    (∃ u i, (small []).vRead ⟨0, 0, some 63, some 64, 2, false, []⟩ = .ok (u, i)) ∧
    (1 ≤ (1 : BitVec 4).toNat % 4 ∧ (7 : BitVec 4).toNat < 8) :=
  ⟨ok_pair (by decide +kernel), ok_pair (by decide +kernel), ok_pair (by decide +kernel), by decide⟩
theorem hyp_VectorReduce :
    (∃ u i, (small []).vRead ⟨0, 0, some 0, none, 2, true, []⟩ = .ok (u, i)) ∧
    (∃ u i, (small []).vRead ⟨0, 0, some 0, some 1, 2, true, []⟩ = .ok (u, i)) ∧
    (∃ pr, profOf 0x0202 = some pr ∧ pr.types.contains 10 = true ∧ pr.types.contains 8 = false) ∧ profOf 1 = none :=
  ⟨ok_pair (by decide +kernel), ok_pair (by decide +kernel), ⟨_, rfl, rfl, rfl⟩, rfl⟩
/-- The small machine with queue 0 of i32 (K 1) on the FIFO of bank 2, which holds n rows. -/
def queued (n : Nat) : State := let s := small []
  { s with
    ctl := { s.ctl with dqctl := 0x4802 }
    sram := { s.sram with fifo := [(256 * s.cluster + 2, ⟨n, 0, n % 256⟩)] } }
theorem hyp_Deferral :
    ((small []).dpend = [] ∧ (small []).dqCheck 0 2 0 = some 0x1C0) ∧
    (let s := queued 0
     s.dpend = [] ∧ s.dqCheck 0 2 7 = none ∧ s.dqK 0 = 1 ∧ s.vShadow [] = false ∧ s.regOn (s.specAddr 7) = true ∧
     (s.pendEn && !s.timed && s.pendingRs (s.specAddr 7) 256) = false ∧
     ((List.range 64).filter (laneOn (s.maskOf 0))).length = 64 ∧ ((List.range 64).filter (laneOn (s.maskOf 1))).length = 0 ∧
     (∀ x ∈ s.kAddrs 7 1, s.regOn x = true) ∧ (s.fifoOf (s.dqField 0 % 256)).count < s.dqK 0) ∧
    (let s := { queued 0 with regs := { (queued 0).regs with m := [(1, 5)] } }
     ((List.range 64).filter (laneOn (s.maskOf 1))).length = 2) ∧
    (queued 1).dqK 0 ≤ ((queued 1).fifoOf ((queued 1).dqField 0 % 256)).count ∧
    (∃ u i, (queued 1).vRead ⟨0, 0, none, none, 2, false, []⟩ = .ok (u, i)) :=
  ⟨by decide +kernel, by decide +kernel, by decide +kernel, by decide +kernel, ok_pair (by decide +kernel)⟩
/-- A waiting DEFER, and a waiting DRAIN, of one row. -/
def waitPush : DPend := ⟨true, 0, 2, [List.replicate 256 1], .reset, 1, [], 0, 0, 7, 0, 5, 1⟩
def waitPop : DPend := ⟨false, 0, 2, [], .reset, 1, [512], 3, 64, 7, 0, 6, 1⟩
theorem hyp_DeferralAccepted :
    (let s := { queued 255 with dpend := [waitPush] }
     s.dpend.find? (fun x => x.push && s.dqReady x) = some waitPush ∧ s.fifoCheck waitPush.head = none ∧ waitPush.k = 1) ∧
    (let s := { queued 1 with dpend := [waitPop] }
     s.dpend.find? (fun x => !x.push && s.dqReady x) = some waitPop ∧ s.fifoCheck waitPop.head = none ∧ waitPop.base = [512]) ∧
    (let s := { queued 1 with dpend := [{ waitPop with head := 3 }, { waitPush with head := 3 }] }
     s.dpend.find? (fun x => !x.push && s.dqReady x) = some { waitPop with head := 3 } ∧ s.fifoCheck 3 = some 0x08F ∧
     s.dpend.find? (fun x => x.push && s.dqReady x) = some { waitPush with head := 3 }) := by decide +kernel
/-- A weight load of bank 1 with beats of ones, which still reads n of them. -/
def loading (n : Nat) : MLoad := ⟨1, 0, 0, 0, 2, n, List.replicate 32 (List.replicate 256 1), 0, 32, 1⟩
theorem hyp_MatrixLoads :
    ((Instr.mldwBd 7 1 1 1 1, 1, 1, 4, 7, 32, 32) ∈ ([(.mldw 7 1 1, 0, 1, 0, 7, 32, 32), (.mldb 7 1 1, 2, 1, 0, 7, 64, 64),
       (.mldwBd 7 1 0 1 1, 1, 1, 2, 7, 16, 32), (.mldwBd 7 1 1 1 1, 1, 1, 4, 7, 32, 32), (.mwclr 1 1, 3, 1, 0, 0, 0, 1)] :
       List (Instr × Nat × Nat × Nat × Nat × Nat × Nat))) ∧
    ((small []).me.loads.all (fun l => l.left = 0) = true ∧ (small []).run.phase ≠ .running ∧ (small []).me.stream = none ∧
     (inRun (small [])).run.phase = .running) ∧
    (let s := { small [] with me := { MEng.reset with loads := [loading 3] } }
     s.me.loads.any (fun l => l.left ≠ 0) = true ∧ s.run.phase ≠ .running ∧ (inRun s).run.phase = .running) := by decide
theorem hyp_WeightsAfterLoad :
    0 < tileK 0 ∧ 0 < tileN 0 ∧ 9 < tileK 6 ∧ 0 < tileN 6 ∧ (loading 0).kind = 0 ∧ ({ loading 0 with kind := 1, mode := 4 }).kind = 1 ∧
    (9 / 16 ≠ 31 / 16) ∧ (9 / 16 = 15 / 16) := by decide
/-- The small machine with an accumulator view 0 of 4 rows of f32, weights of bf16 in bank 0 and 4 beats that generator 0 still passes. -/
def tile : State := { small [] with
  me := { MEng.reset with bank0 := { WBank.reset with fmt := 2, w := [[0x3F80]] } }
  rs := { RegSpace.reset with
    views := [(0, ⟨4096, 2, 9, 4, 4096, 0, 0⟩)]
    ags := [(0, { AGen.reset with nest := some { oneNest with counts := [4, 1, 1, 1, 1, 1] }, st := 1 })] } }
theorem hyp_MatrixStreams :
    (∃ x ∈ ([(.mmul 0 0 0 2 0x0202, false, false, true), (.macc 0 0 0 2 0x0202, false, false, false)] : List (Instr × Bool × Bool × Bool)),
      x = (.macc 0 0 0 2 0x0202, false, false, false)) ∧
    profOf 7 = none ∧ (∃ pr, profOf 0x0202 = some pr ∧ pr.types.contains (mType 2) = true ∧ pr.types.contains (mType 6) = false ∧
      (tile.view 0).kind = 2 ∧ (tile.view 0).type = pr.res) ∧
    (tile.me.stream = none ∧ tile.run.phase ≠ .running ∧ (∀ l ∈ tile.me.loads, l.bank ≠ (tile.mctx 0).bank) ∧
     fmtMatch (tile.wbank (tile.mctx 0).bank).fmt 2 = true ∧ fmtMatch (tile.wbank (tile.mctx 0).bank).fmt 0 = false ∧
     (∀ r, r < (tile.view 0).rows → tile.regOn ((tile.view 0).addr r) = true) ∧
     (tile.agen 0).st = 1 ∧ (tile.agen 0).past ((tile.agen 0).k + (tile.view 0).rows - 1) = false ∧ (tile.view 1).kind ≠ 2) ∧
    (inRun tile).run.phase = .running ∧
    (let m : MStream := ⟨View.reset, 0, 1, false, 0, 2, 0x0202, false, true, 0, false, 0, 0, 1, []⟩
     ({ tile with me := { tile.me with stream := some m } }).me.stream.isSome = true) ∧
    ((∃ r, r < (tile.view 0).rows ∧ ({ tile with rs := { tile.rs with power := [(0, (1, 0))] } }).regOn ((tile.view 0).addr r) = false) ∧
     (tile.agen 1).st ≠ 1 ∧
     (let s := { tile with rs := { tile.rs with ags := [(0, { (tile.agen 0) with nest := some { oneNest with counts := [3, 1, 1, 1, 1, 1] } })] } }
      (s.agen 0).past ((s.agen 0).k + (s.view 0).rows - 1) = true) ∧
     (∃ l ∈ [loading 0], l.bank = 1)) := by decide +kernel
theorem hyp_RowAccumulates :
    let r : MRow := ⟨0, 4096, false, 0x0202, [[fmtF32.decode 0x3F800000]], true, 0, 1⟩
    (∃ pr, profOf r.prof = some pr) ∧ tile.regOn r.addr = true ∧ tile.mShadow r.cmd r.addr = false ∧
    (let s := { tile with pend := [⟨9, .v, .rs [(512, 1)], 0⟩], sram := { tile.sram with pendEn := [(0, true)] } }
     s.mShadow 1 512 = true ∧ ({ r with zero := false }).zero = false) := ⟨⟨_, rfl⟩, by decide +kernel⟩
theorem hyp_MatrixDrains :
    (∃ x ∈ ([(.mdrn 0 1 2 0x0202, 0, 0), (.mdrnc 0 1 2 0x0202, 1, 0), (.mdrnr 0 0 1 2 0x0202, 2, (tile.mctx 0).shift)] :
      List (Instr × Nat × Nat)), x.2.1 = 2) ∧
    (profOf 7 = none ∧ tile.me.drain = none ∧ (tile.view 0).kind = 2 ∧ (tile.view 0).type = 9 ∧ (tile.view 1).kind ≠ 2 ∧
     (∀ r, r < (tile.view 0).rows → tile.regOn ((tile.view 0).addr r) = true) ∧ tile.run.phase ≠ .running ∧
     (∃ r, r < (tile.view 0).rows ∧ ({ tile with rs := { tile.rs with power := [(0, (1, 0))] } }).regOn ((tile.view 0).addr r) = false)) ∧
    (let d : MDrain := ⟨3, View.reset, 0, 1, 0, 0, 0, 0, 0, [], 0, 1, []⟩
     let s := { tile with me := { tile.me with drain := some d } }
     s.me.drain.isSome = true ∧ s.run.phase ≠ .running ∧ (inRun s).run.phase = .running ∧ (profOf 0x0202).isSome = true) := by
  decide +kernel
theorem ok_some {ε α : Type} {r : Except ε α} {a : α} (h : r.toOption = some a) : r = .ok a := by
  cases r with
  | error e => exact absurd h (by simp [Except.toOption])
  | ok b => exact congrArg _ (Option.some.inj h)
theorem ok_unit {ε : Type} {r : Except ε Unit} (h : r.toOption.isSome = true) : r = .ok () := by
  cases r with
  | error e => exact absurd h (by simp [Except.toOption])
  | ok b => rfl
/-- A shape record (R124): element size code, types, counts and strides. -/
def recOf (el ta tb : Nat) (cs ss ds : List Nat) : List Byte :=
  (List.map (BitVec.ofNat 8) [el, cs.length, ta, tb]) ++ List.replicate 12 0 ++ (List.range 4).flatMap (fun i =>
    leBytes 4 (nthD 0 cs i) ++ leBytes 4 (nthD 0 ss i) ++ leBytes 4 (nthD 0 ds i))
/-- The small machine with a record in slot 0, s4 = 65,536 for the one side and s5 = 0 for the other. -/
def copying (b : List Byte) : State :=
  { small [(4, 65536)] with cx := { CExtra.reset with recs := [(0, some ⟨spad, 0, b⟩)] } }
/-- The check of an access of C, after a CUT that S has issued. -/
def accCheck (s : State) (k : Cap) (need : Nat) (o : Int) (n : Nat) : Chk := s.afterCut k (s.checkAcc k need o n)
/-- Two rows of four dwords, 64 bytes apart. -/
def rows24 : List Byte := recOf 3 0 0 [4, 2] [8, 64] [8, 64]
/-- `State.cClear`, decided. -/
def clear (s : State) (rs : List RegRef) : Bool := !(s.pendEn && !s.timed && s.pendingAny rs)
theorem clear_iff (s : State) (rs : List RegRef) : clear s rs = true ↔ s.cClear rs := by
  rw [clear, Bool.not_eq_true']
  rfl
/-- The copying machine with PendEn and a write of S in flight to the dword at 8 of cluster SRAM. -/
def pending (b : List Byte) : State :=
  let s := copying b
  { s with pend := [⟨9, .s, .sram [(s.spadKey 8, 1)], 0⟩], sram := { s.sram with pendEn := [(0, true)] } }
/-- The copying machine whose next word of C has read the bytes of a range at 0. -/
def hasRead (b l : List Byte) : State :=
  let s := copying b
  { s with sram := { s.sram with got := [(.pre, 0, 0, l)] } }
theorem hyp_CopyForms :
    (let r := shapeOf rows24
     (3 < r.count 0 ∧ 1 < r.count 1 ∧ 0 < r.count 2 ∧ 0 < r.count 3) ∧ (24, 24) ∈ r.walk r.ss r.ds) ∧
    (let s := copying rows24
     let q := shapeOf rows24
     s.run.phase ≠ .running ∧ s.cClear [.c 1, .c 1, .s 4, .s 5] ∧ tget none s.cx.recs 0 = some ⟨spad, 0, rows24⟩ ∧ q.plain = true ∧
     q.cvtOk = false ∧ q.hull q.ss 0 8 = (0, 96) ∧ q.hull q.ds 65536 8 = (65536, 65632) ∧
     accCheck s (s.creg 1) 1 0 96 = .ok ∧ accCheck s (s.creg 1) 2 65536 96 = .ok ∧ (96 : Int) ≤ 65536 ∧ s.pendEn = false ∧
     (∀ w ∈ q.walk q.ss q.ds, s.badAt (s.creg 1) (0 + w.1).toNat 8 = false)) ∧
    (let b := recOf 2 9 10 [16] [4] [2]
     let q := shapeOf b
     q.cvtOk = true ∧ tget none (copying b).cx.recs 0 = some ⟨spad, 0, b⟩) ∧
    (let s := copying rows24
     let t := { s with mem := { s.mem with bad := [4096] } }
     accCheck s (s.creg 1) 2 (65536 * 2) 96 = .bad 0x08F ∧ accCheck s (s.creg 4) 1 0 96 = .bad 0x080 ∧
     accCheck s (s.creg 3) 1 0 96 = .park 0 ∧ accCheck s (s.creg 3) 2 0 96 = .park 0 ∧
     capObj (s.creg 1) = capObj (s.creg 1) ∧ ((0 : Int) < 96) ∧ accCheck s (s.creg 1) 2 0 96 = .ok ∧
     accCheck t (t.creg 2) 1 0 96 = .ok ∧ t.badAt (t.creg 2) 0 8 = true) ∧
    (let s := pending rows24
     let q := shapeOf rows24
     (∃ rest, q.walk q.ss q.ds = [(0, 0)] ++ (8, 8) :: rest) ∧ clear s [.c 1, .c 1, .s 4, .s 5] = true ∧ s.badAt (s.creg 1) 0 8 = false ∧
     s.pendingSpad 0 8 = false ∧ s.badAt (s.creg 1) 8 8 = false ∧ s.pendEn = true ∧ isSpad (s.creg 1) = true ∧ s.pendingSpad 8 8 = true) := by
  refine ⟨by decide +kernel, ⟨by decide, rfl, rfl, by decide +kernel, by decide +kernel, by decide +kernel, by decide +kernel, by decide +kernel,
    by decide +kernel, by decide, by decide, by decide +kernel⟩, ⟨by decide +kernel, rfl⟩, by decide +kernel, ⟨_, rfl⟩, by decide +kernel⟩
theorem hyp_CopyRows :
    (let b := recOf 3 0 0 [16] [0] [8]
     let s := copying b
     let q := shapeOf b
     s.run.phase ≠ .running ∧ tget none s.cx.recs 0 = some ⟨spad, 0, b⟩ ∧ s.cClear [.c 1, .s 4, .s 5] ∧ q.plain = true ∧
     (∀ v ∈ q.ss, v = 0) ∧ q.hull q.ds 65536 8 = (65536, 65664) ∧ accCheck s (s.creg 1) 2 65536 128 = .ok) ∧
    (let s := copying rows24
     let q := shapeOf rows24
     let off := { s with rs := { s.rs with power := [(2, (1, 0))] } }
     accCheck s (s.creg 1) 1 0 96 = .ok ∧ (65536 : Nat) < 2 ^ 18 ∧ q.hull q.ds 65536 8 = (65536, 65632) ∧ s.regOnRange 65536 96 = true ∧
     off.regOnRange 65536 96 = false ∧ (262144 : Int) < (q.hull q.ds 262080 8).2 ∧
     (∀ w ∈ q.walk q.ss q.ds, s.badAt (s.creg 1) (0 + w.1).toNat 8 = false) ∧ s.pendEn = false) ∧
    (let s := hasRead rows24 (List.replicate 8 0)
     let q := shapeOf rows24
     q.rows 65536 = true ∧ s.cClear [.c 1, .c 1, .s 4, .s 5, .s 6] ∧ (s.sreg 6).toNat < 2 ^ 24 ∧ s.preHas (s.sreg 6).toNat (4 * q.count 1) = true ∧
     s.waitingFor .pre = false ∧ s.indexList (s.sreg 6) (q.count 1) = [0, 0] ∧
     s.sideRows (s.creg 1) 1 32 [0, 0] = .ok () ∧ s.sideRows (s.creg 1) 2 32 [65536, 65600] = .ok () ∧
     overlap (s.creg 1) (s.creg 1) (rowsHull [0, 0] 32) (rowsHull [65536, 65600] 32) = false) ∧
    (let s := hasRead rows24 (List.replicate 8 0)
     s.indexList (s.sreg (4 + 1)) 2 = [0, 0] ∧ s.sideRows (s.creg 1) 1 32 [0, 64] = .ok () ∧
     s.sideRows (s.creg 1) 2 32 [65536, 65536] = .ok ()) ∧
    (let s := copying rows24
     let u := { s with sram := { s.sram with queue := s.rowReads 11 .pre [(0, 0, 8)] } }
     s.preHas 0 8 = false ∧ s.checkSpad 0 8 s.ctl.world = .ok ∧ s.checkSpad 0x20000 8 s.ctl.world = .bad 0x08F ∧
     (s.pendEn && s.pendingSpad 0 8) = false ∧ s.waitingFor .pre = false ∧ u.waitingFor .pre = true ∧ u.preHas 0 8 = false ∧
     ((pending rows24).pendEn = true ∧ (pending rows24).pendingSpad 8 8 = true ∧ (pending rows24).preHas 8 8 = false) ∧
     (2 : Nat) ^ 24 ≤ 0x1000000) := by
  refine ⟨⟨by decide, rfl, rfl, by decide +kernel, by decide +kernel, by decide +kernel, by decide +kernel⟩, by decide +kernel,
    ⟨by decide +kernel, rfl, by decide, by decide +kernel, by decide, by decide +kernel, ok_unit (by decide +kernel), ok_unit (by decide +kernel),
      by decide +kernel⟩, ⟨by decide +kernel, ok_unit (by decide +kernel), ok_unit (by decide +kernel)⟩, by decide +kernel⟩
theorem hyp_RecordsAndTimedCopies :
    (let s := copying rows24
     let u := hasRead rows24 rows24
     let bad := hasRead rows24 (List.replicate 64 1)
     let slot : RecSlot := ⟨spad, 0, rows24⟩
     u.run.phase ≠ .running ∧ clear u [.c 1, .s 5] = true ∧ ((u.sreg 5).toNat : Int) % 64 = 0 ∧ (1 : Int) % 64 ≠ 0 ∧
     isSpad (u.creg 1) = true ∧ u.preHas 0 64 = true ∧ u.waitingFor .pre = false ∧ (shapeOf (u.preGot 0 64)).ok = true ∧
     bad.preHas 0 64 = true ∧ (shapeOf (bad.preGot 0 64)).ok = false ∧
     s.preHas 0 64 = false ∧ accCheck s (s.creg 1) 1 0 64 = .ok ∧ s.badAt (s.creg 1) 0 64 = false ∧ s.pendEn = false ∧
     accCheck s (s.creg 4) 1 0 64 = .bad 0x080 ∧ isSpad (s.creg 4) = false ∧ isSpad (s.creg 2) = false ∧ accCheck s (s.creg 2) 1 0 64 = .ok ∧
     ({ u with sram := { u.sram with queue := u.rowReads 11 .pre [(0, 0, 64)] } }).waitingFor .pre = true ∧
     tget none u.cx.recs 9 = none ∧ tget none u.cx.recs 0 = some slot ∧
     (∀ x ∈ u.reloadRows true (List.range 16), u.preHas x.1 x.2 = true)) ∧
    (∃ u, (hasRead rows24 rows24).reload true (List.range 16) = .ok u) ∧
    (let b := recOf 6 0 0 [1] [0] [0]
     let s := inRun (copying b)
     let q := shapeOf b
     s.run.phase = .running ∧ isSpad (s.creg 1) = true ∧ tget none s.cx.recs 0 = some ⟨spad, 0, b⟩ ∧ q.el = 6 ∧ q.total = 1 ∧
     (s.sreg 4).toNat + 64 ≤ 2 ^ 18 ∧ (s.sreg 4).toNat % 32768 + 64 ≤ 32768 ∧ (s.sreg 5).toNat % 65536 + 64 ≤ 65536 ∧
     capLower (s.creg 1) ≤ (s.sreg 5).toNat ∧ (s.sreg 5).toNat + 64 ≤ capUpper (s.creg 1) ∧
     ({ s with rs := { s.rs with power := [(2, (1, 0))] } }).regOn (s.sreg 4).toNat = false) ∧
    (let q := shapeOf (recOf 6 0 0 [1] [0] [0])
     let s := inRun (copying (recOf 6 0 0 [1] [0] [0]))
     let a := s.creg 1
     let d := s.creg 2
     isSpad a ≠ isSpad d ∧ capLower a ≤ 0 ∧ 0 + 64 ≤ capUpper a ∧ capLower d ≤ 0 ∧ 0 + 64 ≤ capUpper d ∧ 0 % 65536 + 64 ≤ 65536 ∧
     (let c := 256
      let per := if s.portAt (capObj d) (capLower d) < 8 then 24 else 2
      let slot := q.first % (256 * per)
      s.clk.tape < c ∧ c % 256 = slot / per ∧ (∀ b, s.clk.tape < b → b < c → b % 256 ≠ slot / per) ∧
      (∀ l ∈ [[], [(c, 7 + s.portAt (capObj d) (capLower d), slot, 0)]], let u := { s with ctl := { s.ctl with coreId := 5 }, env := { s.env with rivals := l } }
       (∃ x ∈ u.env.rivals, x.1 = c ∧ x.2.1 = 7 + s.portAt (capObj d) (capLower d) ∧ x.2.2.1 = slot ∧ x.2.2.2 < u.ctl.coreId) ↔ l ≠ []))) ∧
    (let s := inRun (copying rows24)
     0 % 65536 + 4 * 2 ≤ 65536 ∧ s.bankUsable (0 / 65536) = true ∧
     (∀ x ∈ s.sram.timed, x.cycle = s.clk.tape → s.reqKey x / 65536 ≠ s.bankKey (0 / 65536))) := by
  refine ⟨by decide +kernel, ⟨_, rfl⟩, by decide +kernel, ⟨by decide +kernel, by decide +kernel, by decide +kernel, by decide +kernel,
    by decide +kernel, by decide, by decide, by decide +kernel, ?_, by decide +kernel⟩, by decide +kernel⟩
  intro b h1 h2 h3
  have h4 : (inRun (copying (recOf 6 0 0 [1] [0] [0]))).clk.tape = 0 := rfl
  have h5 : b % 256 = 0 := h3
  omega
/-- The copying machine whose HBM4 pool, and with x that of XK4M, has a page. -/
def paged (x4 : Bool) (v : W64) : State :=
  let s := copying (recOf 3 0 0 [4] [8] [0])
  { s with
    regs := { s.regs with s := [(4, v)], c := [(1, spad), (2, mkCap 1 0x7F 0 4096)] }
    mem := { s.mem with xk4m := x4, pools := [(0, ⟨[], [], [(8, [0x20000])]⟩)] } }
theorem hyp_MemoryServices :
    (let s := paged true 0
     let q := shapeOf (recOf 3 0 0 [4] [8] [0])
     s.run.phase ≠ .running ∧ s.cClear [.c 1, .s 5] ∧ tget none s.cx.recs 0 = some ⟨spad, 0, recOf 3 0 0 [4] [8] [0]⟩ ∧
     q.plain = true ∧ (∀ v ∈ q.ds, v = 0) ∧ accCheck s (s.creg 1) 1 0 32 = .ok ∧ q.hull q.ss 0 8 = (0, 32) ∧
     (0 % 8 = 0 ∧ accCheck s (s.creg 1) 2 0 8 = .ok ∧ accCheck s (s.creg 1) 7 0 8 = .ok ∧ 4 % 8 ≠ 0 ∧ s.badAt (s.creg 1) 0 8 = false ∧
      s.pendEn = false ∧ accCheck s (s.creg 2) 7 0 8 = .ok ∧
      ({ s with mem := { s.mem with bad := [4096] } }).badAt (s.creg 2) 0 8 = true) ∧
     accCheck s (s.creg 4) 1 0 32 = .bad 0x080 ∧ accCheck s (s.creg 4) 2 0 8 = .bad 0x080 ∧ accCheck s (s.creg 4) 7 0 8 = .bad 0x080 ∧
     tget none s.cx.recs 9 = none ∧ clear s [.c 1, .s 4, .s 5] = true ∧
     (let u := pending rows24
      clear u [.c 1, .s 4, .s 5] = true ∧ u.pendEn = true ∧ u.pendingSpad 8 8 = true ∧ u.badAt (u.creg 1) 8 8 = false ∧
      (shapeOf rows24).plain = true ∧ ∃ v ∈ (shapeOf rows24).ds, v ≠ 0)) ∧
    (let s := paged true 0x1000000
     let e := page false 4096
     s.cClear [.c 2, .s 4, .s 5] ∧ accCheck s (s.creg 2) 64 0 1 = .ok ∧ s.checkSpad 0 4 s.ctl.world = .ok ∧ s.entry (capObj (s.creg 2)) = some e ∧
     e.segs.findIdx? (fun g => segCovers g 0) = some 0 ∧ e.pin = false ∧ 0x1000000 / 2 ^ 24 % 8 = 1 ∧ s.mem.xk4m = true ∧ 0x1000000 < 2 ^ 27 ∧
     (1 : Nat) ≠ (e.segs.getD 0 ⟨0, 0, 0, false, false, 0, 0⟩).tier ∧
     tget [] (tget .reset s.mem.pools s.ctl.vi).pages (8 * 1 + 0) = [0x20000] ∧
     tget [] (tget .reset (small []).mem.pools 0).pages (8 * 1 + 0) = []) ∧
    ((paged false 0x1000000).mem.xk4m = false ∧ ({ page false 4096 with pin := true }).pin = true ∧ 2 ^ 27 ≤ 0x8000000) := by
  refine ⟨⟨by decide, rfl, rfl, by decide +kernel⟩, ⟨rfl, by decide +kernel⟩, by decide⟩
/-- The migration of object 1, with its command in flight. -/
def migrating : State :=
  let s := paged true 0
  let c : Cmd := ⟨7, 0, 0, [], 0, 0, 0, 0, none, [], false, [], none, false, 0, 0, false, none, 0, none, 0, 0, 8, false⟩
  { s with cx := { s.cx with migs := [⟨1, 0, 1, 0x20000, 64, 7⟩] }, cc := { Chain.reset with cmds := [c] } }
/-- A machine whose command of C is due with these writes, and a ticket of token n that follows token m. -/
def dueCmd (ws : List CWrite) (out : Bool) (prod : Nat) (n m : W32) : State :=
  let c : Cmd := ⟨7, 0, 0, [], prod, n, 0, 0, some 0, ws, false, [], none, false, 0, 0, false, none, 0, none, 0, 0, 8, out⟩
  { small [] with cc := { Chain.reset with cmds := [c] }, cmp := [(prod, m)] }
/-- A machine in a deterministic launch, with a signature of core n for the first word of object 1 (R355). -/
def signed (s : State) (n : Nat) : State :=
  { s with grp := { s.grp with detGroup := some 7 }, mem := { s.mem with sigs := [⟨0, 1, 0, 1, n, 0, 0, 0⟩] } }
/-- The request of a command's write of one byte at 64 has come to bank 0. -/
def asking : State :=
  let s := dueCmd [] true 0 0 0
  { s with sram := { s.sram with queue := [⟨16 * s.coreJ + 1, s.spadKey 64, .write [1], .cmd 7, some s.ctl.world⟩] } }
theorem hyp_CommandCompletes :
    (migrating.migReady = some ⟨1, 0, 1, 0x20000, 64, 7⟩ ∧ tget none migrating.mem.obj 1 = some (page false 4096) ∧
     (page false 4096).segs[0]? = some ⟨0, 0, 0, false, true, 4096, 0⟩ ∧ Memory.wf migrating.mem.phys = true ∧
     (4096 + pageBytes 0 ≤ 0x20000) ∧ (∃ c ∈ migrating.cc.cmds, c.id = 7) ∧ migrating.mem.bad = [] ∧ twf none migrating.mem.tags = true ∧
     ({ migrating.mem with bad := [4101] }).bad.find? (fun p => decide (4096 ≤ p) && decide (p < 4096 + pageBytes 0)) = some 4101) ∧
    (let w : CWrite := .obj 1 0 (List.replicate 8 1) (some 0)
     let s := signed (dueCmd [w] true 0 0 0) 5
     ∃ x, s.completable = some (.c, x) ∧ x.out = true ∧ (s.applyWrites x.writes).2 = true ∧ s.detects true 1 = true ∧
       (∃ g, s.detect 1 0 8 0 = .error g) ∧ ∃ u, (signed (dueCmd [w] true 0 0 0) 0).detect 1 0 8 0 = .ok u) ∧
    (∃ x, (dueCmd [] false 5 2 1).completable = some (.c, x) ∧ Engine.c ≠ .s ∧ x.busy = [] ∧ x.writes = [] ∧ x.tokAt ≤ (dueCmd [] false 5 2 1).clk.tape ∧
      ((dueCmd [] false 5 2 1).applyWrites x.writes).2 = false ∧ (dueCmd [] false 5 2 1).beatsDone x = true ∧
      tget 0 (x.writes.foldl State.applyWrite (dueCmd [] false 5 2 1)).cmp x.prod = x.ticket - 1) ∧
    (∃ x, (dueCmd [] true 0 0 0).completable = some (.c, x) ∧ x.prod = 0 ∧ x.out = true) ∧
    (∃ x, (dueCmd [] false 5 3 1).completable = some (.c, x) ∧ x.prod ≠ 0 ∧
      tget 0 (x.writes.foldl State.applyWrite (dueCmd [] false 5 3 1)).cmp x.prod ≠ x.ticket - 1) ∧
    (let s := dueCmd [.sram 64 [1]] false 0 0 0
     ∃ x, s.completable = some (.c, x) ∧ x.out = false ∧ x.writes ≠ [] ∧ (s.sourced x).1.flatMap (s.bankWrites x.id) ≠ []) ∧
    (let s := dueCmd [.rs [(64, 1)]] false 0 0 0
     ∃ x, s.completable = some (.c, x) ∧ x.out = false ∧ x.writes ≠ [] ∧ (s.sourced x).1.flatMap (s.bankWrites x.id) = [] ∧
       s.cc.cmds.filter (fun c => c.id = x.id) = [x] ∧
       ((s.release x).applyWrites ((s.sourced x).1.filter (fun w => !w.spad))).2 = false) ∧
    (∃ n bk x, asking.nextServed = some ⟨n, bk, .items [x]⟩ ∧ x.world = some 0 ∧ (asking.cfgOf bk).refuses 0 = none) :=
  ⟨by decide +kernel, ⟨_, rfl, rfl, rfl, rfl, ⟨_, rfl⟩, _, rfl⟩,
    ⟨_, rfl, by decide, rfl, rfl, by decide, rfl, rfl, rfl⟩, ⟨_, rfl, rfl, rfl⟩, ⟨_, rfl, by decide, by decide +kernel⟩,
    ⟨_, rfl, rfl, by decide, by decide +kernel⟩, ⟨_, rfl, rfl, by decide, by decide +kernel, rfl, rfl⟩,
    ⟨_, _, _, rfl, rfl, by decide +kernel⟩⟩
/-- Two members, 0 here and 1 at package 5 of a loom of 8 by 8 by 8, in group 7, with 16 delivery counters; s4 is a far base and s5
the call word for member m of group 7 with counter 3; r0 holds `b`. -/
def callingFrom (b : List Byte) (far m : Nat) : State :=
  let s := copying b
  { s with
    regs := { s.regs with s := [(4, BitVec.ofNat 64 far), (5, BitVec.ofNat 64 (m + 7 * 2 ^ 17 + 3 * 2 ^ 25))] }
    grp := { s.grp with table := [(7, some pair)], panel := [(0, 1, 0), (5, 1, 1)] }
    fab := { s.fab with dcPart := [(0, 0x10000)], dims := 0x888 } }
/-- So, with the record of `rows24` and the far side at 65,536. -/
def calling (m : Nat) : State := callingFrom rows24 65536 m
/-- The form that it asks for, with these capabilities. -/
def asked (m : Nat) (near far : Cap) (base : Int) : Ask := ⟨0, near, far, 0, base, m + 7 * 2 ^ 17 + 3 * 2 ^ 25, shapeOf rows24⟩
/-- A command of C that is the form of call n of group 7. -/
def formCmd (n : Nat) : Cmd := ⟨7, 0, 0, [], 0, 0, 0, 0, none, [], false, [], some (7, n), false, 0, 0, false, none, 0, none, 0, 0, 8, false⟩
theorem hyp_FabricForms :
    (∀ m, m = 0 ∨ m = 1 → (calling m).run.phase ≠ .running ∧ (calling m).cClear [.c 1, .c 1, .s 4, .s 5, .s 6] ∧
      (calling m).askPut 0 1 1 0 4 6 = .ok (asked m spad spad 65536) ∧ (calling m).callTarget (asked m spad spad 65536).word = .ok (7, m, 3) ∧
      (calling m).callBusy 7 = false ∧ accCheck (calling m) spad 1 0 96 = .ok ∧ (asked m spad spad 65536).hulls = ((0, 96), (65536, 65632)) ∧
      (∀ w ∈ (shapeOf rows24).walk (shapeOf rows24).ss (shapeOf rows24).ds, (calling m).partStop spad (0 + w.1).toNat 8 = none) ∧
      (calling m).reaches ((calling m).packageOf m) = true ∧ (calling m).localCore m = decide (m = 0)) ∧
    ((calling 0).cx.granted = false ∧ (calling 0).cx.arm = none ∧ (calling 0).cx.asked = false ∧
     ({ calling 0 with cx := { (calling 0).cx with granted := true } }).cx.granted = true ∧
     ({ calling 0 with cc := { (calling 0).cc with cmds := [formCmd 1] } }).callBusy 7 = true ∧
     ({ calling 1 with fab := { (calling 1).fab with links := [0, 1, 2, 3, 4, 5].map (fun k => (k, { Link.reset with st := 3 })) } }).reaches 5 = false) ∧
    ((calling 0).askPut 0 1 4 0 4 6 = .ok (asked 0 0 spad 65536) ∧ accCheck (calling 0) 0 1 0 96 = .bad 0x080) ∧
    ((calling 0).askPut 0 1 3 0 4 6 = .ok (asked 0 (mkCap 2 0x7F 0 4096) spad 65536) ∧ accCheck (calling 0) (mkCap 2 0x7F 0 4096) 1 0 96 = .park 0) ∧
    ((calling 0).askPut 0 1 2 0 4 6 = .ok (asked 0 (mkCap 1 0x7F 0 4096) spad 65536) ∧ accCheck (calling 0) (mkCap 1 0x7F 0 4096) 1 0 96 = .ok) ∧
    (let s := callingFrom rows24 0 0
     let k := asked 0 spad spad 0
     s.askPut 0 1 1 0 4 6 = .ok k ∧ (capObj k.near = capObj k.far && k.hulls.1.1 < k.hulls.2.2 && k.hulls.2.1 < k.hulls.1.2) = true) ∧
    ((∃ k, (callingFrom (recOf 3 0 3 [4, 2] [8, 64] [8, 64]) 65536 0).askPut 1 1 1 0 4 6 = .ok k) ∧
     (∃ k, ({ calling 0 with regs := { (calling 0).regs with s := [(4, 65536), (7, (calling 0).sreg 5)] } }).askGet 1 1 0 4 6 = .ok k)) ∧
    (∃ k, (calling 2).askPut 0 1 1 0 4 6 = .ok k ∧ (calling 2).callTarget k.word = .error 0x0C4) ∧
    (∃ k, let s := inRun (callingFrom (recOf 6 0 0 [1] [0] [0]) 65536 1)
      s.askPut 0 1 1 0 4 6 = .ok k ∧ s.callMember k.word = some 1 ∧ k.q.el = 6 ∧ k.q.total = 1 ∧ capLower k.near ≤ k.nearBase ∧
      k.nearBase + 64 ≤ capUpper k.near ∧ capLower k.far ≤ k.farBase ∧ k.farBase + 64 ≤ capUpper k.far ∧ k.nearBase % 65536 + 64 ≤ 65536 ∧
      k.farBase % 65536 + 64 ≤ 65536 ∧ s.slotLost (frameCycle (s.clk.tape + 1) 0) ((s.route (s.packageOf 1)).2.headD 6) 0 = false ∧
      k.q.first % 1024 = 0 ∧ (∀ x ∈ s.fab.pieces, x.nominal ≠ frameCycle (s.clk.tape + 1) 0 + 64)) ∧
    (∀ m ∈ [(0 : Nat), 1], let u := callingFrom (recOf 6 0 0 [1] [0] [0]) 65536 m
     let s := inRun { u with regs := { u.regs with s := [(4, 65536), (7, u.sreg 5)] } }
     ∃ k, s.askGet 1 1 0 4 6 = .ok k ∧ s.callMember k.word = some m ∧ s.localCore m = decide (m = 0) ∧ k.q.el = 6 ∧ k.q.total = 1) ∧
    (∃ k, let s := inRun (callingFrom (recOf 6 0 9 [1] [0] [0]) 65536 1)
      s.askPut 1 1 1 0 4 6 = .ok k ∧ s.callMember k.word = some 1 ∧ 64 / tySize k.q.tb = 16) ∧
    ((calling 0).cClear [.s 4, .s 5] ∧ (calling 0).counterIdx ((calling 0).sreg 4) = none ∧
     (calling 0).counterIdx ((calling 0).sreg 6) = some 0) := by
  refine ⟨?_, by decide +kernel, ⟨ok_some (by decide +kernel), by decide +kernel⟩, ⟨ok_some (by decide +kernel), by decide +kernel⟩,
    ⟨ok_some (by decide +kernel), by decide +kernel⟩, ⟨ok_some (by decide +kernel), by decide +kernel⟩, ⟨ok_of (r := (callingFrom (recOf 3 0 3 [4, 2] [8, 64] [8, 64]) 65536 0).askPut 1 1 1 0 4 6) (by decide +kernel),
      ok_of (r := ({ calling 0 with regs := { (calling 0).regs with s := [(4, 65536), (7, (calling 0).sreg 5)] } }).askGet 1 1 0 4 6)
        (by decide +kernel)⟩, ⟨asked 2 spad spad 65536,
    ok_some (by decide +kernel), error_of (by decide +kernel)⟩, ⟨⟨0, spad, spad, 0, 65536, 1 + 7 * 2 ^ 17 + 3 * 2 ^ 25, shapeOf (recOf 6 0 0 [1] [0] [0])⟩,
    ok_some (by decide +kernel), by decide +kernel⟩, ?_,
    ⟨⟨1, spad, spad, 0, 65536, 1 + 7 * 2 ^ 17 + 3 * 2 ^ 25, shapeOf (recOf 6 0 9 [1] [0] [0])⟩,
    ok_some (by decide +kernel), by decide +kernel⟩, ⟨rfl, by decide +kernel, by decide +kernel⟩⟩
  · rintro m (rfl | rfl)
    · exact ⟨by decide, rfl, ok_some (by decide +kernel), ok_some (by decide +kernel), by decide +kernel, by decide +kernel, by decide +kernel,
      by decide +kernel, by decide +kernel, by decide +kernel⟩
    · exact ⟨by decide, rfl, ok_some (by decide +kernel), ok_some (by decide +kernel), by decide +kernel, by decide +kernel, by decide +kernel,
      by decide +kernel, by decide +kernel, by decide +kernel⟩
  · intro m hm
    rcases List.mem_cons.1 hm with rfl | hm
    · exact ⟨⟨2, spad, spad, 65536, 0, 0 + 7 * 2 ^ 17 + 3 * 2 ^ 25, shapeOf (recOf 6 0 0 [1] [0] [0])⟩, ok_some (by decide +kernel), by decide +kernel⟩
    rcases List.mem_singleton.1 hm with rfl
    exact ⟨⟨2, spad, spad, 65536, 0, 1 + 7 * 2 ^ 17 + 3 * 2 ^ 25, shapeOf (recOf 6 0 0 [1] [0] [0])⟩, ok_some (by decide +kernel), by decide +kernel⟩
/-- `calling`, with PUT c d, c1, r0, s4, s6 before C, its request on the way. -/
def putHere (base : Nat) (d : BitVec 4) (cap : Cap) : State :=
  let s := callingFrom rows24 base 0
  let en : Entry := ⟨BitVec.ofNat 32 (encode (.put d 1 0 0 4 6)), 0, 0, 0, 0, [], 0, [], none, false, true, false⟩
  { s with
    regs := { s.regs with c := [(1, cap), (3, mkCap 2 0x7F 0 4096)] }
    cc := { s.cc with cur := some en }
    cx := { s.cx with asked := true } }
/-- Data of a form of one byte for this core, of call 1 of group 7, and the request of it from another member. -/
def dataIn (form : Nat) : FabData := ⟨form, 7, 1, 3, spad, 0, 0, [(64, [9])], 0, 0, 0, [64], 0, 0, 0, 0⟩
def reqIn (form : Nat) (cap : Cap) : FabReq := ⟨form, 0, 0, 7, 1, 0, 1, cap, 64, 1, 3, 0⟩
/-- `calling`, with data held for it, and its call already issued. -/
def holding : State :=
  let s := calling 0
  { s with cx := { s.cx with calls := [(7, 1)] }, fab := { s.fab with held := [dataIn 0] } }
theorem hyp_FabricAnswers :
    ({ putHere 65536 1 spad with cx := { (putHere 65536 1 spad).cx with asked := false, arm := some (3, 0) } }).armReady = true ∧
    ((putHere 65536 1 spad).cx.asked = true ∧ (putHere 65536 1 spad).cx.granted = false) ∧
    ((∃ k g t, (putHere 65536 1 spad).ownGrant = some (k, .ok, g, t)) ∧ (∃ k g t, (putHere 65536 1 0).ownGrant = some (k, .bad 0x080, g, t)) ∧
     (∃ k g t, (putHere 0 3 spad).ownGrant = some (k, .park 0, g, t)) ∧ (putHere 0 3 spad).cx.parked = false ∧
     (putHere 0 3 spad).portFull 0 = false ∧ ({ (putHere 0 3 spad).cx with parked := true }).parked = true ∧
     ({ calling 1 with cx := { (calling 1).cx with asked := true } }).ownGrant = none) ∧
    ((putHere 65536 1 spad).run.phase = .off ∧ (putHere 65536 1 spad).trap.stop = none) ∧
    (let s := calling 0
     let e (r : FabReq) (s : State) := s.farCheck r.form r.group r.call r.target r.sender r.launch ((s.boundIn r.launch r.target).getD 0 / 8) r.cap r.lo
       r.len r.vi r.world
     e (reqIn 0 spad) s = .ok ∧ e (reqIn 0 0) s = .bad 0x080 ∧ e (reqIn 0 (mkCap 2 0x7F 0 4096)) s = .park 0 ∧ s.portFull 0 = false ∧
     ({ s with mem := { s.mem with parked := List.replicate 256 ⟨.load 0, 99, 64, 0⟩ } }).portFull 0 = true ∧
     (reqIn 0 spad).launch = s.ctl.launchNo ∧ s.localCore 0 = true ∧ s.localCore 1 = false ∧
     (let u := { s with fab := { s.fab with served := [{ reqIn 1 spad with sender := 2 }] } }
      ∃ x ∈ u.fab.served, x.form = 1 ∧ x.vi = 0 ∧ x.launch = 0 ∧ x.group = 7 ∧ x.call = 1 ∧ x.target = 0 ∧ x.sender ≠ 1)) ∧
    (∀ m ∈ [(0 : Nat), 1], let s := calling 0
     let x : Leaving := ⟨7, 0, { dataIn 0 with target := m }⟩
     x.at_ ≤ s.clk.tape ∧ s.waitingFor (.cmd x.cmd) = false ∧ x.data.elems = [(64, [9])] ∧ s.localCore x.data.target = decide (m = 0) ∧
     s.clk.tape < ({ x with at_ := 9 }).at_) ∧
    ((dataIn 0).form ≠ 2 ∧ (dataIn 2).form = 2 ∧ holding.hereCore (dataIn 2).launch (dataIn 2).sender = true ∧
     holding.hereCore (dataIn 2).launch 1 = false ∧
     holding.ownMatch = some (dataIn 0) ∧ isSpad (dataIn 0).cap = true ∧ (dataIn 0).elems = [(64, [9])]) ∧
    (let d := { dataIn 0 with target := 1 }
     let s := { calling 0 with fab := { (calling 0).fab with held := [d] } }
     s.ownMatch = none ∧ s.fab.held.find? (fun x => decide (x.launch ≠ s.ctl.launchNo ∨ x.target ≠ s.ctl.lcore)) = some d) ∧
    (let s := { calling 0 with cc := { (calling 0).cc with cmds := [formCmd 1] }, fab := { (calling 0).fab with sent := [{ dataIn 0 with target := 1 }] } }
     s.ownMatch = none ∧ (∀ x ∈ s.fab.held, x.launch = s.ctl.launchNo ∧ x.target = s.ctl.lcore) ∧ s.farCalls ≠ []) ∧
    (let s := holding
     let l : Landing := ⟨1, 0, true, dataIn 0⟩
     s.waitingFor (.fab l.id) = false ∧ l.at_ ≤ s.clk.tape ∧ l.out = true ∧ s.counterOf s.ctl.vi l.data.counter = some 3 ∧
     l.data.launch = s.ctl.launchNo ∧ l.data.sender = s.ctl.lcore) ∧
    (let d : FabData := { dataIn 1 with cap := mkCap 1 0x7F 0 4096, elems := [(64, List.replicate 8 1)] }
     let w : FabData := { d with form := 0, elems := [(0, List.replicate 8 1)] }
     let s := { calling 0 with cc := { (calling 0).cc with cmds := [formCmd 1] } }
     let u := { s with mem := { s.mem with bad := [4096 + 64] } }
     isSpad d.cap = false ∧ d.form = 1 ∧ (∀ e ∈ d.elems, s.badAt d.cap e.1 e.2.length = false) ∧ (s.fabElems d d.elems).2 = false ∧
     d.elems.find? (fun e => u.badAt d.cap e.1 e.2.length) = some (64, List.replicate 8 1) ∧ u.callCmd d = some (formCmd 1) ∧
     ((signed s 5).fabElems w w.elems).2 = true) := by
  refine ⟨by decide +kernel, by decide, ⟨⟨asked 0 spad spad 65536, 7, 0, by decide +kernel⟩, ⟨asked 0 0 0 65536, 7, 0, by decide +kernel⟩,
    ⟨asked 0 spad (mkCap 2 0x7F 0 4096) 0, 7, 0, by decide +kernel⟩, by decide, by decide, rfl, by decide +kernel⟩, by decide, by decide +kernel,
    by decide +kernel, by decide +kernel, by decide +kernel, by decide +kernel, by decide +kernel, by decide +kernel⟩
/-- A piece for cluster 0 with its bytes, or still without, on link 2; one that a run of group 7 awaits. -/
def pieceIn (red : Bool) (d : Option (List Byte)) : Piece := ⟨0, 0, 2, 0, red, 0, 2, 0, 64, d, false, 0, 0, 0, 7, none, [], [], 0⟩
/-- The small machine, in group 7, whose links are all alike in a loom of 8 by 8 by 8. -/
def linked (l : Link) : State :=
  { grouped [] with fab := { State.reset.fab with links := [(0, l), (1, l), (2, l), (3, l), (4, l), (5, l)], dims := 0x888 } }
theorem hyp_ReductionsAndPieces :
    (let n (x : Nat) : Int := (BitVec.ofNat 64 x).toInt
     let top : Int := 2 ^ 63 - 1
     let bot : Int := -(2 ^ 63)
     n (2 ^ 63 - 1) = top ∧ n (2 ^ 63) = bot ∧ (n 5 ≠ top ∧ n 5 ≠ bot ∧ bot < n 7 ∧ n 7 < top ∧ n 5 + n 7 ≤ top) ∧
     top < n (2 ^ 63 - 2) + n 5 ∧ n (2 ^ 63 + 1) + n (2 ^ 64 - 5) < bot ∧ n (2 ^ 63 + 1) ≠ bot ∧ bot < n (2 ^ 64 - 5)) ∧
    (let s := { grouped [] with fab := { State.reset.fab with pieces := [pieceIn false none] } }
     let u := { small [] with fab := { State.reset.fab with pieces := [pieceIn true (some [1, 2, 3, 4])] } }
     let p := pieceIn true (some [1, 2, 3, 4])
     (pieceIn false none).data = none ∧ (pieceIn false (some [1])).data = some [1] ∧ p.get = none ∧ p.red = true ∧
     ¬ (p.nominal + p.ease < s.clk.tape ∨ ∃ x ∈ s.fab.pieces, samePiece x p = true ∧ x.missed = true) ∧
     p.nominal + p.ease < ({ s with clk := { s.clk with tape := 1 } }).clk.tape ∧ samePiece p { p with missed := true } = true ∧
     ({ p with get := some (5, 1, 64, 96, [0]) }).get = some (5, 1, 64, 96, [0]) ∧ p.path = [] ∧ u.redDue = some (p, [1, 2, 3, 4]) ∧
     s.missing = some (pieceIn false none) ∧ (pieceIn false none).no = s.ctl.launchNo ∧ s.member (pieceIn false none).group = true ∧
     (small []).member 7 = false ∧ ({ pieceIn false none with no := 1 }).no ≠ s.ctl.launchNo) ∧
    (let s := { grouped [] with fab := { State.reset.fab with pieces := [pieceIn false none] } }
     let p := pieceIn true (some [1, 2, 3, 4])
     tget none s.grp.table (pieceIn false none).group = some pair ∧
     (let h : OtherHold := ⟨1, 7, [0], 0, pair.hold⟩
      h.launch = ({ pieceIn false none with no := 1 }).no ∧ h.group = (pieceIn false none).group ∧ h.hold.st = 0 ∧
      ({ h.hold with st := 1 }).st ≠ 0) ∧
     (let q : Piece := { p with nominal := 256, path := [1, 2] }
      q.path = 1 :: [2] ∧ ({ q with path := [2] }).around = 0 ∧ (s.link 1).st < 2 ∧ (s.link 1).wait = [] ∧
      s.clk.tape ≤ pieceCut { q with path := [2] })) := by
  refine ⟨?_, ?_, ?_⟩ <;> decide +kernel
/-- The small machine whose link 1 has failed and whose links 0 and 2 to 5 are UP, link 0 with one flit that is not acknowledged. -/
def failing : State :=
  let l := { Link.reset with buffer := [⟨0, 0, 0, ⟨.req (reqIn 0 0), 0, 0, none⟩⟩], nextSeq := 1 }
  { linked .reset with fab := { (linked .reset).fab with links := [(0, l), (1, { Link.reset with st := 3 })] } }
theorem hyp_LinkEvents :
    (let l := failing.link 0
     (l.nextSeq - 0).toNat ≤ l.buffer.length ∧ l.buffer.length < (l.nextSeq - 9).toNat ∧ l.st < 2 ∧ l.expect = 0 ∧ (9 : BitVec 12) ≠ l.expect ∧
     2 ≤ (failing.link 1).st ∧ (failing.link 1).st = 3) ∧
    (∀ ask ∈ [false, true], let how : Receipt := ⟨true, false, 0, ask⟩
     let l := failing.link 0
     l.passes how = true ∧ how.request = ask ∧ ((l.ack 1).buffer = [] ∧ (l.ack 0).buffer ≠ []) ∧
     l.passes { how with intact := false } = false ∧ l.passes { how with key := 9 } = false ∧
     ({ l with rxEpoch := 1, rxKey := 3, rxOld := some (0, 0) }).passes how = true ∧ (failing.link 1).passes how = true) ∧
    (let x : SentFlit := ⟨0, 0, 0, ⟨.req (reqIn 0 0), 0, 0, none⟩⟩
     let l : Link := { Link.reset with st := 1, buffer := [x], nextSeq := 1, txBlock := some (x.epoch, x.no / 16), txFails := 2 }
     l.st = 1 ∧ (l.ack 0).buffer = [x] ∧ (l.ack 0).txBlock = some (x.epoch, x.no / 16) ∧ 3 ≤ (l.ack 0).txFails + 1 ∧ l.again = [] ∧
     ({ l with again := [x] }).again ≠ []) ∧
    (let l := (linked { Link.reset with st := 1, fails := 1 }).link 0
     l.st = 1 ∧ l.fails < 2) ∧
    2 ≤ ((linked { Link.reset with st := 1, fails := 2 }).link 0).fails ∧ (linked { Link.reset with st := 2 }).link 5 = { Link.reset with st := 2 } ∧
    (let l := { Link.reset with st := 2, retrainAt := 0 }
     ({ linked l with clk := { State.reset.clk with tape := 25000 } }).slowLink = some 0) ∧
    (let s := { linked { Link.reset with valid := true } with clk := { State.reset.clk with loaded := true } }
     (s.link 0).st ≠ 4 ∧ s.clk.loaded = true ∧ (s.setLink 0 { s.link 0 with st := 3, upAt := none, disabled := true, again := [] }).inStep = true) ∧
    ((linked { Link.reset with st := 4 }).link 5).st = 4 ∧ (linked { Link.reset with st := 0, txNew := some (1, 1) }).keyDue = some 0 ∧
    (let l := (linked { Link.reset with txNew := some (1, 1), rxNew := some (2, 1) }).link 3
     l.txNew = some (1, 1) ∧ l.txOld = none ∧ l.rxNew = some (2, 1) ∧ l.txNo % 16 = 0 ∧ l.rxNo % 16 = 0) ∧
    (let l := { Link.reset with txNo := 1, rxNo := 1 }
     l.txNo % 16 ≠ 0 ∧ l.rxNo % 16 ≠ 0) := by decide +kernel
/-- A visit at word pc with this stack and hop budget, of tenant 0. -/
def visiting (pc : Nat) (st : List W64) (budget clones : Nat) : Visit :=
  ⟨3, { shuttleOf [] with pc := pc, stack := st, budget := budget, dlvOff := 64 }, 0, 0, 0, clones, 0, none⟩
/-- The small machine with that visit, permissions p for its tenant, windows on cluster SRAM, an object and one that is held, and 16
delivery counters. -/
def touring (p : W64) (v : Visit) : State :=
  let s := small []
  { s with
    sh := { s.sh with
      eng := [v], perm := [(0, p)], winCtl := [(0, 1), (2, 1), (3, 1)]
      winCap := [(0, spad), (1, spad), (2, mkCap 1 0x7F 0 4096), (3, mkCap 2 0x7F 0 4096)] }
    fab := { s.fab with dcPart := [(0, 0x10000)], dims := 0x888 } }
theorem hyp_ShuttleStack :
    (∀ v ∈ [visiting 0 [] 1 0, visiting 14 [1] 1 0, visiting 0 [1, 2, 3] 1 0, visiting 0 [1, 2] 1 0, visiting 14 [1, 2, 3, 4] 1 0,
      visiting 15 [] 1 0, visiting 15 [1] 1 0, visiting 15 [1, 2] 1 0], (touring 0 v).visit = some v) ∧
    ((visiting 0 [] 1 0).sh.pc < 15 ∧ ([] : List W64).length ≤ 3 ∧ (visiting 0 [] 1 0).sh.pc + 14 < 15) ∧
    ((visiting 14 [1] 1 0).sh.stack = [] ++ [1] ∧ (visiting 14 [1] 1 0).sh.pc + 0 < 15) ∧
    ((visiting 0 [1, 2, 3] 1 0).sh.stack = [1] ++ [2, 3]) ∧ ((visiting 14 [1, 2, 3, 4] 1 0).sh.stack.length = 4) ∧
    (15 ≤ (visiting 15 [] 1 0).sh.pc ∧ (visiting 15 [] 1 0).sh.stack = [] ∧ (visiting 14 [1] 1 0).sh.stack.length < 2) ∧
    ((visiting 15 [1] 1 0).sh.stack = [] ++ [1] ∧ (visiting 15 [1, 2] 1 0).sh.stack = [] ++ [1, 2] ∧ 15 ≤ (visiting 14 [1] 1 0).sh.pc + 1 ∧
     (1 : W64) ≠ 0) := by decide +kernel
theorem hyp_ShuttleEffects :
    (∀ v ∈ [visiting 0 [] 1 0, visiting 0 [3] 1 0, visiting 0 [64, 2] 1 0, visiting 0 [] 0 4, visiting 0 [] 0 0],
      let s := touring 0xFFF v
      s.visit = some v ∧ v.sh.pc < 15 ∧ (∀ b ∈ [(1 : Nat), 7, 8, 9, 10, 11], s.shPerm v.sh.tenant.toNat / 2 ^ b % 2 = 1) ∧
      s.counterOf 0 3 = some 3 ∧ s.counterOf 0 16 = none ∧ s.winCtl 0 0 % 2 = 1 ∧ s.winCtl 0 1 % 2 = 0 ∧ (64 : Nat) % 8 = 0 ∧
      s.winCheckAt 0 spad 1 64 8 1 = .ok ∧ s.winCheckAt 0 spad 1 64 8 7 = .ok ∧ s.winCap 0 0 = spad ∧ s.winCtl 0 0 = 1 ∧
      (s.link 5).st ≠ 4 ∧ v.sh.dir ≤ 5 ∧ s.counterOf 0 v.sh.dlvCtr = some 0 ∧
      s.winCheckAt 0 (s.winCap 0 v.sh.dlvWin) (s.winCtl 0 v.sh.dlvWin) v.sh.dlvOff.toNat (32 + 64 * v.sh.flits) 2 = .ok ∧
      s.isParked (.visit v.id) = false ∧ v.acc = none) ∧
    (let s := touring 0xFFF (visiting 0 [] 1 0)
     isSpad (s.winCap 0 0) = true ∧ isSpad (s.winCap 0 2) = false ∧
      s.winCheckAt 0 (s.winCap 0 2) 1 64 8 7 = .ok ∧ s.winCheckAt 0 (s.winCap 0 3) 1 64 8 7 = .park 0 ∧
      s.winCheckAt 0 (s.winCap 0 2) 1 4096 8 1 = .bad 0x081 ∧ s.portFull 0 = false) ∧
    (let v := { visiting 0 [64, 2] 1 0 with acc := some ⟨2, 64, 8, 1, 1, 0, 0, 0, 0⟩ }
     let w := { visiting 0 [64, 2] 1 0 with acc := some ⟨0, 64, 8, 1, 2, 0, spad, 1, 0⟩ }
     let z := { visiting 0 [64, 2] 1 0 with acc := some ⟨3, 64, 8, 1, 0, 0, mkCap 2 0x7F 0 4096, 1, 0⟩ }
     let busy := { touring 0xFFF w with sram := { (touring 0xFFF w).sram with queue := [⟨128, 64, .read 0 0 8, .visit w.id, none⟩] } }
     let late := { touring 0xFFF z with mem := { (touring 0xFFF z).mem with parked := [⟨.visit z.id, 99, 64, 0⟩] } }
     (touring 0xFFF v).visit = some v ∧ 0 ≤ (touring 0xFFF v).clk.tape ∧ (touring 0xFFF w).visit = some w ∧
     (touring 0xFFF w).waitingFor (.visit w.id) = false ∧ busy.visit = some w ∧ busy.waitingFor (.visit w.id) = true ∧
     (touring 0xFFF z).visit = some z ∧ (touring 0xFFF z).isParked (.visit z.id) = false ∧ late.visit = some z ∧
     late.isParked (.visit z.id) = true ∧ (touring 0xFFF v).clk.tape < 9) ∧
    (let s := touring 0xFFF (visiting 0 [64, 2] 1 0)
     let y : BOwner × Nat × Nat × List Byte := (.visit 3, 0, 0, [1])
     ({ s.sram with got := [y] }).got.find? (fun g => g.1 = BOwner.visit 3) = some y ∧
     s.sram.got.find? (fun g => g.1 = BOwner.visit 3) = none ∧ 2 ≤ ({ Link.reset with st := 2 }).st) ∧
    ((visiting 0 [] 0 4).clones = 4 ∧ (visiting 0 [] 0 0).sh.budget = 0 ∧ 0 < (visiting 0 [] 1 0).sh.budget ∧ (4096 : Nat) ≤ 4096 ∧ 5 < 6 ∧
     ((touring 0xFFF (visiting 0 [] 1 0)).fab.dims = 0x888 ∧
      (({ touring 0xFFF (visiting 0 [] 1 0) with fab := { (touring 0 (visiting 0 [] 1 0)).fab with dims := 0x881 } } : State).link 0).st = 4)) ∧
    (¬ ((touring 0 (visiting 0 [] 1 0)).shPerm 0 / 2 ^ 9 % 2 = 1) ∧ ¬ ((touring 0 (visiting 0 [] 1 0)).shPerm 0 / 2 ^ (1 + 0) % 2 = 1)) := by
  refine ⟨?_, ?_, ?_, ?_, ?_, ?_⟩ <;> decide +kernel
/-- The touring machine with a shuttle image of budget n at 0 of cluster SRAM. -/
def imaged (n : Byte) : State :=
  let s := touring 0x100FFF (visiting 0 [] 1 0)
  { s with sram := { s.sram with bytes := if n = 0 then [] else [(3, n)] } }
theorem hyp_ShuttleTraffic :
    (let s := imaged 1
     let u := { s with sram := { s.sram with got := [(.pre, 0, 0, s.spadRead 0 128)] } }
     let w := { imaged 0 with sram := { (imaged 0).sram with got := [(.pre, 0, 0, (imaged 0).spadRead 0 128)] } }
     clear s [.c 1, .s 4, .s 5] = true ∧ accCheck s (s.creg 1) 1 0 128 = .ok ∧ s.preHas 0 128 = false ∧ s.partStop (s.creg 1) 0 128 = none ∧
     accCheck s (s.creg 4) 1 0 128 = .bad 0x080 ∧ isSpad (s.creg 4) = false ∧ s.waitingFor .pre = false ∧
     ({ s with sram := { s.sram with queue := s.rowReads 1 .pre [(0, 0, 128)] } }).waitingFor .pre = true ∧
     accCheck s (s.creg 2) 1 0 128 = .ok ∧
     ({ s with mem := { s.mem with bad := [4096] } }).partStop (s.creg 2) 0 128 = some (.code 0x08D (s.creg 2) 0) ∧
     u.preHas 0 128 = true ∧ u.waitingFor .pre = false ∧ u.imageOk (u.preGot 0 128) 0 = true ∧ w.preHas 0 128 = true ∧
     w.imageOk (w.preGot 0 128) 0 = false ∧ 4 < 5 ∧ (s.link 0).st < 2) ∧
    (let s := { touring 1 (visiting 0 [] 1 0) with sh := { (touring 1 (visiting 0 [] 1 0)).sh with eng := [], buffer := [(2, shuttleOf [])] } }
     s.illVisit = none ∧ s.granted = some (2, shuttleOf []) ∧ bitsOf (s.shPerm (shuttleOf []).tenant.toNat) 0 1 = 1) ∧
    (let v := { visiting 0 [] 1 0 with sh := { shuttleOf [] with code := [0xFFFF] } }
     (touring 0 v).illVisit = some v) ∧
    ((∃ l : List ParkRec, 256 ≤ l.length) ∧ ¬ (256 ≤ (imaged 1).sh.parks.length ∨
      16 ≤ ((imaged 1).sh.parks.filter (fun p => p.tenant = 0)).length)) := by
  refine ⟨by decide +kernel, by decide +kernel, by decide +kernel, ⟨⟨List.replicate 256 ⟨0, 0, 0, 0, 0, shuttleOf [], 0, 0⟩, by decide +kernel⟩, by decide +kernel⟩⟩
/-- The machine whose chain engine V, in state TAIL, stands before this entry at 0 of its window in cluster SRAM. -/
def before (loops : List (Nat × Nat)) (w : List Nat) : State :=
  let s := small []
  { s with
    actor := .v
    cv := { tailChain with t := 4, loops := loops }
    sram := { s.sram with bytes := mwriteN [] 0 (w.flatMap (leBytes 4)) } }
theorem hyp_ChainEvents :
    (∀ l ∈ [[], [(0, 2)], [(0, 1)]], (before l [0x00020001, 0, 0, 0x10000000]).decodes .v = true ∧
      ∃ r, (before l [0x00020001, 0, 0, 0x10000000]).peek .v = .ok r ∧ r.kind = 1 ∧ 1 < r.w0 / 2 ^ 16 ∧
        (l = [] → ∀ m, l.head? ≠ some (r.seq, m))) ∧
    (∃ r, (before [] [0x00010001, 0, 0, 0x10000000]).peek .v = .ok r ∧ r.kind = 1 ∧ r.w0 / 2 ^ 16 = 1) ∧
    (∃ r, (before [] [0xD4800000, 0, 9, 0]).peek .v = .ok r ∧ r.kind = 0) ∧
    (∃ r, (before [] [32, 0, 0, 0x30000000]).peek .v = .ok r ∧ r.kind = 3) ∧
    (∃ r, (before [] [0, 0, 0, 0x40000000]).peek .v = .ok r ∧ r.kind = 4) ∧
    (∃ k a, let s := before [] [0, 0, 0, 0x50000000]
      s.peek .v = .error k ∧ s.winAddr (s.chain .v).win (s.chain .v).pos 16 = .ok a) ∧
    (∃ k, let s := { before [] [] with cv := { tailChain with t := 256, pos := 256 } }
      s.peek .v = .error k ∧ s.winAddr (s.chain .v).win (s.chain .v).pos 16 = .error k) ∧
    (let en : Entry := ⟨8, 0, 9, 0, 0, [], 0, [(5, 1)], some true, false, true, false⟩
     let s := { before [] [] with cv := { tailChain with cur := some en }, cmp := [(5, 1)] }
     Engine.v ≠ .s ∧ (s.chain .v).cur = some en ∧ (∀ n ∈ en.needs, (tget 0 s.cmp n.1 - n.2).toNat < 2 ^ 31) ∧
     (∃ b, s.winRead (s.chain .v).win 8 4 = .ok b) ∧ ∃ k, s.winRead (s.chain .v).win 256 4 = .error k) ∧
    (let x : Cmd := ⟨7, 0, 0, [], 0, 0, 0, 0, none, [], false, [], none, false, 0, 0, false, none, 0, none, 0, 0, 8, false⟩
     let s := { small [] with clk := { State.reset.clk with tape := 1 }, cc := { tailChain with cmds := [x] } }
     [Engine.v, .m, .c].find? (fun e => (s.overCmd e).isSome || (s.overEntry e).isSome) = some .c ∧ s.run.phase = .off ∧
     s.trap.stop = none ∧ s.overCmd .c = some x ∧ x.writes = []) ∧
    (let en : Entry := ⟨8, 0, 0, 0, 0, [], 0, [], none, false, true, false⟩
     let s := { small [] with clk := { State.reset.clk with tape := 1 }, cc := { tailChain with cur := some en } }
     s.overCmd .c = none ∧ s.overEntry .c = some en) := by
  refine ⟨?_, ⟨_, ok_some (a := ⟨0x00010001, 0, 0, 0x10000000⟩) (by decide +kernel), rfl, rfl⟩,
    ⟨_, ok_some (a := ⟨0xD4800000, 0, 9, 0⟩) (by decide +kernel), rfl⟩, ⟨_, ok_some (a := ⟨32, 0, 0, 0x30000000⟩) (by decide +kernel), rfl⟩,
    ⟨_, ok_some (a := ⟨0, 0, 0, 0x40000000⟩) (by decide +kernel), rfl⟩, ⟨0x47, 0, error_of (by decide +kernel), ok_some (by decide +kernel)⟩,
    ⟨0x0CA, error_of (by decide +kernel), error_of (by decide +kernel)⟩,
    ⟨by decide, by decide, by decide, ⟨_, ok_some (a := [0, 0, 0, 0]) (by decide +kernel)⟩, ⟨0x0CA, error_of (by decide +kernel)⟩⟩,
    by decide +kernel, by decide +kernel⟩
  intro l hl
  have hd : ∀ l ∈ [[], [(0, 2)], [(0, 1)]], (before l [0x00020001, 0, 0, 0x10000000]).decodes .v = true := by decide +kernel
  refine ⟨hd l hl, ⟨0x00020001, 0, 0, 0x10000000⟩, ok_some ?_, rfl, by decide, ?_⟩
  · have h : ∀ l ∈ [[], [(0, 2)], [(0, 1)]], ((before l [0x00020001, 0, 0, 0x10000000]).peek .v).toOption =
        some ⟨0x00020001, 0, 0, 0x10000000⟩ := by decide +kernel
    exact h l hl
  · rintro rfl m
    simp
/-- The small machine with an access parked whose retry is due; a load, a store and a blocking form through this capability. -/
def parking (who : ParkWho) (k : Cap) : State :=
  let s := touring 0xFFF { visiting 0 [] 1 0 with acc := some ⟨3, 64, 8, 1, 0, 0, k, 1, 0⟩ }
  let ld : LoadRec := ⟨3, 5, 8, true, .obj 1 0, 1, k, 0, 0, 0, none, none, true⟩
  let st : StoreRec := ⟨3, .obj 1 0, List.replicate 8 0, 1, 2, k, 0, false, false, true, 0, 0, none, true⟩
  { s with
    mem := { s.mem with parked := [⟨who, 0, 4, 0⟩] }
    sx := { s.sx with loads := [ld], stores := [st], blk := some { blkAt 0 k 0 false false with parked := true } } }
theorem hyp_MemoryEvents :
    ((small []).mem.inv = none ∧ (some (0, 0) : Option (Nat × Nat)) ≠ none) ∧
    ({ small [] with mem := { (small []).mem with inv := some (2, 0) } }).mem.inv = some (2, 0) ∧ 2 < 3 ∧
    (∀ who ∈ [ParkWho.load 3, .store 3, .blk, .visit 3, .ask], ∀ k ∈ [(2 : Nat), 3, 4], let s := parking who ((small []).creg k)
     s.mem.parked.find? (fun x => x.retryAt ≤ s.clk.tape) = some ⟨who, 0, 4, 0⟩) ∧
    (∀ k ∈ [(2 : Nat), 3, 4], let s := parking .blk ((small []).creg k)
     let c := if k = 2 then Chk.ok else if k = 3 then .park 0 else .bad 0x083
     (∃ l, s.sx.loads.find? (fun x => x.seq = 3) = some l ∧ s.checkObj l.cap l.off l.size s.ctl.vi s.ctl.world = c) ∧
     (∃ r, s.sx.stores.filter (fun x => x.seq = 3) = [r] ∧ s.checkObj r.cap r.off r.bytes.length s.ctl.vi s.ctl.world = c) ∧
     (∃ x, s.sx.blk = some x ∧ s.checkObj x.cap x.a.toNat x.n s.ctl.vi s.ctl.world = c)) ∧
    (∀ k ∈ [(3 : Nat), 4], let s := parking (.visit 3) ((small []).creg k)
     ∃ v a, s.sh.eng.find? (fun x => x.id = 3) = some v ∧ v.acc = some a ∧
       s.winCheckAt v.sh.tenant.toNat a.cap a.ctl a.o a.n a.need = if k = 3 then .park 0 else .bad 0x080) ∧
    (∀ k ∈ [(1 : Nat), 3, 4], let s := calling 0
     let r := reqIn 0 (if k = 1 then spad else if k = 3 then mkCap 2 0x7F 0 4096 else 0)
     let u : State := { s with mem := { s.mem with parked := [⟨.req r, 0, 4, 0⟩] } }
     u.mem.parked.find? (fun x => x.retryAt ≤ s.clk.tape) = some ⟨.req r, 0, 4, 0⟩ ∧
     s.reqCheck r = if k = 1 then .ok else if k = 3 then .park 0 else .bad 0x080) ∧
    (∀ base ∈ [(0 : Nat), 4096], let s := { putHere base 3 spad with mem := { (putHere base 3 spad).mem with parked := [⟨.ask, 0, 4, 0⟩] } }
     s.mem.parked.find? (fun x => x.retryAt ≤ s.clk.tape) = some ⟨.ask, 0, 4, 0⟩ ∧ s.ownGrant.map (fun x => x.2.1) = some (if base = 0 then Chk.park 0 else .bad 0x081)) ∧
    (let l : CombLine := ⟨.sram 64, 0, 1, [(64, 1)], spad, 0, 4⟩
     let s := { small [] with clk := { State.reset.clk with tape := 4096 }, sx := { SIssue.reset with comb := [l] } }
     s.oldLine = some l ∧ l.dest = .sram 64) := by
  refine ⟨by decide, rfl, by decide, by decide +kernel, ?_, ?_, by decide +kernel, by decide +kernel, by decide +kernel⟩
  · intro k hk
    rcases List.mem_cons.1 hk with rfl | hk
    · exact ⟨⟨_, rfl, by decide +kernel⟩, ⟨_, rfl, by decide +kernel⟩, _, rfl, by decide +kernel⟩
    rcases List.mem_cons.1 hk with rfl | hk
    · exact ⟨⟨_, rfl, by decide +kernel⟩, ⟨_, rfl, by decide +kernel⟩, _, rfl, by decide +kernel⟩
    rcases List.mem_singleton.1 hk with rfl
    exact ⟨⟨_, rfl, by decide +kernel⟩, ⟨_, rfl, by decide +kernel⟩, _, rfl, by decide +kernel⟩
  · intro k hk
    rcases List.mem_cons.1 hk with rfl | hk
    · exact ⟨_, _, rfl, rfl, by decide +kernel⟩
    rcases List.mem_singleton.1 hk with rfl
    exact ⟨_, _, rfl, rfl, by decide +kernel⟩
/-- A run of group 7 that is issued and not begun, at cycle n, of a core that is on. -/
def leading (n : Nat) : State :=
  let s := grouped []
  { s with
    clk := { s.clk with tape := n, aligned := true }
    sx := { s.sx with hold := .run, on := true }
    run := { Run.reset with phase := .lead, t0 := 256, len := 64, group := 7, issued := 0 } }
/-- So, with link 5 failed, whose slots a run uses, and with a failover pattern that uses it too or not. -/
def lostLink (n : Nat) (too : Bool) : State :=
  let s := leading n
  { s with fab := { s.fab with
      links := [(5, { Link.reset with st := 2 })], pattern := [(5, [(9, 1)])], failRoutes := some []
      failPattern := if too then [(5, [(8, 1)])] else [] } }
/-- So, with its group's hold PENDING or HELD. -/
def heldAt (st : Nat) : State :=
  { leading 256 with grp := { (leading 256).grp with table := [(7, some { pair with hold := { pair.hold with st := st } })] } }
/-- The restart record of a machine, of group 7. -/
def restarts : Restart :=
  let s := small [(4, 1)]
  ⟨7, s.regs, s.ctl, [], [], [], none, [], [], [], .reset, .reset, .reset, .reset, 2, 0⟩
theorem hyp_RunEvents :
    (let s := leading 256
     s.run.phase = .lead ∧ s.sx.hold = .run ∧ s.run.abort = none ∧ s.run.fail = none ∧ ¬ (s.run.t0 < s.run.issued + s.run.lead_) ∧
     s.run.t0 ≤ s.clk.tape ∧ s.cv.flying + s.cm.flying + s.cc.flying = 0 ∧ (∀ k, k < 6 → ¬ 2 ≤ (s.link k).st) ∧ s.clk.aligned = true ∧
     s.run.slots = false ∧ (leading 255).clk.tape < (leading 255).run.t0 ∧ ({ s.clk with aligned := false }).aligned = false ∧
     ({ tailChain with cmds := [formCmd 1] }).flying ≠ 0 ∧ s.grp.failover = false ∧ s.fab.failRoutes = none) ∧
    (let s := { leading 256 with run := { (leading 256).run with issued := 300 } }
     s.run.t0 < s.run.issued + s.run.lead_) ∧
    (∀ too ∈ [true, false], let s := lostLink 256 too
     2 ≤ (s.link 5).st ∧ (∃ x ∈ tget [] s.fab.pattern 5, x.2 = 1) ∧ s.grp.failover = false ∧ s.fab.failRoutes.isSome = true ∧
     ((∃ x ∈ tget [] s.fab.failPattern 5, x.2 = 1) ↔ too = true) ∧ (∀ k, k < 5 → tget [] s.fab.failPattern k = [])) ∧
    (let s := { leading 256 with
        run := { (leading 256).run with slots := true }, grp := { (leading 256).grp with table := [(7, some { pair with grain := 16 })] } }
     s.run.slots = true ∧ ∃ x, s.group s.run.group = some x ∧ x.grain ≠ 256) ∧
    (∀ h ∈ [(0 : Nat), 1], let s := { leading 320 with
        run := { (leading 320).run with phase := .running }
        grp := { State.reset.grp with table := [(7, some { pair with hold := { pair.hold with st := h, q := 0 } })] } }
     s.run.phase = .running ∧ s.run.t0 + s.run.len ≤ s.clk.tape ∧ ∃ x, s.group s.run.group = some x ∧
       (h = 1 → x.hold.st ≠ 0 ∧ x.hold.q + x.span + 8 ≤ s.clk.tape) ∧ (h = 0 → ¬ (x.hold.st ≠ 0 ∧ x.hold.q + x.span + 8 ≤ s.clk.tape))) ∧
    ((leading 256).run.abort = none ∧ (leading 256).member 7 = true ∧ (leading 256).sx.on = true ∧ (leading 256).member 8 = false ∧
     (small []).sx.on = false ∧ (leading 256).runFail = none ∧
     (¬ ∃ x, (leading 256).group 7 = some x ∧ x.hold.st ≠ 0) ∧
     (∃ x, (heldAt 1).group 7 = some x ∧ x.hold.st ≠ 0) ∧
     (let f : FaultRec := ⟨300, 0x280, 0x284, 4, 0, 0, 0, true, false⟩
      let s := { leading 400 with run := { (leading 400).run with abort := some ⟨300, 7, f, 0x281⟩ } }
      s.member 7 = true ∧ s.sx.on = true ∧ ∃ a, s.run.abort = some a ∧ a.at_ ≠ s.clk.tape)) ∧
    (let s := { leading 400 with run := { (leading 400).run with fail := some ⟨400, 0x281, 0, 5, 0, 0, 0, true, false⟩ } }
     0 = s.ctl.lcore ∧ s.run.phase ≠ .off ∧ s.run.group = 7 ∧ s.run.abort = none ∧ s.runFail = some ⟨400, 0x281, 0, 5, 0, 0, 0, true, false⟩) ∧
    (let f : FaultRec := ⟨300, 0x280, 0x284, 4, 0, 0, 0, true, false⟩
     let s := { leading 400 with run := { (leading 400).run with abort := some ⟨300, 7, f, 0x281⟩ } }
     s.run.abort = some ⟨300, 7, f, 0x281⟩ ∧ s.sx.on = true ∧ s.trap.stop = none ∧ s.trap.save = none ∧ 300 + s.spanAt 7 + 8 ≤ s.clk.tape) ∧
    (let s := { leading 400 with grp := { (grouped []).grp with waitRestart := some (7, 0x282), restart := [(7, some restarts)] } }
     s.grp.waitRestart = some (7, 0x282) ∧ tget none s.grp.restart 7 = some restarts ∧ restarts.uses < 3 ∧ s.clk.aligned = true ∧
     0x282 ≠ 0x100 ∧ ({ s.grp with failover := true }).failover = true) ∧
    (let s := { heldAt 2 with
        grp := { (heldAt 2).grp with restart := [(7, some restarts)] }, fab := { (heldAt 2).fab with failRoutes := some [] } }
     s.grp.waitRestart = none ∧ (∃ x, s.group 7 = some x ∧ x.hold.st = 2 ∧ s.ctl.lcore ∈ x.members ∧ 0 < x.grain) ∧
     tget none s.grp.restart 7 = some restarts ∧ s.fab.failRoutes.isSome = true) := by
  refine ⟨by decide +kernel, by decide, by decide +kernel, ⟨rfl, _, rfl, by decide⟩, ?_, ⟨by decide, by decide, by decide, by decide, by decide,
    by decide, ?_, ⟨_, rfl, by decide⟩, by decide, by decide, _, rfl, by decide⟩, by decide, by decide +kernel, by decide +kernel,
    ⟨rfl, ⟨_, rfl, by decide, by decide, by decide⟩, rfl, rfl⟩⟩
  rotate_left
  · rintro ⟨x, hx, h⟩
    cases hx
    exact h rfl
  intro h hh
  rcases List.mem_cons.1 hh with rfl | hh
  · exact ⟨rfl, by decide, _, rfl, by decide, by decide⟩
  rcases List.mem_singleton.1 hh with rfl
  exact ⟨rfl, by decide, _, rfl, by decide, by decide⟩
/-- A launch record (R377) of one core, with its code object as object 1 and its tables behind the header. -/
def recordBytes (id : Nat) : List Byte :=
  leBytes 4 0x584C4B34 ++ leBytes 2 1 ++ leBytes 4 0 ++ leBytes 2 0x0202 ++ leBytes 4 0 ++ leBytes 8 id ++ leBytes 4 1 ++ leBytes 4 0 ++
  leBytes 2 1 ++ leBytes 8 0 ++ leBytes 6 0 ++ leBytes 16 (mkCap 1 0x09 0 4096).toNat ++ leBytes 16 (mkCap 1 0x01 0 4096).toNat ++
  leBytes 16 (mkCap 1 0x01 0 4096).toNat ++ leBytes 24 0 ++ leBytes 4 64 ++ leBytes 2 1 ++ leBytes 2 0 ++ leBytes 8 0 ++ leBytes 32 0 ++
  leBytes 16 (mkCap 2 0x03 0 327680).toNat ++ leBytes 72 0
/-- A launch of that record in a state, with a number. -/
def launchOf (st no scrub : Nat) (leases : List (Nat × Nat × Bool)) : Launch :=
  ⟨0, 5, 9, st, no, 0, recordBytes 5, 0, leases, [], [], 0, [], [], 0, false, [], false, scrub, [], 0⟩
/-- A launch that waits for these launches. -/
def waiting (d : List W64) : Launch := { launchOf 0 0 0 [] with depends := d }
/-- The small machine with interface 0 in RUN, a code object with its panel map, a save area, and these launches. -/
def hosting (ls : List Launch) : State :=
  let s := small []
  let e : ObjEntry := { page false 8192 with size := 327680 }
  let t := { s with
    mem := { s.mem with obj := [(1, some (page false 4096)), (2, some e)], port := [(1, some (page false 4096)), (2, some e)] }
    fw := { s.fw with launches := ls, bind := [(0, 1)], bindSt := [(0, 1)] }
    tr := { s.tr with vis := [(0, { Vi.reset with st := 3 })], worlds := [(5, 0, 0)] } }
  { t with mem := (([0, 16, 32, 48, 64].foldl (fun u o => u.ownBlock 1 o) t).objWrite 1 0
    (leBytes 4 0x43344B58 ++ leBytes 2 1 ++ leBytes 58 0 ++ leBytes 2 0 ++ leBytes 2 1 ++ leBytes 4 0)).mem }
/-- The hosting machine with a launch 1, not the core's, whose group 0 has a member here and a pending hold past its notice. -/
def elsewhere : State :=
  let r := recordBytes 5
  let l : Launch := { launchOf 3 1 0 [] with
    record := r.take 34 ++ leBytes 2 1 ++ (r.drop 36).take 60 ++ leBytes 4 128 ++ r.drop 100 }
  let s := hosting [l]
  { s with
    mem := (([128, 144, 160].foldl (fun u o => u.ownBlock 1 o) s).objWrite 1 128 (leBytes 4 160 ++ leBytes 4 1 ++ leBytes 24 0 ++ leBytes 4 0)).mem
    fw := { s.fw with holds := [⟨1, 0, [0], 0, ⟨1, 0, false, false, 0, false⟩⟩] }
    clk := { s.clk with tape := 9 } }
/-- Group 7 whose last arrival was counted, which is to release at cycle 256, with a hold requested in cycle 0 that stands, or is lifted
in cycle l. -/
def metGroup (h l : Nat) : Group :=
  { pair with arrived := [(0, 1), (1, 1)], met := some 100, releaseAt := 256, hold := { pair.hold with st := h, q := 0, lift := l } }
/-- The machine whose group is so at cycle 256, and whose S waits at its seam. -/
def releasing (h l : Nat) : State :=
  let s := grouped []
  { s with
    clk := { s.clk with tape := 256 }
    sx := { s.sx with hold := .seam 7 0 0 true none }
    grp := { s.grp with table := [(7, some (metGroup h l))] } }
theorem one_joined (h l : Nat) : ∀ p ∈ (releasing h l).grp.table, ∀ y, p.2 = some y → y.joined = none := by
  intro p hp y hy
  rcases List.mem_singleton.1 hp with rfl
  cases hy
  rfl
theorem hyp_SeamEvents :
    ((grouped []).group 7 = some pair ∧ pair.joined = none ∧ (0 : Nat) ∈ pair.members ∧ tget 0 pair.arrived 0 ≤ pair.released ∧
     (∀ n ∈ pair.members, pair.released < tget 0 (tset 0 pair.arrived 0 (pair.released + 1)) n ∨ n ∈ pair.exited) ∧ pair.met = none ∧
     0 < pair.grain ∧ (7 : Nat) ∈ State.upward 3 (grouped []) 7 ∧ (8 : Nat) ∉ State.upward 3 (grouped []) 7 ∧
     ({ pair with met := some 1 }).met ≠ none) ∧
    (5 ∉ pair.members ∧ pair.released < tget 0 pair.arrived 1) ∧
    ((releasing 0 0).releaseDue = some 7 ∧ (releasing 0 0).group 7 = some (metGroup 0 0) ∧ (metGroup 0 0).fixed = false ∧
     (releasing 0 0).withholds 7 256 = false ∧
     (∀ p ∈ (releasing 0 0).grp.table, ∀ y, p.2 = some y → y.joined = none) ∧
     (releasing 0 0).sx.hold = .seam 7 0 0 true none ∧ (releasing 0 0).run.phase ≠ .running ∧ (grouped []).grp.detGroup = none) ∧
    ((releasing 1 0).releaseDue = some 7 ∧ (releasing 1 0).withholds 7 256 = true ∧ (∃ h ∈ (releasing 1 0).holders 7 256, h.hold.st ≠ 0) ∧
     (releasing 0 300).releaseDue = some 7 ∧ (releasing 0 300).withholds 7 256 = true ∧ (∀ h ∈ (releasing 0 300).holders 7 256, h.hold.st = 0)) ∧
    (let s := { releasing 0 0 with sx := { (releasing 0 0).sx with hold := .seam 7 0 0 false (some (0, 64)) } }
     s.sx.hold = .seam 7 0 0 false (some (0, 64))) ∧
    ((grouped []).holdNames (grouped []).ctl.launchNo 7 = true ∧ (grouped []).holdNames 0 8 = false ∧ pair.here = true ∧ pair.hold.st = 0 ∧
     (∀ p ∈ (grouped []).grp.table, ∀ y, p.2 = some y → y.withheld = false) ∧
     (grouped []).heldSaved (grouped []).ctl.launchNo = false ∧
     ({ grouped [] with ctl := { (grouped []).ctl with launchNo := 1 }, fw := { State.reset.fw with launches := [launchOf 5 1 0 []] } }).heldSaved 1 = true) ∧
    (let s := elsewhere
     (1 : Nat) ≠ s.ctl.launchNo ∧ s.holdNames 1 0 = true ∧ s.heldSaved 1 = false ∧
     (∃ h ∈ s.fw.holds, h.launch = 1 ∧ h.group = 0 ∧ h.hold.st = 1 ∧ h.hold.noticed = false ∧ h.hold.q + h.notice < s.clk.tape) ∧
     s.lateHold = none) ∧
    (let s := { leading 256 with run := { (leading 256).run with phase := .held } }
     s.run.phase = .held ∧ s.run.group = 7) ∧
    (releasing 1 0).lateHold = some (7, metGroup 1 0) := by
  refine ⟨by decide, by decide, ⟨by decide, rfl, rfl, by decide, one_joined 0 0, rfl, by decide, rfl⟩, ⟨by decide, by decide, ?_, by decide,
    by decide, by decide⟩, rfl, ⟨by decide, by decide, rfl, rfl, ?_, by decide, by decide +kernel⟩,
    ⟨by decide, by decide +kernel, by decide +kernel, ⟨_, List.mem_singleton.2 rfl, rfl, rfl, rfl, rfl, by decide⟩, by decide⟩, ⟨rfl, rfl⟩, by decide⟩
  · exact ⟨metGroup 1 0, by decide, by decide⟩
  · intro p hp y hy
    rcases List.mem_singleton.1 hp with rfl
    cases hy
    rfl
/-- A clock with this phase, pending step and unit. -/
def clocked (ph : W32) (p u : Int) (n : Nat) : State :=
  { small [] with clk := { State.reset.clk with phase := ph, stepPending := p, unit := u, clocks := n } }
theorem hyp_TapeEvents :
    ((small [(4, 0xFFFF00000000)]).shadow [.s 4] = false ∧ (small []).ctl.mgmt = false ∧
    (let s := { small [(4, 0x1F00100000)] with ctl := { Ctl.reset with mgmt := true } }
     let v := (s.sreg 4).toNat
     s.ctl.mgmt = true ∧ v / 2 ^ 48 % 2 ^ 15 = 0 ∧ v % 2 ^ 32 ≤ 2097152 ∧ ¬ 2 ^ 63 ≤ v ∧
     -32768 ≤ s.clk.stepPending + (BitVec.ofNat 16 (v / 2 ^ 32)).toInt ∧ s.clk.stepPending + (BitVec.ofNat 16 (v / 2 ^ 32)).toInt ≤ 32767) ∧
    (2 ^ 63 ≤ 0x8000000000000000 ∧ 0x0001000000000000 / 2 ^ 48 % 2 ^ 15 ≠ 0 ∧ 2097152 < 0x200001 % 2 ^ 32 ∧
     32767 < (32767 : Int) + (BitVec.ofNat 16 1).toInt ∧ (-32768 : Int) + (BitVec.ofNat 16 0xFFFF).toInt < -32768)) ∧
    (∀ pu ∈ [((0 : Int), (0 : Int)), (-1, -1)], let s := clocked 0xFFFFFFFF pu.1 pu.2 0
     2 ^ 32 ≤ s.clk.phase.toNat + s.clk.rate.toNat ∧ s.clk.unit = pu.2 ∧ s.clk.stepPending = pu.1) ∧
    (∀ pu ∈ [((0 : Int), (0 : Int)), (1, 1)], let s := clocked 0 pu.1 pu.2 0
     ¬ 2 ^ 32 ≤ s.clk.phase.toNat + s.clk.rate.toNat ∧ s.clk.unit = pu.2 ∧ s.clk.stepPending = pu.1) ∧
    ((1024 ≤ (clocked 0 0 0 1024).clk.clocks ∧ (clocked 0 0 0 1023).clk.clocks < 1024) ∧
     State.reset.clk.loaded = false ∧ ({ State.reset.clk with loaded := true }).loaded = true ∧
     (let l : Link := { Link.reset with out := [⟨.sync 0 0, 2, 0, none⟩] }
      (linked l).link 2 = l ∧ l.st < 2 ∧ l.again = [] ∧ l.wait = [] ∧ (linked l).rivalLanes 2 = [] ∧ l.buffer.length < 4095) ∧
     (State.reset.link 0).st < 2 ∧ (State.reset.link 0).syncSeen = false ∧ ((linked { Link.reset with syncSeen := true }).link 0).syncSeen = true) ∧
    ((∃ j, j < 6 ∧ ((linked { Link.reset with valid := true, offset := 129 }).link j).valid = true ∧
      128 < ((linked { Link.reset with valid := true, offset := 129 }).link j).offset.natAbs) ∧
     ¬ ∃ j, j < 6 ∧ ((linked .reset).link j).valid = true ∧ 128 < ((linked .reset).link j).offset.natAbs) ∧
    (let s := inRun (small [])
     s.run.phase ≠ .off ∧ s.run.phase ≠ .lead ∧ s.run.fail = none) := by
  refine ⟨by decide, by decide, by decide, by decide +kernel, ⟨⟨5, by decide +kernel⟩, ?_⟩, by decide⟩
  rintro ⟨j, hj, hv, -⟩
  have h : ∀ j, j < 6 → ((linked .reset).link j).valid = false := by decide +kernel
  rw [h j hj] at hv
  cases hv
theorem hyp_LaunchEvents :
    (((hosting []).vif 0).st = 3 ∧ (∀ r, r < 4 → (((hosting []).vif 0).ring r).pending = false) ∧
     (hosting []).recordCode 0 (recordBytes 5) = none ∧ (hosting []).recordCode 0 (recordBytes 0) = some 0x2C1 ∧
     (recordBytes 0).length = 256 ∧ ([] : List Byte).length ≠ 256 ∧ (hosting []).launchId 0 5 = none) ∧
    (∀ st ∈ [(0 : Nat), 1, 2, 6], (hosting [launchOf st 0 0 []]).launchId 0 5 = some (launchOf st 0 0 [])) ∧
    (let l := waiting [5, 0]
     ∃ d ∈ l.depends.filter (fun d => d ≠ 0), (hosting [l]).launchId 0 d ≠ none) ∧
    (let l := waiting [8]
     let s := { hosting [l] with fw := { (hosting [l]).fw with retained := [⟨0, 8, 1, [], [], 0, false, false, false⟩] } }
     (∀ d ∈ l.depends.filter (fun d => d ≠ 0), s.launchId 0 d = none) ∧ ∃ d ∈ l.depends.filter (fun d => d ≠ 0),
       ∃ x ∈ s.fw.retained, x.vi = l.vi ∧ x.id = d ∧ x.status ≠ 0) ∧
    ((hosting []).leaseOk 0 (9, 1, false) = false ∧ (hosting []).leaseOk 0 (2, 1, false) = true ∧
     (hosting []).keyHandle 0 (recordBytes 5) = none) ∧
    (∃ e, tget none ({ hosting [] with mem := { (hosting []).mem with obj := [(1, some { page false 0 with segs := [⟨0, 0, 2, false, true, 0, 0⟩] })] } }).mem.obj
      (capObj (mkCap 1 0x09 0 4096)) = some e ∧ ∃ g ∈ e.segs, g.valid = true ∧ g.tier = 2) ∧
    (¬ ∃ x ∈ (launchOf 1 0 0 []).leased, ∃ e, tget none (hosting []).mem.obj x.1 = some e ∧ ∃ g ∈ e.segs, g.valid = true ∧ g.tier = 2) ∧
    (let l := launchOf 6 1 0 []
     let s := { hosting [l] with ctl := { Ctl.reset with launchNo := 1 } }
     s.launchId 0 5 = some l ∧ s.mayRetire l = true ∧ l.recs.length < 3 ∧ s.mine l = true ∧ (0 : Nat) ∈ s.boundTo l.no) ∧
    (let l := launchOf 6 1 1 []
     let s := { hosting [l] with clk := { State.reset.clk with tape := 1 } }
     s.launchId 0 5 = some l ∧ s.scrubDue l = true) ∧
    ((∀ x ∈ (hosting []).tr.worlds, x.1 ≠ 6) ∧ ∃ x ∈ (hosting []).tr.worlds, x.1 = 5 ∧ (hosting []).keyNamed x.2.1 x.2.2 = false) := by
  have h5 : ((hosting [waiting [5, 0]]).launchId 0 5).isSome = true := by decide +kernel
  have h6 : (waiting [5, 0]).depends.filter (fun d => d ≠ 0) = [5] := by decide +kernel
  have h7 : (waiting [8]).depends.filter (fun d => d ≠ 0) = [8] := by decide +kernel
  have h8 : (({ hosting [waiting [8]] with fw := { (hosting [waiting [8]]).fw with
      retained := [⟨0, 8, 1, [], [], 0, false, false, false⟩] } }).launchId 0 8).isNone = true := by decide +kernel
  refine ⟨by decide +kernel, by decide +kernel, ⟨5, (by rw [h6] <;> simp), fun h => by rw [h] at h5; cases h5⟩,
    ⟨by rw [h7]; intro d hd; rcases List.mem_singleton.1 hd with rfl; exact Option.isNone_iff_eq_none.1 h8, 8, by rw [h7]; simp,
      _, List.mem_singleton.2 rfl, rfl, rfl, by decide⟩, by decide +kernel, ⟨_, rfl, by decide⟩, ?_,
    by decide +kernel, by decide +kernel, by decide +kernel⟩
  rintro ⟨x, hx, e, he, g, hg, -, ht⟩
  have h1 : x.1 = 1 := by
    have : ∀ x ∈ (launchOf 1 0 0 []).leased, x.1 = 1 := by decide +kernel
    exact this x hx
  rw [h1] at he
  have h2 : tget none (hosting []).mem.obj 1 = some (page false 4096) := by decide +kernel
  rw [h2] at he
  cases he
  rcases List.mem_singleton.1 hg with rfl
  exact absurd ht (by decide)
/-! ### Rings, cores and the management interface -/

/-- The first 48 bytes of a ring entry: Seq 1, ABORT of launch 7. -/
def entry0 : List Byte := leBytes 8 1 ++ leBytes 2 2 ++ leBytes 6 0 ++ leBytes 8 7 ++ leBytes 24 0
/-- Its tag under key 5, at ring 0 of interface 0. -/
def tag0 : List Byte := fitBytes 16 (kmac256 (leBytes 32 5) (leBytes 1 0 ++ leBytes 1 0 ++ entry0 ++ []))
/-- Ring 0 with one entry to read. -/
def ring0 (key : Option (BitVec 256)) (n : W64) (st : Nat) : Ring := ⟨0, 6, 0, 1, st, 0, 0, n, key, 0⟩
/-- The small machine whose interface 0 is in RUN with this ring, and with that entry in host memory. -/
def ringing (k : Ring) : State :=
  let s := small []
  { s with
    tr := { s.tr with vis := [(0, { Vi.reset with st := 3, cplSize := 6, rings := [(0, k)] })], host := mwriteN [] 0 (entry0 ++ tag0) } }
theorem tag0_length : tag0.length = 16 := by simp [tag0, fitBytes]
theorem entry0_length : entry0.length = 48 := by decide
theorem ringing_read (k : Ring) : (ringing k).hostRead 0 64 = entry0 ++ tag0 := by
  have h := mreadN_mwriteN [] 0 (entry0 ++ tag0)
  rw [List.length_append, tag0_length, entry0_length] at h
  rw [show 48 + 16 = 64 from rfl] at h
  simp only [State.hostRead, ringing]
  exact h
theorem entry0_op : fieldAt (entry0 ++ tag0) 8 2 = 2 := by decide +kernel
theorem ringing_payload (k : Ring) : (ringing k).payload (entry0 ++ tag0) = [] := by simp [State.payload, entry0_op]
theorem ringing_good (k : Ring) (h : k.key = some 5) :
    k.tagOk (leBytes 1 0 ++ leBytes 1 0 ++ (entry0 ++ tag0).take 48 ++ (ringing k).payload (entry0 ++ tag0)) ((entry0 ++ tag0).drop 48) =
      true := by
  rw [List.take_left' entry0_length, List.drop_left' entry0_length, ringing_payload]
  simp [Ring.tagOk, h, tag0]
theorem hyp_ringTag (k : Ring) (h : k.key = some 5) :
    (ringing k).hostRead 0 64 = entry0 ++ tag0 ∧
    k.tagOk (leBytes 1 0 ++ leBytes 1 0 ++ (entry0 ++ tag0).take 48 ++ (ringing k).payload (entry0 ++ tag0)) ((entry0 ++ tag0).drop 48) =
      true ∧ fieldAt (entry0 ++ tag0) 0 8 = 1 ∧
    cmdOf 0 (entry0 ++ tag0) ((ringing k).payload (entry0 ++ tag0)) = some (.abort 0 1 7) :=
  ⟨ringing_read k, ringing_good k h, rfl, rfl⟩
theorem hyp_ringAt : ∀ n ∈ [(0 : Nat), 1, 2], let k := ring0 (some 5) (BitVec.ofNat 64 n) 0
    ((ringing k).vif 0).ring 0 = k ∧ k.key = some 5 ∧ k.base.toNat + 64 * (k.head.toNat % 2 ^ (k.size.toNat % 32)) = 0 ∧
      k.n.toNat = n := by decide +kernel
/-- A resynchronisation entry: N is 1, the new N is 9. -/
def resync0 : List Byte := leBytes 8 1 ++ leBytes 8 9
theorem hyp_ringResync :
    let k := ring0 (some 5) 1 1
    let b := resync0 ++ fitBytes 16 (kmac256 (leBytes 32 5) (leBytes 1 0 ++ leBytes 1 0 ++ resync0))
    k.st = 1 ∧ k.tagOk (leBytes 1 0 ++ leBytes 1 0 ++ b.take 16) (b.drop 16) = true ∧ fieldAt b 0 8 = k.n.toNat ∧ k.n.toNat ≤ fieldAt b 8 8 ∧
      fieldAt b 8 8 < 2 ^ 64 - 1 := by
  have hl : resync0.length = 16 := by decide
  refine ⟨rfl, ?_, rfl, ?_, ?_⟩
  · rw [List.take_left' hl, List.drop_left' hl]
    simp [Ring.tagOk, ring0]
  · exact (by decide : (1 : Nat) ≤ 9)
  · exact (by decide : (9 : Nat) < 2 ^ 64 - 1)
theorem hyp_openBlob :
    (small []).openBlob 0 3 (blobOf 0 3 1 1 (List.replicate 12 0)) = some 1 ∧ (small []).openBlob 0 3 [] = none := by
  have hf : fieldAt (blobOf 0 3 1 1 (List.replicate 12 0)) 4 4 = 1 := rfl
  have hi : ((blobOf 0 3 1 1 (List.replicate 12 0)).drop 8).take 12 = List.replicate 12 0 := rfl
  have hk : (small []).mem.keySerial = 1 := rfl
  constructor
  · simp only [State.openBlob, hf, hi, hk, List.range_succ, List.range_zero, List.nil_append, List.map_cons, List.map_nil, Nat.zero_add,
      List.find?_cons]
    simp
  · simp only [State.openBlob, hk, List.range_succ, List.range_zero, List.nil_append, List.map_cons, List.map_nil, Nat.zero_add]
    rw [List.find?_cons_of_neg, List.find?_nil]
    intro h
    have h := congrArg List.length (of_decide_eq_true h)
    simp [blobOf] at h
/-- The machine of those rings with a bolt of interface 0 in state st as object 9, and a parked shuttle of tenant 0. -/
def serving (st : Nat) (ps : List ParkRec) : State :=
  let s := ringing (ring0 (some 5) 1 3)
  let e : ObjEntry := { page false 4096 with kind := 2, state := st }
  { s with
    mem := { s.mem with obj := [(9, some e)], port := [(9, some e)] }
    sh := { s.sh with parks := ps } }
/-- A parked shuttle of tenant 0. -/
def parked0 : ParkRec := ⟨4, 0, 1, 0, 0, shuttleOf [], 0, 0⟩
theorem hyp_ringWrap :
    (ring0 (some 5) (BitVec.allOnes 64) 0).st = 0 ∧ (ring0 (some 5) (BitVec.allOnes 64) 0).n = BitVec.allOnes 64 := ⟨rfl, rfl⟩
theorem hyp_RingEvents :
    (∀ k ∈ [ring0 none 1 0, ring0 (some 5) 1 3],
      (k.key = none → k.tagOk [] [] = false) ∧ ((ringing k).vif 0).st = 3 ∧ (ringing k).readsRings 0 = true) ∧
    ((small []).vif 0).st ≠ 3 ∧ (2 : Nat) ^ 16 ≤ (0x10000 : W64).toNat ∧ (0 : Nat) ∉ (small []).env.unstreamed ∧ (0 : Nat) ∈ [0] ∧
    (let s := ringing { ring0 (some 5) 1 0 with tail := 0 }
     (∀ r, r < 4 → ((s.vif 0).ring r).pending = false) ∧ ∀ r, r < 4 → ((s.vif 0).ring r).st = 0 → ((s.vif 0).ring r).n ≠ BitVec.allOnes 64) ∧
    (let s := ringing (ring0 (some 5) 1 0)
     s.readsRings 0 = true ∧ (∀ r, r < 4 → ((s.vif 0).ring r).st = 0 → ((s.vif 0).ring r).n ≠ BitVec.allOnes 64) ∧ ((s.vif 0).ring 0).pending = true ∧ ∀ j, j < 4 → j ≠ 0 → ((s.vif 0).ring j).pending = false) ∧
    (ring0 (some 5) 1 1).st = 1 ∧ (ring0 (some 5) 1 0).st ≠ 1 ∧ (ring0 (some 5) 1 0).tagOk [] [0] = false ∧
    ((∀ r, r < 4 → (((serving 1 []).vif 0).ring r).pending = false) ∧
      ∀ r, r < 4 → (((serving 1 []).vif 0).ring r).st = 0 → (((serving 1 []).vif 0).ring r).n ≠ BitVec.allOnes 64) ∧ ((serving 1 []).vif 0).heldRecs = [] ∧ ((serving 1 []).vif 0).st = 3 ∧
    (∀ st ∈ [(1 : Nat), 3], ∃ e, tget none (serving st []).mem.obj 9 = some e ∧ e.kind = 2 ∧ e.ownerVI = 0 ∧ e.state = st) ∧
    tget none (serving 1 []).mem.obj 10 = none ∧
    (serving 1 [parked0]).sh.parks.find? (fun p => p.tenant = 0) = some parked0 ∧
    (serving 1 [parked0]).sh.parks.find? (fun p => p.tenant = 0 && p.seq = 4) = some parked0 ∧
    (serving 1 [parked0]).sh.parks.find? (fun p => p.tenant = 0 && p.seq = 5) = none ∧
    (serving 1 []).sh.parks.find? (fun p => p.tenant = 0) = none ∧
    (serving 1 []).fw.retained.reverse.find? (fun y => y.vi = 0 && y.id = 8 && !y.tainted) = none ∧
    ([⟨0, 8, 1, [], [], 0, false, false, false⟩] : List Retained).reverse.find? (fun y => y.vi = 0 && y.id = 8 && !y.tainted) =
      some ⟨0, 8, 1, [], [], 0, false, false, false⟩ ∧
    (serving 1 []).keyNamed 0 3 = false ∧
    (let l : Launch := ⟨0, 5, 9, 0, 0, 0, List.replicate 128 0 ++ [0x13] ++ List.replicate 127 0, 0, [], [], [], 0, [], [], 0, false, [], false, 0, [], 0⟩
     ({ small [] with fw := { (small []).fw with launches := [l] } }).keyNamed 0 3 = true) := by
  have h5 : (ring0 (some 5) 1 0).tagOk [] [0] = false := by
    simp only [Ring.tagOk, ring0, decide_eq_false_iff_not]
    intro h
    have h := congrArg List.length h
    simp [fitBytes] at h
  refine ⟨?_, by decide, by decide, by decide, by decide, by decide +kernel, by decide +kernel, rfl, by decide, h5, by decide +kernel, rfl, rfl, ?_, rfl, by decide +kernel,
    by decide +kernel, by decide +kernel, rfl, rfl, by decide +kernel, by decide +kernel, by decide +kernel⟩
  · intro k hk
    rcases List.mem_cons.1 hk with rfl | hk
    · exact ⟨fun _ => rfl, rfl, by decide +kernel⟩
    rcases List.mem_singleton.1 hk with rfl
    exact ⟨fun h => (nomatch h), rfl, by decide +kernel⟩
  · intro st hst
    exact ⟨_, rfl, rfl, rfl, rfl⟩
/-- The hosting machine whose core's bind entry names launch 1 and is in state b. -/
def binding (b : Nat) (ls : List Launch) : State :=
  let s := hosting ls
  { s with fw := { s.fw with bind := [(0, 1)], bindSt := [(0, b)], go := some (1, 0) }, clk := { s.clk with tape := 16 } }
/-- What is saved of the core of logical number 0 of launch 1. -/
def saved0 : Saved :=
  let s := small []
  ⟨1, 0, s.regs, s.ctl, s.code, s.rs, s.dq, [], [], .reset, .reset, .reset, s.cx, s.grp, 0, none⟩
/-- The machine with S turned on. -/
def awake (s : State) : State := { s with sx := { s.sx with on := true } }
theorem hyp_CoreEvents :
    (let s := binding 2 []
     2 ≤ s.bindState 0) ∧
    (let s := binding 1 [launchOf 2 1 0 []]
     s.bindState 0 < 2 ∧ (∃ l ∈ s.fw.launches, l.no = 1) ∧ s.fw.go = some (1, 0) ∧ 0 + 16 ≤ s.clk.tape ∧ s.ctl.coreId ∈ s.boundTo 1 ∧
     s.bindState s.ctl.coreId = 1 ∧ s.launchNo 1 = some (launchOf 2 1 0 []) ∧ (launchOf 2 1 0 []).st = 2 ∧ (launchOf 2 1 0 []).f 6 2 / 4 % 2 = 0 ∧
     s.fw.go ≠ none) ∧
    (let s := binding 1 [launchOf 2 0 0 []]
     (∀ l ∈ s.fw.launches, l.no ≠ 1) ∧ s.nextBound = some (launchOf 2 0 0 [])) ∧
    (let s := binding 1 [launchOf 5 3 0 []]
     (∀ l ∈ s.fw.launches, l.no ≠ 1) ∧ s.nextBound = some (launchOf 5 3 0 [])) ∧
    (let l := launchOf 5 1 0 []
     let s := { binding 1 [l] with fw := { (binding 1 [l]).fw with saved := [saved0] } }
     let u := { s with fw := { s.fw with saved := [], back := [0] } }
     s.launchNo 1 = some l ∧ l.st = 5 ∧ s.boundWaiting 1 = [s.ctl.coreId] ∧ s.ctl.coreId ∉ s.fw.back ∧
     (s.fw.saved.find? (fun x => decide (x.no = 1) && decide (x.logical = bitsOf (s.bindOf s.ctl.coreId) 8 17) &&
       decide (bitsOf x.ctl.slicesel.toNat 3 2 = bitsOf (s.bindOf s.ctl.coreId) 25 2)) = some saved0) ∧
     u.ctl.coreId ∈ u.boundTo 1 ∧ u.bindState u.ctl.coreId = 1 ∧ u.ctl.coreId ∈ u.fw.back ∧ u.launchNo 1 = some l ∧
     (∀ c ∈ u.boundWaiting 1, c ∈ u.fw.back) ∧
     (∃ x, tget none (s.install 1 l.record).fab.installed 1 = some x)) ∧
    (let s := hosting []
     s.fw.go = none ∧ ∃ c ∈ s.boundTo 1, s.bindState c = 1) ∧
    ({ binding 1 [] with clk := State.reset.clk }).clk.tape < 0 + 16 ∧
    (let s := { small [] with sx := { (awake (small [])).sx with hold := .exit } }
     s.exitDone = true ∧ (small []).exitDone = false) ∧
    (let s := { grouped [] with sx := { (awake (small [])).sx with hold := .exit } }
     s.exitDone = true ∧ s.group 7 = some pair ∧ s.ctl.lcore ∈ pair.members) ∧
    (let l := launchOf 4 1 0 []
     let b := binding 2 [l]
     let r := fitBytes 32 l.record ++ leBytes 2 2
     let m := { l with record := r }
     let s := { b with ctl := { b.ctl with launchNo := 1 }, sx := { (awake b).sx with hold := .exit }, fw := { b.fw with launches := [m] } }
     s.exitDone = true ∧ s.fw.launches.find? s.mine = some m ∧ m.st = 4 ∧ (∀ c ∈ s.boundTo m.no, c = s.ctl.coreId ∨ c ∈ s.fw.doneCores) ∧
     (s.boundTo m.no).length < fieldAt m.record 32 2) ∧
    (let b := binding 2 []
     ∀ l ∈ b.fw.launches, b.othersRunning l = []) ∧
    (let s := awake (small [])
     s.sx.on = true ∧ s.run.phase = .off ∧ s.trap.handler = false ∧ s.sx.blk = none ∧ s.sx.hold ≠ .exit ∧ s.trap.stop = none ∧ s.trap.save = none) ∧
    (small []).sx.on = false ∧
    ((leading 0).run.phase ≠ .off) ∧
    (let l := launchOf 3 1 0 []
     let s := binding 2 [l]
     let t := awake { s with ctl := { s.ctl with launchNo := 1 } }
     s.launchNo 1 = some l ∧ s.mine l = false ∧ t.mine l = true ∧ t.sx.on = true ∧ s.sx.on = false ∧ t.savable = none ∧
     (let u := { t with sx := { t.sx with hold := .tape 99, safe := some 3 } }
      u.savable = some 3 ∧ u.trap.handler = false ∧ u.stopping = false)) ∧
    (launchOf 2 1 0 []).st ≠ 3 ∧
    (∀ h ∈ [none, some 7], ∀ core ∈ [(0 : Nat), 3], let l := launchOf 5 1 0 []
     let y := { saved0 with held := h, ctl := { saved0.ctl with slicesel := 0 } }
     let b := binding 1 [l]
     let s := { b with ctl := { b.ctl with coreId := core }, fw := { b.fw with saved := [y] } }
     s.launchNo 1 = some l ∧ l.st = 5 ∧ s.bindState 0 = 1 ∧ s.bindOf 0 % 256 = 1 ∧ (0 : Nat) ∉ s.fw.back ∧ s.bankCluster l 0 = true ∧
     (s.fw.saved.find? (fun x => decide (x.no = 1) && decide (x.logical = bitsOf (s.bindOf 0) 8 17) &&
       decide (bitsOf x.ctl.slicesel.toNat 3 2 = bitsOf (s.bindOf 0) 25 2)) = some y) ∧ y.held = h ∧ (0 = s.ctl.coreId ↔ core = 0)) ∧
    (let l := launchOf 5 1 0 []
     let s := binding 1 [l]
     s.launchNo 1 = some l ∧ s.fw.saved = [] ∧ ¬ ((launchOf 3 1 0 []).st = 5)) ∧
    (let l := { launchOf 5 1 0 [] with copied := [3, 4] }
     l.copied.Nodup ∧ l.copied[1]? = some 4 ∧ 5 ∉ l.copied) ∧
    (let l := launchOf 4 1 0 []
     let b := binding 2 [l]
     let s := { b with
       ctl := { b.ctl with launchNo := 1 }, code := { b.code with safeCount := 1 }, trap := { Trap.reset with save := some 0, ready := true } }
     s.trap.ready = true ∧ s.trap.stop = none ∧ s.trap.save = some 0 ∧ 0 < s.code.safeCount ∧ s.run.phase = .off ∧ s.sx.hold = .no ∧
     s.fw.launches.find? s.mine = some l ∧ l.st = 4 ∧ (∀ c ∈ s.boundTo l.no, c = s.ctl.coreId ∨ c ∈ s.fw.doneCores) ∧
     (let u := { s with fw := { s.fw with launches := [launchOf 3 1 0 []] } }
      u.fw.launches.find? u.mine = some (launchOf 3 1 0 [])) ∧
     (let u := { s with trap := Trap.reset }
      u.trap.ready = false ∧ ∀ l ∈ u.fw.launches, l.st = 4 → u.othersRunning l = [])) := by
  refine ⟨?_, ?_, ?_, ?_, ⟨by decide +kernel, by decide, by decide +kernel, by decide, by decide +kernel, by decide +kernel, by decide +kernel, by decide,
    by decide +kernel, by decide +kernel, ⟨_, rfl⟩⟩, ?_, ?_, ?_, ?_, ?_, ?_, ?_, ?_, ?_, ?_, ?_, ?_, ?_, ?_, ?_⟩ <;> decide +kernel
/-- The small machine with this entry for interface 0. -/
def configured (x : Vi) : State := { small [] with tr := { State.reset.tr with vis := [(0, x)] } }
/-- An interface whose rings all have 64 slots and keys, in state n. -/
def openVi (n : Nat) : Vi :=
  { Vi.reset with st := n, cplSize := 6, rings := [(0, ring0 (some 5) 1 0), (1, ring0 (some 5) 1 0), (2, ring0 (some 5) 1 0), (3, ring0 (some 5) 1 0)] }
theorem hyp_ManagementEvents :
    (usesIsland (small []).ctl.coreId 1 = false ∧ usesIsland (small []).ctl.coreId 127 = true ∧ (leading 0).run.phase ≠ .off ∧
     (leading 0).run.fail = none ∧ (small []).run.phase = .off ∧ (awake (small [])).sx.on = true ∧ (small []).trap.stop = none) ∧
    (let s := { small [] with fw := { (small []).fw with islands := [(127, 0, some 5, false)] } }
     s.islandDue = some 127 ∧ (s.island 127).2.1 = some 5) ∧
    (leading 0).islandTimed 127 = true ∧ (small []).islandTimed 127 = false ∧
    (∀ n ∈ [(0 : Nat), 1, 2, 3], ((configured (openVi n)).vif 0).st = n) ∧
    ((6 ≤ (openVi 1).cplSize.toNat ∧ (openVi 1).cplSize.toNat ≤ 16) ∧ ∀ r, r < 4 → 6 ≤ ((openVi 1).ring r).size.toNat ∧
      ((openVi 1).ring r).size.toNat ≤ 16) ∧
    (tget none ({ openVi 1 with live := [(6, some 5)] }).live (4 + (2 : BitVec 2).toNat) = some 5) ∧
    ¬ (6 ≤ Vi.reset.cplSize.toNat) ∧ (∀ r, r < 4 → ((openVi 2).ring r).st ≠ 3) ∧ ¬ ((Vi.reset.ring 0).st ≠ 3) ∧
    (configured { openVi 3 with stopping := true }).stoppedVi = some 0 ∧
    (small []).fw.snapAt ≠ some (small []).clk.tape ∧
    ({ (small []).fw with snapAt := some 0 }).snapAt = some (small []).clk.tape ∧
    (∀ l ∈ (small []).fw.launches, l.st = 5) ∧ (∃ l ∈ [launchOf 2 1 0 []], l.st ≠ 5) ∧
    (∃ x, ({ small [] with fw := { (small []).fw with ckpt := some (small []).image } }).fw.ckpt = some x ∧ Memory.wf x.phys = true ∧
      ∀ k ∈ x.phys, inPages x.obj k.1 = true) ∧
    (∃ x : Image, x.phys = [(4096, 7)] ∧ Memory.wf x.phys = true ∧ (∀ k ∈ x.phys, inPages x.obj k.1 = true) ∧
      twf none x.tags = true ∧ (∀ k ∈ x.tags, inPages x.obj (16 * k.1) = true) ∧ inPages x.obj (16 * 256) = true ∧
      ∃ b, tget none x.tags 256 = some b ∧ b.dom = 0 ∧ b.key = x.key) ∧
    (∀ k ∈ [(0 : Nat), 1, 2, 3], let q : Ring := { ring0 (some 5) 1 0 with tail := 0 }
      let x : Vi := { openVi 2 with rings := [(0, q), (1, q), (2, q), (3, q)] }
      (configured x).vif 0 = x ∧ (x.ring k).st ≠ 3 ∧
      (let u := (configured x).setVif 0 { x with st := 3 }
       ((u.vif 0).ring k).pending = false ∧ ((u.vif 0).ring k).n ≠ BitVec.allOnes 64)) ∧
    (let u := ringing (ring0 (some 5) 1 0)
     u.readsRings 0 = true ∧ ((u.vif 0).ring 0).pending = true) := by
  refine ⟨by decide +kernel, by decide +kernel, by decide +kernel, by decide +kernel, by decide +kernel, by decide +kernel, rfl, by decide,
    by decide +kernel, by decide, by decide +kernel, by decide, by decide, ?_, ?_, ⟨_, rfl, by decide +kernel, by decide +kernel⟩,
    ⟨⟨[(1, some (page false 4096))], [], [(4096, 7)], [(256, some ⟨1, 0, 1, 0, 0⟩)], 1, [], [], [], []⟩, rfl, by decide +kernel, by decide +kernel,
      by decide +kernel, by decide +kernel, by decide +kernel, ⟨_, rfl, rfl, rfl⟩⟩, by decide +kernel, by decide +kernel⟩
  · intro l hl
    exact absurd hl List.not_mem_nil
  · exact ⟨_, List.mem_singleton.2 rfl, by decide⟩
/-! ### Single steps at a shared bank -/

/-- R94, R95: the bank serves the request whose number its pointer comes to first, and the pointer goes past it. -/
theorem test_round_robin :
    let ask (n : Nat) : BItem := ⟨n, 64 * n, .write [7], .cmd n, none⟩
    let s := { small [] with sram := { (small []).sram with queue := [ask 17, ask 49], rr := [(0, 18)] } }
    got (exec .bankService s) (fun t => (t.sram.queue, t.sram.bytes, tget 0 t.sram.rr 0)) = some ([ask 17], [(64 * 49, 7)], 50) := by
  decide +kernel
/-- R132: a timed piece whose slot a core of lower number uses in that cycle moves nothing and sets CCollide; the core of the lowest
number keeps its slot. -/
theorem test_collide :
    let s (core : Nat) := { inRun (copying (recOf 6 0 0 [1] [0] [0])) with
      ctl := { Ctl.reset with coreId := core }
      env := { State.reset.env with rivals := [(256, 7, 0, 1)] } }
    got (exec (.ccpyt 2 2 0 0 4 5) (s 3)) (fun t => t.pend.map (fun p => (p.due, p.tgt))) = some [(256, .csticky bCCollide)] ∧
    got (exec (.ccpyt 2 2 0 0 4 5) (s 0)) (·.pend.length) = some 0 := by decide +kernel

end Sys2Proof.Tests
end

section
/-! Proofs about V: the operands of a V word as lanes, and what its lane forms issue. -/

namespace Sys2Proof.Machine

/-! ### Lanes of an operand (R263) -/

theorem nthD_eq_getD {α : Type} (d : α) (l : List α) (i : Nat) : nthD d l i = l.getD i d := by
  induction l generalizing i with
  | nil => rfl
  | cons x t ih =>
    cases i with
    | zero => rfl
    | succ i => exact ih i

theorem nthD_append {α : Type} (d : α) (x y : List α) (i : Nat) :
    nthD d (x ++ y) i = if i < x.length then nthD d x i else nthD d y (i - x.length) := by
  simp only [nthD_eq_getD, List.getD_eq_getElem?_getD, List.getElem?_append]
  by_cases h : i < x.length
  · rw [if_pos h, if_pos h]
  · rw [if_neg h, if_neg h]

@[simp] theorem lanesOf_length (z : Nat) (b : List Byte) : (lanesOf z b).length = 256 / z := by
  simp [lanesOf]

theorem nthD_lanesOf (z : Nat) (b : List Byte) {l : Nat} (h : l < 256 / z) : nthD 0 (lanesOf z b) l = laneAt z b l := by
  simp [nthD_eq_getD, lanesOf, laneAt, h]

theorem tySize_bounds (t : Nat) : 0 < tySize t ∧ tySize t ≤ 8 := by
  unfold tySize
  split
  · exact ⟨Nat.two_pow_pos _, Nat.pow_le_pow_right (j := 3) (by decide) (by omega)⟩
  · (repeat' split) <;> decide

theorem lanes_pos (t : Nat) : 0 < 256 / tySize t :=
  Nat.div_pos (by have := (tySize_bounds t).2; omega) (tySize_bounds t).1

/-! ### Results and events over the active lanes (R268, R270) -/

theorem lanesWritten_congr (mk : Option Mask) {n : Nat} (z addr : Nat) {f g : Nat → Nat} (h : ∀ l < n, f l = g l) :
    lanesWritten mk n z addr f = lanesWritten mk n z addr g := by
  unfold lanesWritten
  simp only [List.flatMap]
  congr 1
  refine List.map_congr_left fun l hl => ?_
  rw [h l (List.mem_range.1 hl)]

theorem foldl_or_eq_foldr (l : List Ev) : l.foldl (· ||| ·) 0 = l.foldr (· ||| ·) 0 := by
  induction l with
  | nil => rfl
  | cons e t ih => rw [List.foldl_cons, List.foldr_cons, BitVec.or_comm 0 e, List.foldl_assoc, ih]

/-- The events gathered from the last lane down, as `overLanes` does. -/
theorem lanesEv_eq_foldr (mk : Option Mask) (n : Nat) (f : Nat → Ev) :
    lanesEv mk n f = (((List.range n).filter (laneOn mk)).map f).foldr (· ||| ·) 0 := by
  rw [← foldl_or_eq_foldr, List.foldl_map, lanesEv]

theorem lanesEv_congr (mk : Option Mask) {n : Nat} {f g : Nat → Ev} (h : ∀ l < n, f l = g l) :
    lanesEv mk n f = lanesEv mk n g := by
  have hmap : ((List.range n).filter (laneOn mk)).map f = ((List.range n).filter (laneOn mk)).map g :=
    List.map_congr_left fun l hl => h l (List.mem_range.1 (List.mem_filter.1 hl).1)
  rw [lanesEv_eq_foldr, lanesEv_eq_foldr, hmap]

theorem lanesEv_none (mk : Option Mask) (n : Nat) : lanesEv mk n (fun _ => 0) = 0 := by
  rw [lanesEv_eq_foldr]
  induction (List.range n).filter (laneOn mk) with
  | nil => rfl
  | cons x t ih => rw [List.map_cons, List.foldr_cons, ih, BitVec.or_self]

theorem overLanes_eq (mk : Option Mask) (n : Nat) (f : Nat → Nat × Ev) :
    overLanes mk n f =
      ((List.range n).map (fun l => if laneOn mk l then some (f l).1 else none), lanesEv mk n (fun l => (f l).2)) := by
  rw [lanesEv_eq_foldr]
  unfold overLanes
  induction List.range n with
  | nil => rfl
  | cons l t ih =>
    by_cases h : laneOn mk l <;> simp only [List.foldr_cons, ih, List.map_cons, List.filter_cons, h] <;> rfl

theorem laneCells_range' (mk : Option Mask) (addr z : Nat) (f : Nat → Nat) (n k : Nat) :
    laneCells addr z k ((List.range' k n).map (fun l => if laneOn mk l then some (f l) else none)) =
      (List.range' k n).flatMap (fun l => if laneOn mk l then cellsAt (addr + l * z) (leBytes z (f l)) else []) := by
  induction n generalizing k with
  | zero => rfl
  | succ n ih => by_cases h : laneOn mk k <;> simp [List.range'_succ, laneCells, h, ih (k + 1)]

theorem laneCells_overLanes (mk : Option Mask) (n z addr : Nat) (f : Nat → Nat × Ev) :
    laneCells addr z 0 (overLanes mk n f).1 = lanesWritten mk n z addr (fun l => (f l).1) := by
  rw [overLanes_eq, lanesWritten, List.range_eq_range']
  exact laneCells_range' mk addr z _ n 0

/-! ### Reading and issuing (R266) -/

theorem State.vRead1_clk (s : State) (q : Option Nat) : (s.vRead1 q).1.clk = s.clk := by
  cases q with
  | none => rfl
  | some q =>
    simp only [State.vRead1, State.rsVec]
    by_cases hon : s.regOn (s.specAddr q) = true
    · by_cases hp : (s.pendEn && !s.timed && s.pendingRs (s.specAddr q) 256) = true <;> simp only [hon, hp] <;> rfl
    · by_cases ht : s.timed = true <;> simp only [hon, ht] <;> rfl

/-- Reading the operands of a V word takes no time. -/
theorem State.vRead_clk {s u : State} {x : VSpec} {i : VIn} (h : s.vRead x = .ok (u, i)) : u.clk = s.clk := by
  unfold State.vRead at h
  split at h
  · cases h
  · simp only [Except.ok.injEq, Prod.mk.injEq] at h
    obtain ⟨rfl, -⟩ := h
    simp [apply_ite State.clk, apply_ite Prod.fst, State.vRead1_clk]

/-- A word that puts its events and a write in flight and completes as they land. -/
theorem State.issue_result (u : State) (lat : Nat) (tgt : Tgt) (ev : Ev) :
    ((u.eventV lat ev).pushPend (u.now + lat) .v tgt).done .v 1 (.at (u.now + lat)) = .next (u.vIssued lat (some tgt) ev) := by
  unfold State.vIssued State.eventV
  by_cases he : ev = 0 <;> simp only [he] <;> rfl

theorem State.vWrite_eq (u : State) (i : VIn) (z lat : Nat) (out : List (Option Nat)) (ev : Ev) :
    u.vWrite i z lat out ev = .next (u.vOut i lat (laneCells i.addr z 0 out) ev) := by
  unfold State.vWrite State.vOut State.vIssued State.eventV
  by_cases he : ev = 0 <;> by_cases ho : i.ok = true <;> simp only [he, ho] <;> rfl

/-- A predicated form whose operands are read issues, with the lanes of its function over the active ones. -/
theorem State.vForm_of_read {s u : State} {x : VSpec} {i : VIn} (h : s.vRead x = .ok (u, i)) (t m lat : Nat)
    (f : List Nat → List Nat → List Nat → Nat → Nat × Ev) :
    let z := tySize t
    let r := f (lanesOf z i.a) (lanesOf z i.b) (lanesOf z i.old)
    s.vForm t m lat x f = .next (u.vOut i lat (lanesWritten (s.maskOf m) (256 / z) z i.addr (fun l => (r l).1))
      (lanesEv (s.maskOf m) (256 / z) (fun l => (r l).2))) := by
  simp only [State.vForm, h, State.vWrite_eq, laneCells_overLanes]
  rw [overLanes_eq]

/-! ### Forms that move bits (R277, R278, R286) -/

theorem bitsRes_eq (t : BitVec 4) (v : Nat) : bitsRes t.toNat v = (if t = 13 then v % 64 else v, 0) := by
  have ht : t.toNat = 13 ↔ t = 13 := by bv_omega
  simp only [bitsRes, ht]

/-- A form all of whose lanes are bits alone writes them and raises no event. -/
theorem State.vForm_bits {s u : State} {x : VSpec} {i : VIn} (h : s.vRead x = .ok (u, i)) (t : BitVec 4) (m lat : Nat)
    {f : List Nat → List Nat → List Nat → Nat → Nat × Ev} {g : Nat → Nat}
    (hf : ∀ l < 256 / tySize t.toNat, f (lanesOf (tySize t.toNat) i.a) (lanesOf (tySize t.toNat) i.b)
      (lanesOf (tySize t.toNat) i.old) l = bitsRes t.toNat (g l)) :
    s.vForm t.toNat m lat x f = .next (u.vOut i lat (lanesWritten (s.maskOf m) (256 / tySize t.toNat) (tySize t.toNat) i.addr
      (fun l => if t = 13 then g l % 64 else g l)) 0) := by
  have hv : ∀ l < 256 / tySize t.toNat, _ = (if t = 13 then g l % 64 else g l, (0 : Ev)) :=
    fun l hl => (hf l hl).trans (bitsRes_eq t (g l))
  rw [State.vForm_of_read h, lanesWritten_congr _ _ _ (fun l hl => congrArg Prod.fst (hv l hl)),
    lanesEv_congr _ (fun l hl => congrArg Prod.snd (hv l hl)), lanesEv_none]

theorem State.vLane2_bits {s u : State} {i : VIn} {t : BitVec 4} {m : BitVec 3} {d a b : BitVec 6} {p : BitVec 1} {useD : Bool}
    (h : s.vRead ⟨m.toNat, p.toNat, some a.toNat, some b.toNat, d.toNat, useD, []⟩ = .ok (u, i)) (lat : Nat) (g : Nat → Nat → Nat) :
    let z := tySize t.toNat
    s.vLane2 t m d a b p useD lat (fun x y _ => bitsRes t.toNat (g x y)) =
      .next (u.vOut i lat (lanesWritten (s.maskOf m.toNat) (256 / z) z i.addr (fun l =>
        if t = 13 then g (laneAt z i.a l) (laneAt z i.b l) % 64 else g (laneAt z i.a l) (laneAt z i.b l))) 0) := by
  intro z
  refine State.vForm_bits h t m.toNat lat (g := fun l => g (laneAt z i.a l) (laneAt z i.b l)) fun l hl => ?_
  rw [nthD_lanesOf _ _ hl, nthD_lanesOf _ _ hl]

/-! Each of these words as one of the shared lane forms. -/

section
variable (s : State) (t : BitVec 4) (m k : BitVec 3) (d a b : BitVec 6) (p : BitVec 1) (g : BitVec 5)

theorem exec_vand : exec (.vand t m d a b p) s = s.vLane2 t m d a b p false 2 (fun x y _ => bitsRes t.toNat (x &&& y)) := rfl
theorem exec_vor : exec (.vor t m d a b p) s = s.vLane2 t m d a b p false 2 (fun x y _ => bitsRes t.toNat (x ||| y)) := rfl
theorem exec_vxor : exec (.vxor t m d a b p) s = s.vLane2 t m d a b p false 2 (fun x y _ => bitsRes t.toNat (x ^^^ y)) := rfl
theorem exec_vandn : exec (.vandn t m d a b p) s = s.vLane2 t m d a b p false 2
    (fun x y _ => bitsRes t.toNat (x &&& (y ^^^ (2 ^ (8 * tySize t.toNat) - 1)))) := rfl
theorem exec_vmov : exec (.vmov t m d a p) s = s.vLane1 t m d a p 2 (bitsRes t.toNat) := rfl
theorem exec_vsel : exec (.vsel t k d a b p) s =
    s.vForm t.toNat 0 2 ⟨0, p.toNat, some a.toNat, some b.toNat, d.toNat, false, [.m k.toNat]⟩
      (fun x y _ l => bitsRes t.toNat (if (s.mreg k.toNat).getLsbD l then nthD 0 x l else nthD 0 y l)) := rfl
theorem exec_vbcast : exec (.vbcast t m d g) s =
    s.vForm t.toNat m.toNat 2 ⟨m.toNat, 0, none, none, d.toNat, false, [.s g.toNat]⟩
      (fun _ _ _ _ => bitsRes t.toNat ((s.sreg g.toNat).toNat % 2 ^ (8 * tySize t.toNat))) := rfl
theorem exec_vlane : exec (.vlane t m d) s =
    s.vForm t.toNat m.toNat 2 ⟨m.toNat, 0, none, none, d.toNat, false, []⟩ (fun _ _ _ l => (l, 0)) := rfl
theorem exec_vperm : exec (.vperm t m d a b p) s =
    s.vForm t.toNat m.toNat 3 ⟨m.toNat, p.toNat, some a.toNat, some b.toNat, d.toNat, false, []⟩
      (fun x y _ l => bitsRes t.toNat (nthD 0 x ((bitsRes t.toNat (nthD 0 y l)).1 % x.length))) := rfl
theorem exec_vshuf : exec (.vshuf t m d a b p) s =
    s.vForm t.toNat m.toNat 3 ⟨m.toNat, p.toNat, some a.toNat, some b.toNat, d.toNat, true, []⟩
      (fun x y o l => bitsRes t.toNat (nthD 0 (x ++ y) ((bitsRes t.toNat (nthD 0 o l)).1 % (2 * x.length)))) := rfl
theorem exec_vslide : exec (.vslide t m d a g p) s =
    s.vForm t.toNat m.toNat 3 ⟨m.toNat, p.toNat, some a.toNat, none, d.toNat, false, [.s g.toNat]⟩
      (fun x _ _ l =>
        let k := (l : Int) + (s.sreg g.toNat).toInt
        if 0 ≤ k && k < x.length then bitsRes t.toNat (nthD 0 x k.toNat) else (0, 0)) := rfl
theorem exec_vrev : exec (.vrev t m d a p) s =
    s.vForm t.toNat m.toNat 3 ⟨m.toNat, p.toNat, some a.toNat, none, d.toNat, false, []⟩
      (fun x _ _ l => bitsRes t.toNat (nthD 0 x (x.length - 1 - l))) := rfl
theorem exec_vzip : exec (.vzip t m d a b p) s =
    s.vForm t.toNat m.toNat 3 ⟨m.toNat, p.toNat, some a.toNat, some b.toNat, d.toNat, false, []⟩
      (fun x y _ l => bitsRes t.toNat (if l % 2 = 0 then nthD 0 x (l / 2) else nthD 0 y (l / 2))) := rfl
theorem exec_vunzip : exec (.vunzip t m d a b p) s =
    s.vForm t.toNat m.toNat 3 ⟨m.toNat, p.toNat, some a.toNat, some b.toNat, d.toNat, false, []⟩
      (fun x y _ l => bitsRes t.toNat (if 2 * l < x.length then nthD 0 x (2 * l) else nthD 0 y (2 * l - x.length))) := rfl

end

/-! ### Compares and mask logic (R279, R280) -/

theorem testBit_boolsNat (l : List Bool) (i : Nat) : (boolsNat l).testBit i = l.getD i false := by
  induction l generalizing i with
  | nil => simp [boolsNat]
  | cons b t ih =>
    cases i with
    | zero => cases b <;> simp [boolsNat, Nat.testBit_zero, Nat.add_mod]
    | succ i =>
      have hdiv : boolsNat (b :: t) / 2 = boolsNat t := by
        rw [boolsNat, Nat.add_mul_div_left _ _ Nat.two_pos]
        cases b <;> simp
      rw [Nat.testBit_succ, hdiv, ih]
      rfl

theorem getLsbD_maskBits (l : List Bool) (i : Nat) : (maskBits l).getLsbD i = (decide (i < 256) && l.getD i false) := by
  rw [maskBits, BitVec.getLsbD_ofNat, testBit_boolsNat]

/-- Bit l of a mask made of the lanes of a type: zero past the type. -/
theorem getLsbD_maskBits_lanes (z : Nat) (p : Nat → Bool) (l : Nat) :
    (maskBits ((List.range (256 / z)).map p)).getLsbD l = (decide (l < 256 / z) && p l) := by
  have hn : 256 / z ≤ 256 := Nat.div_le_self 256 z
  rw [getLsbD_maskBits]
  by_cases hl : l < 256 / z
  · simp [hl, Nat.lt_of_lt_of_le hl hn]
  · simp [hl]

/-- Two raw elements that compare unordered: one of them is a NaN or void. -/
def unorderedRaw (t x y : Nat) : Bool := 8 ≤ t && ((decodeTy t x).isNan || (decodeTy t y).isNan)
/-- One raw element is below another as a number. -/
def lessRaw (t x y : Nat) : Bool := if t < 8 then intVal t x < intVal t y else (decodeTy t x).lt (decodeTy t y)
/-- The event of a compare of two raw elements. -/
def cmpEv (t : Nat) (strict : Bool) (x y : Nat) : Ev :=
  if unorderedRaw t x y && (strict || (decodeTy t x).isSnan || (decodeTy t y).isSnan) then 1 else 0

theorem cmpOp_eq (t : Nat) (f : FV → FV → Bool) (g : Int → Int → Bool) (nan strict : Bool) (x y : Nat) :
    cmpOp t f g nan strict x y =
      (if unorderedRaw t x y then nan else if t < 8 then g (intVal t x) (intVal t y) else f (decodeTy t x) (decodeTy t y),
        cmpEv t strict x y) := by
  by_cases ht : t < 8
  · simp [cmpOp, tyInt, unorderedRaw, cmpEv, ht, Nat.not_le.2 ht]
  · by_cases hn : ((decodeTy t x).isNan || (decodeTy t y).isNan) = true
    · simp [cmpOp, tyInt, unorderedRaw, cmpEv, ht, hn, Nat.not_lt.1 ht, evInvalid]
    · simp [cmpOp, tyInt, unorderedRaw, cmpEv, ht, hn]

theorem decide_eq_not_lt (a b : Int) : decide (a = b) = (!decide (a < b) && !decide (b < a)) := by
  rw [← decide_not, ← decide_not, ← Bool.decide_and]
  exact decide_eq_decide.2 (by omega)

theorem decide_le_eq_not_lt (a b : Int) : decide (a ≤ b) = !decide (b < a) := by
  rw [← decide_not]
  exact decide_eq_decide.2 Int.not_lt.symm

theorem cmpOp_vceq (t x y : Nat) : cmpOp t FV.eqv (fun x y => x = y) false false x y =
    (!unorderedRaw t x y && !lessRaw t x y && !lessRaw t y x, cmpEv t false x y) := by
  rw [cmpOp_eq]
  by_cases hu : unorderedRaw t x y = true
  · simp [hu]
  · by_cases ht : t < 8
    · simp [hu, ht, lessRaw, decide_eq_not_lt]
    · simp [hu, ht, lessRaw, FV.eqv]

theorem cmpOp_vcne (t x y : Nat) : cmpOp t (fun x y => !x.eqv y) (fun x y => x ≠ y) true false x y =
    (unorderedRaw t x y || lessRaw t x y || lessRaw t y x, cmpEv t false x y) := by
  rw [cmpOp_eq]
  by_cases hu : unorderedRaw t x y = true
  · simp [hu]
  · by_cases ht : t < 8
    · simp [hu, ht, lessRaw, decide_eq_not_lt]
    · simp [hu, ht, lessRaw, FV.eqv]

theorem cmpOp_vclt (t x y : Nat) : cmpOp t FV.lt (fun x y => x < y) false true x y =
    (!unorderedRaw t x y && lessRaw t x y, cmpEv t true x y) := by
  rw [cmpOp_eq]
  by_cases hu : unorderedRaw t x y = true <;> simp [hu, lessRaw]

theorem cmpOp_vcle (t x y : Nat) : cmpOp t (fun x y => !y.lt x) (fun x y => x ≤ y) false true x y =
    (!unorderedRaw t x y && !lessRaw t y x, cmpEv t true x y) := by
  rw [cmpOp_eq]
  by_cases hu : unorderedRaw t x y = true
  · simp [hu]
  · by_cases ht : t < 8
    · simp [hu, ht, lessRaw, decide_le_eq_not_lt]
    · simp [hu, ht, lessRaw]

theorem cmpOp_vcun (t x y : Nat) : cmpOp t (fun _ _ => false) (fun _ _ => false) true false x y =
    (unorderedRaw t x y, cmpEv t false x y) := by
  rw [cmpOp_eq]
  by_cases hu : unorderedRaw t x y = true <;> simp [hu]

/-- A word `r` that is a compare and whose operands are read issues a write of its mask: an active lane its answer, an inactive
lane of the type its old bit, a lane past the type zero. -/
theorem State.vCmp_of_read {r : Out} {s u : State} {t : BitVec 4} {m d : BitVec 3} {a b : BitVec 6} {p : BitVec 1} {i : VIn}
    (h : s.vRead ⟨m.toNat, p.toNat, some a.toNat, some b.toNat, if p = 0 then a.toNat else b.toNat, false, []⟩ = .ok (u, i))
    {f : Nat → Nat → Bool × Ev} {ans : Nat → Nat → Bool} {ev : Nat → Nat → Ev} (hf : ∀ x y, f x y = (ans x y, ev x y))
    (hr : r = s.vCmp t m d a b p f) :
    let z := tySize t.toNat
    let n := 256 / z
    let mk := s.maskOf m.toNat
    let x (l : Nat) := laneAt z i.a l
    let y (l : Nat) := laneAt z i.b l
    ∃ keep w : Mask, r = .next (u.vIssued 2 (some (.mreg d.toNat keep w)) (lanesEv mk n (fun l => ev (x l) (y l)))) ∧
      (∀ l, n ≤ l → keep.getLsbD l = false ∧ w.getLsbD l = false) ∧
      ∀ l, l < n → keep.getLsbD l = !laneOn mk l ∧ (laneOn mk l = true → w.getLsbD l = ans (x l) (y l)) := by
  intro z n mk x y
  have hnow : s.now = u.now := congrArg Clock.tape (State.vRead_clk h).symm
  have hev : lanesEv mk n (fun l => ev (nthD 0 (lanesOf z i.a) l) (nthD 0 (lanesOf z i.b) l)) =
      lanesEv mk n (fun l => ev (x l) (y l)) :=
    lanesEv_congr mk fun l hl => by rw [nthD_lanesOf z _ hl, nthD_lanesOf z _ hl]
  subst hr
  simp only [State.vCmp, h, overLanes_eq, hf, List.map_map, hnow, State.issue_result]
  refine ⟨_, _, by rw [← hev], fun l hl => ?_, fun l hl => ?_⟩
  · have hl' : ¬l < 256 / tySize t.toNat := Nat.not_lt.2 hl
    simp [getLsbD_maskBits_lanes, hl']
  · have hl' : l < 256 / tySize t.toNat := hl
    rw [getLsbD_maskBits_lanes, getLsbD_maskBits_lanes]
    by_cases hon : laneOn (s.maskOf m.toNat) l = true <;> simp [hl', hon, nthD_lanesOf, mk, x, y, z]

/-- Mask logic takes its two masks whole and raises no event. -/
theorem State.vMask_clear {s : State} {a b : BitVec 3} (h : s.vShadow [.m a.toNat, .m b.toNat] = false) (d : BitVec 3)
    (f : Mask → Mask → Mask) :
    s.vMask d a b f = .next (s.vIssued 2 (some (.mreg d.toNat 0 (f (s.mreg a.toNat) (s.mreg b.toNat)))) 0) := by
  simp only [State.vMask, h]
  rfl

/-! Each of these words as one of the shared mask forms. -/

section
variable (s : State) (t : BitVec 4) (m d a' b' : BitVec 3) (a b : BitVec 6) (p : BitVec 1)

theorem exec_vceq : exec (.vceq t m d a b p) s = s.vCmp t m d a b p (cmpOp t.toNat FV.eqv (fun x y => x = y) false false) := rfl
theorem exec_vcne : exec (.vcne t m d a b p) s =
    s.vCmp t m d a b p (cmpOp t.toNat (fun x y => !x.eqv y) (fun x y => x ≠ y) true false) := rfl
theorem exec_vclt : exec (.vclt t m d a b p) s = s.vCmp t m d a b p (cmpOp t.toNat FV.lt (fun x y => x < y) false true) := rfl
theorem exec_vcle : exec (.vcle t m d a b p) s =
    s.vCmp t m d a b p (cmpOp t.toNat (fun x y => !y.lt x) (fun x y => x ≤ y) false true) := rfl
theorem exec_vcun : exec (.vcun t m d a b p) s =
    s.vCmp t m d a b p (cmpOp t.toNat (fun _ _ => false) (fun _ _ => false) true false) := rfl
theorem exec_vmand : exec (.vmand d a' b') s = s.vMask d a' b' (fun x y => x &&& y) := rfl
theorem exec_vmor : exec (.vmor d a' b') s = s.vMask d a' b' (fun x y => x ||| y) := rfl
theorem exec_vmxor : exec (.vmxor d a' b') s = s.vMask d a' b' (fun x y => x ^^^ y) := rfl

end

/-! ### The statements -/

/-- Settles O31: every form is a `vForm` whose lanes are bits alone. -/
theorem vectorPermute : Obligations.VectorPermute := by
  unfold Obligations.VectorPermute
  intro s u i t m k d a b p g _ z n x y o low is mk two one
  have ha : ∀ l < n, nthD 0 (lanesOf z i.a) l = x l := fun l => nthD_lanesOf z i.a
  have hb : ∀ l < n, nthD 0 (lanesOf z i.b) l = y l := fun l => nthD_lanesOf z i.b
  have ho : ∀ l < n, nthD 0 (lanesOf z i.old) l = o l := fun l => nthD_lanesOf z i.old
  have hn : 0 < n := lanes_pos t.toNat
  have hlow (v : Nat) : (bitsRes t.toNat v).1 = low v := congrArg Prod.fst (bitsRes_eq t v)
  have hlen (v : List Byte) : (lanesOf z v).length = n := lanesOf_length z v
  refine ⟨fun h => ⟨?vand, ?vor, ?vxor, ?vandn, ?vperm, ?vzip, ?vunzip⟩, fun h => ?vshuf, fun h => ⟨?vmov, ?vrev⟩,
    fun h => ?vslide, fun h => ?vsel, fun h => ?vbcast, fun hi h => ?vlane⟩
  case vand => exact (exec_vand ..).trans (State.vLane2_bits h 2 (· &&& ·))
  case vor => exact (exec_vor ..).trans (State.vLane2_bits h 2 (· ||| ·))
  case vxor => exact (exec_vxor ..).trans (State.vLane2_bits h 2 (· ^^^ ·))
  case vandn => exact (exec_vandn ..).trans (State.vLane2_bits h 2 (fun x y => x &&& (y ^^^ (2 ^ (8 * z) - 1))))
  case vperm =>
    refine (exec_vperm ..).trans (State.vForm_bits h t m.toNat 3 fun l (hl : l < n) => ?_)
    rw [hb l hl, hlow, hlen, ha _ (Nat.mod_lt _ hn)]
  case vzip =>
    refine (exec_vzip ..).trans (State.vForm_bits h t m.toNat 3 fun l (hl : l < n) => ?_)
    have hl2 : l / 2 < n := Nat.lt_of_le_of_lt (Nat.div_le_self l 2) hl
    rw [ha _ hl2, hb _ hl2]
  case vunzip =>
    refine (exec_vunzip ..).trans (State.vForm_bits h t m.toNat 3 fun l (hl : l < n) => ?_)
    rw [hlen]
    split
    · next hlt => rw [ha _ hlt]
    · rw [hb _ (by omega)]
  case vshuf =>
    refine (exec_vshuf ..).trans (State.vForm_bits h t m.toNat 3 fun l (hl : l < n) => ?_)
    have hj : low (o l) % (2 * n) < 2 * n := Nat.mod_lt _ (by omega)
    rw [ho l hl, hlow, hlen, nthD_append, hlen]
    dsimp only
    split
    · next hlt => rw [ha _ hlt]
    · rw [hb _ (by omega)]
  case vmov => exact (exec_vmov ..).trans (State.vForm_bits h t m.toNat 2 fun l hl => congrArg _ (ha l hl))
  case vrev =>
    refine (exec_vrev ..).trans (State.vForm_bits h t m.toNat 3 fun l (hl : l < n) => ?_)
    rw [hlen, ha _ (by omega)]
  case vslide =>
    refine (exec_vslide ..).trans (State.vForm_bits h t m.toNat 3 fun l (hl : l < n) => ?_)
    dsimp only
    rw [hlen]
    by_cases hj : 0 ≤ (l : Int) + (s.sreg g.toNat).toInt ∧ (l : Int) + (s.sreg g.toNat).toInt < n
    · rw [if_pos hj, if_pos (by simpa using hj), ha _ (by omega)]
    · rw [if_neg hj, if_neg (by simpa using hj)]
      simp [bitsRes]
  case vsel =>
    refine (exec_vsel ..).trans (State.vForm_bits h t 0 2 fun l hl => ?_)
    rw [ha l hl, hb l hl]
  case vbcast => exact (exec_vbcast ..).trans (State.vForm_bits h t m.toNat 2 fun _ _ => rfl)
  case vlane =>
    refine (exec_vlane ..).trans (State.vForm_bits h t m.toNat 2 fun l hl => ?_)
    simp [bitsRes, Nat.ne_of_lt (Nat.lt_trans hi (by decide : 8 < 13))]

/-- Settles O32: a compare is a `vCmp` of its answer and event lane by lane, mask logic a `vMask`. -/
theorem vectorCompareMask : Obligations.VectorCompareMask := by
  unfold Obligations.VectorCompareMask
  refine ⟨fun s u i t m d a b p _ h => ⟨?vceq, ?vcne, ?vclt, ?vcle, ?vcun⟩, fun s d a b h => ⟨?vmand, ?vmor, ?vmxor⟩⟩
  case vceq => exact (State.vCmp_of_read h (cmpOp_vceq t.toNat) (exec_vceq ..) :)
  case vcne => exact (State.vCmp_of_read h (cmpOp_vcne t.toNat) (exec_vcne ..) :)
  case vclt => exact (State.vCmp_of_read h (cmpOp_vclt t.toNat) (exec_vclt ..) :)
  case vcle => exact (State.vCmp_of_read h (cmpOp_vcle t.toNat) (exec_vcle ..) :)
  case vcun => exact (State.vCmp_of_read h (cmpOp_vcun t.toNat) (exec_vcun ..) :)
  case vmand => exact (exec_vmand ..).trans (State.vMask_clear h d _)
  case vmor => exact (exec_vmor ..).trans (State.vMask_clear h d _)
  case vmxor => exact (exec_vmxor ..).trans (State.vMask_clear h d _)

end Sys2Proof.Machine
end
